-- ==== Sys2Proof/Word.lean ====
section
/-! DEFINITION. The plain word types of the Ramtar architecture (R3 to R6). -/
namespace Sys2Proof

/-- A byte of memory. -/
abbrev Byte := BitVec 8
/-- A 32-bit word: a lane register, an instruction word, a literal. -/
abbrev Word := BitVec 32
/-- A 64-bit value: a uniform register, a lane pair, an address before its check (R4, R58). -/
abbrev Dword := BitVec 64
/-- A set of lanes of one train: bit i stands for lane i (R149). -/
abbrev Mask := BitVec 64
/-- A 7-bit operand field (R268). -/
abbrev Fld := BitVec 7

end Sys2Proof
end

