-- ==== Sys2Proof/Syntax.lean ====
section
/-! DEFINITION. The instructions and events of the machine, as the spec's table lists them. -/
namespace Sys2Proof

/-- The two control fields every word carries: the chain bit K [31] and the guard G [30:29] (R265). -/
structure Ctl where
  k : Bool
  g : BitVec 2
  deriving DecidableEq, Repr

/-- A client request as the service receives it: the header of R26 (KIND is given by the request's constructor, and `kind` holds its
number for the reply), the number of body bytes that the message holds behind it, the endpoint that sent it and the port by which it
came (0 to 7 the Ultra Ethernet ports, 8 the management port: R13, R20, R30). DESIGN CHOICE, unsafe (log 107). -/
structure Req where
  reqid    : Word
  kind     : Nat
  part     : Nat
  reserved : BitVec 12
  bodyLen  : Word
  bodyGot  : Nat
  endpoint : Nat
  port     : Nat
  deriving DecidableEq, Repr

/-- The body of a map request (R27): pages under the attributes word of R65, or a remote-window entry of R15. -/
inductive MapBody where
  | pages  (addr len : Dword) (attrs : Word)
  | window (addr len : Dword) (peer peerWindow : Nat) (rights : BitVec 3)
  deriving DecidableEq, Repr

/-- The items a query request may select (R27, R53, R56, R72, R73, R75, R97, R143, R185, R200, R202). -/
inductive QueryItem where
  | object (handle : Word) (clear : Bool)
  | granule (addr : Dword)
  | grid (seq : Nat)
  | image (number : Nat)
  | core (number : Nat)
  | partition
  | flash
  | port (number : Nat)
  | channel (number : Nat)
  | selfTest
  deriving DecidableEq, Repr

/-- The body of a partition create request (R27, R30, R35). -/
structure PartBody where
  x : Nat
  y : Nat
  w : Nat
  h : Nat
  hbm : Nat
  deep : Nat
  windows : Nat
  clients : List Nat
  traversal : Nat
  sampler : Nat
  walker : Nat
  deriving DecidableEq, Repr

/-- A catalogue image as handed to the service (R35): its header's kind, version and reserved fields (R5), its bytes and its
signature. -/
structure CatalogueImage where
  kind : Nat
  version : Nat
  reserved : Nat
  bytes : List Byte
  signature : List Byte
  deriving DecidableEq, Repr

/-- What bring-up's tests find of the physical part (R31, R32): each list names failing units. `cores` holds (column, physical row)
pairs, `channels` (stack, pseudo-channel) pairs, `meshLinks` links by number, `flashUnits` flash packages and `flashOk` whether the
working flash suffices, `lanes` (port, lane) pairs. -/
structure SelfTest where
  imageVerified  : Bool
  serviceCores   : List Nat
  management     : Bool
  cores          : List (Nat × Nat)
  channels       : List (Nat × Nat)
  meshLinks      : List Nat
  flashUnits     : List Nat
  flashOk        : Bool
  lanes          : List (Nat × Nat)
  deriving DecidableEq, Repr, Inhabited

/-- A write chunk of the remote-window protocol at its receiver (R16); `port` is the port by which it came, `source` the endpoint
stamped by the sending port (R19), `crcOk` the outcome of its CRC-32C check (R17). -/
structure PeerWrite where
  port   : Nat
  source : Nat
  window : Nat
  offset : Nat
  tag    : Word
  data   : List Byte
  crcOk  : Bool
  deriving DecidableEq, Repr

/-- A read request at the target (R16). -/
structure PeerRead where
  port   : Nat
  source : Nat
  window : Nat
  offset : Nat
  length : Nat
  tag    : Word
  deriving DecidableEq, Repr

/-- An atomic request at the target (R16, R18): `aop` coded as in R281, `cas` for `acas` with the new value in `operand2`. -/
structure PeerAtomic where
  port     : Nat
  source   : Nat
  window   : Nat
  offset   : Nat
  tag      : Word
  aop      : BitVec 4
  wide     : Bool
  cas      : Bool
  operand  : Dword
  operand2 : Dword
  deriving DecidableEq, Repr

/-- A read reply or an atomic reply at the source (R16): the prior value of an atomic reply stands in `prior`. -/
structure PeerReply where
  port   : Nat
  source : Nat
  window : Nat
  offset : Nat
  tag    : Word
  data   : List Byte
  prior  : Dword
  crcOk  : Bool
  deriving DecidableEq, Repr

/-- An acknowledge at the source (R16): its event's subject carries it. -/
structure PeerAck where
  port   : Nat
  source : Nat
  window : Nat
  offset : Nat
  tag    : Word
  status : Nat
  deriving DecidableEq, Repr

/-- Every operation and event of the spec's table, one constructor a row. A word's constructor holds the word's operand
fields as R268 and R275 to R284 name them (`lit` is the literal slot of format L); an event's constructor holds what its
rule needs to be named: a request or a peer's message as it arrived. An event of the device's own units holds nothing: which
train, operation, line or core it is about is the `Subject` that the act names and `State.subject` holds. -/
inductive Instr where
  /-- R265. Does nothing. -/
  | nop (c : Ctl)
  /-- R290. Copies a lane register. -/
  | mov (c : Ctl) (d a : BitVec 7)
  /-- R288. 32-bit wrapping add. -/
  | add (c : Ctl) (d a b : BitVec 7)
  /-- R288. 32-bit wrapping add with a uniform operand. -/
  | addS (c : Ctl) (d a b : BitVec 7)
  /-- R288. 32-bit wrapping subtract. -/
  | sub (c : Ctl) (d a b : BitVec 7)
  /-- R288. 32-bit wrapping subtract with a uniform operand. -/
  | subS (c : Ctl) (d a b : BitVec 7)
  /-- R292. 64-bit add of lane pairs. -/
  | addB64 (c : Ctl) (d a b : BitVec 7)
  /-- R292. 64-bit subtract of lane pairs. -/
  | subB64 (c : Ctl) (d a b : BitVec 7)
  /-- R288. Low 32 bits of the product. -/
  | mul (c : Ctl) (d a b : BitVec 7)
  /-- R288. Low 32 bits of the product with a uniform operand. -/
  | mulS (c : Ctl) (d a b : BitVec 7)
  /-- R288. High 32 bits of the signed product. -/
  | mulhI32 (c : Ctl) (d a b : BitVec 7)
  /-- R288. High 32 bits of the unsigned product. -/
  | mulhN32 (c : Ctl) (d a b : BitVec 7)
  /-- R288. vd := a × b + d, low 32 bits. -/
  | mad (c : Ctl) (d a b : BitVec 7)
  /-- R288. Multiply-add with a uniform operand. -/
  | madS (c : Ctl) (d a b : BitVec 7)
  /-- R288. Signed minimum. -/
  | minI32 (c : Ctl) (d a b : BitVec 7)
  /-- R288. Unsigned minimum. -/
  | minN32 (c : Ctl) (d a b : BitVec 7)
  /-- R288. Signed maximum. -/
  | maxI32 (c : Ctl) (d a b : BitVec 7)
  /-- R288. Unsigned maximum. -/
  | maxN32 (c : Ctl) (d a b : BitVec 7)
  /-- R288. Bitwise and. -/
  | and (c : Ctl) (d a b : BitVec 7)
  /-- R288. Bitwise and with a uniform operand. -/
  | andS (c : Ctl) (d a b : BitVec 7)
  /-- R288. Bitwise or. -/
  | or (c : Ctl) (d a b : BitVec 7)
  /-- R288. Bitwise or with a uniform operand. -/
  | orS (c : Ctl) (d a b : BitVec 7)
  /-- R288. Bitwise xor. -/
  | xor (c : Ctl) (d a b : BitVec 7)
  /-- R288. Bitwise xor with a uniform operand. -/
  | xorS (c : Ctl) (d a b : BitVec 7)
  /-- R288. x and not y. -/
  | andn (c : Ctl) (d a b : BitVec 7)
  /-- R288. Shift left by a full 32-bit count. -/
  | shl (c : Ctl) (d a b : BitVec 7)
  /-- R288. Logical shift right by a full 32-bit count. -/
  | shr (c : Ctl) (d a b : BitVec 7)
  /-- R288. Arithmetic shift right by a full 32-bit count. -/
  | sar (c : Ctl) (d a b : BitVec 7)
  /-- R288. Rotate left by the count modulo 32. -/
  | rol (c : Ctl) (d a b : BitVec 7)
  /-- R289. Shift left by an immediate. -/
  | shli (c : Ctl) (d a : BitVec 7) (n : BitVec 5)
  /-- R289. Logical shift right by an immediate. -/
  | shri (c : Ctl) (d a : BitVec 7) (n : BitVec 5)
  /-- R289. Arithmetic shift right by an immediate. -/
  | sari (c : Ctl) (d a : BitVec 7) (n : BitVec 5)
  /-- R289. Adds a signed 7-bit immediate. -/
  | addi (c : Ctl) (d a n : BitVec 7)
  /-- R289. Ands with an unsigned 7-bit immediate. -/
  | andi (c : Ctl) (d a n : BitVec 7)
  /-- R291. Extracts a bit field, optionally sign-extended. -/
  | bfx (c : Ctl) (d a b : BitVec 7)
  /-- R291. Inserts a bit field into vd. -/
  | bfi (c : Ctl) (d a b : BitVec 7)
  /-- R290. Wrapping absolute value. -/
  | abs (c : Ctl) (d a : BitVec 7)
  /-- R290. Wrapping negation. -/
  | neg (c : Ctl) (d a : BitVec 7)
  /-- R290. Counts leading zero bits. -/
  | clz (c : Ctl) (d a : BitVec 7)
  /-- R290. Counts one bits. -/
  | popc (c : Ctl) (d a : BitVec 7)
  /-- R290. Reverses the bits. -/
  | brev (c : Ctl) (d a : BitVec 7)
  /-- R292. Adds a sign-extended offset to a 64-bit pair. -/
  | lea (c : Ctl) (d a b : BitVec 7)
  /-- R293. Selects va or vb by the predicate that g1 names. -/
  | sel (c : Ctl) (d a b : BitVec 7)
  /-- R294. Writes a sign-extended 14-bit immediate. -/
  | movi (c : Ctl) (d : BitVec 7) (i : BitVec 14)
  /-- R294. Writes the 32-bit literal of the next slot. -/
  | movk (c : Ctl) (d : BitVec 7) (lit : Word)
  /-- R294. Broadcasts a uniform register to lanes, 32 bits or a pair. -/
  | movS (c : Ctl) (d a : BitVec 7) (pair : BitVec 1)
  /-- R295. Writes equality to a predicate. -/
  | cmpEq (c : Ctl) (d a b : BitVec 7)
  /-- R295. Equality against a uniform operand. -/
  | cmpEqS (c : Ctl) (d a b : BitVec 7)
  /-- R295. Writes inequality to a predicate. -/
  | cmpNe (c : Ctl) (d a b : BitVec 7)
  /-- R295. Inequality against a uniform operand. -/
  | cmpNeS (c : Ctl) (d a b : BitVec 7)
  /-- R295. Signed less-than to a predicate. -/
  | cmpLtI32 (c : Ctl) (d a b : BitVec 7)
  /-- R295. Signed less-than against a uniform operand. -/
  | cmpLtI32S (c : Ctl) (d a b : BitVec 7)
  /-- R295. Signed less-or-equal to a predicate. -/
  | cmpLeI32 (c : Ctl) (d a b : BitVec 7)
  /-- R295. Signed less-or-equal against a uniform operand. -/
  | cmpLeI32S (c : Ctl) (d a b : BitVec 7)
  /-- R295. Unsigned less-than to a predicate. -/
  | cmpLtN32 (c : Ctl) (d a b : BitVec 7)
  /-- R295. Unsigned less-than against a uniform operand. -/
  | cmpLtN32S (c : Ctl) (d a b : BitVec 7)
  /-- R295. Unsigned less-or-equal to a predicate. -/
  | cmpLeN32 (c : Ctl) (d a b : BitVec 7)
  /-- R295. Unsigned less-or-equal against a uniform operand. -/
  | cmpLeN32S (c : Ctl) (d a b : BitVec 7)
  /-- R295. Equality with a signed immediate. -/
  | cmpiEq (c : Ctl) (d a n : BitVec 7)
  /-- R295. Signed less-than a signed immediate. -/
  | cmpiLtI32 (c : Ctl) (d a n : BitVec 7)
  /-- R295. Unsigned less-than an unsigned immediate. -/
  | cmpiLtN32 (c : Ctl) (d a n : BitVec 7)
  /-- R306. f32 add with one rounding. -/
  | fadd (c : Ctl) (d a b : BitVec 7)
  /-- R306. f32 add with a uniform operand. -/
  | faddS (c : Ctl) (d a b : BitVec 7)
  /-- R306. f32 subtract. -/
  | fsub (c : Ctl) (d a b : BitVec 7)
  /-- R306. f32 subtract with a uniform operand. -/
  | fsubS (c : Ctl) (d a b : BitVec 7)
  /-- R306. f32 multiply. -/
  | fmul (c : Ctl) (d a b : BitVec 7)
  /-- R306. f32 multiply with a uniform operand. -/
  | fmulS (c : Ctl) (d a b : BitVec 7)
  /-- R306. f32 fused multiply-add into vd. -/
  | ffma (c : Ctl) (d a b : BitVec 7)
  /-- R306. f32 fused multiply-add with a uniform operand. -/
  | ffmaS (c : Ctl) (d a b : BitVec 7)
  /-- R312. f32 minimumNumber. -/
  | fmin (c : Ctl) (d a b : BitVec 7)
  /-- R312. f32 maximumNumber. -/
  | fmax (c : Ctl) (d a b : BitVec 7)
  /-- R312. Clears the sign, NaN to canonical. -/
  | fabs (c : Ctl) (d a : BitVec 7)
  /-- R312. Inverts the sign, NaN to canonical. -/
  | fneg (c : Ctl) (d a : BitVec 7)
  /-- R308. f64 add of pairs. -/
  | faddF64 (c : Ctl) (d a b : BitVec 7)
  /-- R308. f64 multiply of pairs. -/
  | fmulF64 (c : Ctl) (d a b : BitVec 7)
  /-- R308. f64 fused multiply-add into the pair vd. -/
  | ffmaF64 (c : Ctl) (d a b : BitVec 7)
  /-- R308. f64 subtract of pairs. -/
  | fsubF64 (c : Ctl) (d a b : BitVec 7)
  /-- R309. Packed h16 add. -/
  | faddH16x2 (c : Ctl) (d a b : BitVec 7)
  /-- R309. Packed h16 multiply. -/
  | fmulH16x2 (c : Ctl) (d a b : BitVec 7)
  /-- R309. Packed h16 fused multiply-add. -/
  | ffmaH16x2 (c : Ctl) (d a b : BitVec 7)
  /-- R309. Packed bf16 add. -/
  | faddBf16x2 (c : Ctl) (d a b : BitVec 7)
  /-- R309. Packed bf16 multiply. -/
  | fmulBf16x2 (c : Ctl) (d a b : BitVec 7)
  /-- R309. Packed bf16 fused multiply-add. -/
  | ffmaBf16x2 (c : Ctl) (d a b : BitVec 7)
  /-- R310. Adds the exact bf16 two-term dot product to f32 vd with one rounding. -/
  | fdot2Bf16 (c : Ctl) (d a b : BitVec 7)
  /-- R311. Multiplies by 2^vb with one rounding. -/
  | fscale (c : Ctl) (d a b : BitVec 7)
  /-- R313. f32 equal compare to a predicate. -/
  | fcmpEqF32 (c : Ctl) (d a b : BitVec 7)
  /-- R313. f32 not-equal-or-unordered compare. -/
  | fcmpNeF32 (c : Ctl) (d a b : BitVec 7)
  /-- R313. f32 ordered less-than compare. -/
  | fcmpLtF32 (c : Ctl) (d a b : BitVec 7)
  /-- R313. f32 ordered less-or-equal compare. -/
  | fcmpLeF32 (c : Ctl) (d a b : BitVec 7)
  /-- R313. f32 unordered compare. -/
  | fcmpUnF32 (c : Ctl) (d a b : BitVec 7)
  /-- R313. f64 equal compare of pairs. -/
  | fcmpEqF64 (c : Ctl) (d a b : BitVec 7)
  /-- R313. f64 ordered less-than of pairs. -/
  | fcmpLtF64 (c : Ctl) (d a b : BitVec 7)
  /-- R313. f64 ordered less-or-equal of pairs. -/
  | fcmpLeF64 (c : Ctl) (d a b : BitVec 7)
  /-- R314. Writes the one-hot class of an f32 value. -/
  | fclass (c : Ctl) (d a : BitVec 7)
  /-- R315. Rounds f32 to an integral value in the given mode. -/
  | frnd (c : Ctl) (d a : BitVec 7) (mode : BitVec 2)
  /-- R316. Converts one value per lane by conversion code. -/
  | fcvt (c : Ctl) (d a : BitVec 7) (mode : BitVec 2) (pair : BitVec 5)
  /-- R318. Converts several packed elements at once. -/
  | fcvtPk (c : Ctl) (d a : BitVec 7) (mode : BitVec 2) (pair : BitVec 5)
  /-- R319. Correctly rounded reciprocal. -/
  | frcp (c : Ctl) (d a : BitVec 7)
  /-- R319. Correctly rounded reciprocal square root. -/
  | frsq (c : Ctl) (d a : BitVec 7)
  /-- R319. Correctly rounded square root. -/
  | fsqrt (c : Ctl) (d a : BitVec 7)
  /-- R319. Correctly rounded 2^x. -/
  | fexp2 (c : Ctl) (d a : BitVec 7)
  /-- R319. Correctly rounded log2. -/
  | flog2 (c : Ctl) (d a : BitVec 7)
  /-- R319. Correctly rounded sin(πx). -/
  | fsinpi (c : Ctl) (d a : BitVec 7)
  /-- R319. Correctly rounded cos(πx). -/
  | fcospi (c : Ctl) (d a : BitVec 7)
  /-- R319. Correctly rounded tanh. -/
  | ftanh (c : Ctl) (d a : BitVec 7)
  /-- R319. Correctly rounded f32 divide. -/
  | fdiv (c : Ctl) (d a b : BitVec 7)
  /-- R297. Copies a uniform register. -/
  | smov (c : Ctl) (d a : BitVec 7)
  /-- R297. Writes a sign-extended immediate to a uniform register. -/
  | smovi (c : Ctl) (d : BitVec 7) (i : BitVec 14)
  /-- R297. Writes the zero-extended literal to a uniform register. -/
  | smovk (c : Ctl) (d : BitVec 7) (lit : Word)
  /-- R297. 64-bit uniform add. -/
  | sadd (c : Ctl) (d a b : BitVec 7)
  /-- R297. 64-bit uniform subtract. -/
  | ssub (c : Ctl) (d a b : BitVec 7)
  /-- R297. 64-bit uniform multiply. -/
  | smul (c : Ctl) (d a b : BitVec 7)
  /-- R297. Uniform bitwise and. -/
  | sand (c : Ctl) (d a b : BitVec 7)
  /-- R297. Uniform bitwise or. -/
  | sor (c : Ctl) (d a b : BitVec 7)
  /-- R297. Uniform bitwise xor. -/
  | sxor (c : Ctl) (d a b : BitVec 7)
  /-- R297. Uniform shift left. -/
  | sshl (c : Ctl) (d a b : BitVec 7)
  /-- R297. Uniform logical shift right. -/
  | sshr (c : Ctl) (d a b : BitVec 7)
  /-- R297. Uniform add of a signed immediate. -/
  | saddi (c : Ctl) (d a n : BitVec 7)
  /-- R298. Uniform equality written to a predicate in taking-part lanes. -/
  | scmpEq (c : Ctl) (d a b : BitVec 7)
  /-- R298. Uniform signed less-than to a predicate. -/
  | scmpLtI64 (c : Ctl) (d a b : BitVec 7)
  /-- R298. Uniform unsigned less-than to a predicate. -/
  | scmpLtN64 (c : Ctl) (d a b : BitVec 7)
  /-- R299. Loads from constant space into a uniform register. -/
  | sld (c : Ctl) (d a : BitVec 7) (w : BitVec 3) (off : BitVec 4)
  /-- R300. Reads one lane's register into a uniform register. -/
  | rdln (c : Ctl) (d a : BitVec 7) (lane : BitVec 6)
  /-- R301. Predicate and. -/
  | pand (c : Ctl) (d a b : BitVec 7)
  /-- R301. Predicate or. -/
  | por (c : Ctl) (d a b : BitVec 7)
  /-- R301. Predicate xor. -/
  | pxor (c : Ctl) (d a b : BitVec 7)
  /-- R301. Predicate and-not. -/
  | pandn (c : Ctl) (d a b : BitVec 7)
  /-- R301. Predicate copy. -/
  | pmov (c : Ctl) (d a : BitVec 7)
  /-- R301. Predicate not. -/
  | pnot (c : Ctl) (d a : BitVec 7)
  /-- R302. Points guard latch N at a predicate. -/
  | guard (c : Ctl) (latch : BitVec 1) (a : BitVec 7)
  /-- R301. Sets a predicate to a constant. -/
  | pset (c : Ctl) (d : BitVec 7) (v : BitVec 1)
  /-- R322. Takes va from lane vb within the split. -/
  | shflIdx (c : Ctl) (d a b : BitVec 7)
  /-- R322. Takes va from lane L − vb. -/
  | shflUp (c : Ctl) (d a b : BitVec 7)
  /-- R322. Takes va from lane L + vb. -/
  | shflDn (c : Ctl) (d a b : BitVec 7)
  /-- R322. Takes va from lane L xor vb. -/
  | shflXor (c : Ctl) (d a b : BitVec 7)
  /-- R323. True when pa holds in some taking-part lane. -/
  | voteAny (c : Ctl) (d a : BitVec 7)
  /-- R323. True when pa holds in every taking-part lane. -/
  | voteAll (c : Ctl) (d a : BitVec 7)
  /-- R324. Writes the lane mask of pa to a pair. -/
  | ballot (c : Ctl) (d a : BitVec 7)
  /-- R324. Writes the mask of lanes holding an equal value. -/
  | matchLanes (c : Ctl) (d a : BitVec 7)
  /-- R325. Reduces over the lane positions by a fixed tree. -/
  | redux (c : Ctl) (d a op : BitVec 7)
  /-- R325. Inclusive prefix fold in ascending lane order. -/
  | scan (c : Ctl) (d a op : BitVec 7)
  /-- R326. Writes split size, width, car mask and rank. -/
  | wid (c : Ctl) (d : BitVec 7)
  /-- R323. True in the lowest taking-part lane only. -/
  | elect (c : Ctl) (d : BitVec 7)
  /-- R327. Branches the guarded lanes, dividing the split as needed. -/
  | bra (c : Ctl) (off : BitVec 21)
  /-- R328. Pushes a return entry on each lane's stack and branches. -/
  | call (c : Ctl) (off : BitVec 21)
  /-- R329. Pops each lane's return entry and transfers to it. -/
  | ret (c : Ctl)
  /-- R330. Transfers to the packet address in a uniform register. -/
  | jmpi (c : Ctl) (a : BitVec 7)
  /-- R155. Pushes a join frame for address L onto the siding. -/
  | fork (k : Bool) (off : BitVec 21)
  /-- R156. Arrives at the innermost join frame, completing it when all its lanes have arrived. -/
  | join (k : Bool)
  /-- R157. Ends the guarded lanes; the train ends when every lane has exited. -/
  | exit (c : Ctl)
  /-- R333. Starts an idempotent region at its own address. -/
  | idem (k : Bool)
  /-- R334. Raises trap instruction (0x20). -/
  | trap (c : Ctl) (n : BitVec 14)
  /-- R334. Raises breakpoint (0x21). -/
  | brk (c : Ctl) (n : BitVec 14)
  /-- R168. Arrives at a barrier and writes the phase parity. -/
  | barArrive (k : Bool) (pd : BitVec 7) (bar : BitVec 5)
  /-- R169. Holds the train until the barrier's parity differs from pa. -/
  | barWait (k : Bool) (pa : BitVec 7) (bar : BitVec 5)
  /-- R169. Arrives and then waits for the phase to complete. -/
  | barSync (k : Bool) (bar : BitVec 5)
  /-- R168. Arrives and leaves the barrier's membership. -/
  | barDrop (k : Bool) (pd : BitVec 7) (bar : BitVec 5)
  /-- R172. Adds expected bytes to the barrier's PENDING. -/
  | barExpect (k : Bool) (sb : BitVec 7) (bar : BitVec 5)
  /-- R175. Tests or suspends for a barrier phase with a cycle limit. -/
  | barTry (k : Bool) (pd pa : BitVec 7) (bar : BitVec 5) (sb : BitVec 2)
  /-- R179. Holds the split until at most k operations remain on the counter. -/
  | wait (k : Bool) (ac : BitVec 4) (lim : BitVec 8)
  /-- R338. Orders the split's accesses at its scope. -/
  | fence (c : Ctl) (sc : BitVec 3)
  /-- R335. Ends the current slot's turn. -/
  | yield (c : Ctl)
  /-- R349. Loads from private space. -/
  | ldp (c : Ctl) (d a : BitVec 7) (w : BitVec 3) (off : BitVec 4)
  /-- R349. Stores to private space. -/
  | stp (c : Ctl) (d a : BitVec 7) (w : BitVec 3) (off : BitVec 4)
  /-- R349. Loads from scratchpad. -/
  | lds (c : Ctl) (d a : BitVec 7) (w : BitVec 3) (off : BitVec 4)
  /-- R349. Stores to scratchpad. -/
  | sts (c : Ctl) (d a : BitVec 7) (w : BitVec 3) (off : BitVec 4)
  /-- R349. Loads from cluster scratchpad. -/
  | ldc (c : Ctl) (d a : BitVec 7) (w : BitVec 3) (off : BitVec 4)
  /-- R349. Stores to cluster scratchpad. -/
  | stc (c : Ctl) (d a : BitVec 7) (w : BitVec 3) (off : BitVec 4)
  /-- R351. Counted global load. -/
  | ldg (c : Ctl) (d : BitVec 7) (p : BitVec 6) (off : BitVec 4) (ac sz : BitVec 2)
  /-- R351. Counted global store. -/
  | stg (c : Ctl) (d : BitVec 7) (p : BitVec 6) (off : BitVec 4) (ac sz : BitVec 2)
  /-- R352. Counted global acquire load. -/
  | ldgAcq (c : Ctl) (d : BitVec 7) (p : BitVec 6) (sc : BitVec 3) (sz ac : BitVec 2)
  /-- R352. Counted global release store. -/
  | stgRel (c : Ctl) (d : BitVec 7) (p : BitVec 6) (sc : BitVec 3) (sz ac : BitVec 2)
  /-- R349. Loads from constant space. -/
  | ldk (c : Ctl) (d a : BitVec 7) (w : BitVec 3) (off : BitVec 4)
  /-- R87. Tolerance load: walks an object's path, pins the returned node and may post a refinement. -/
  | ldo (c : Ctl) (d a : BitVec 7) (ac : BitVec 4)
  /-- R91. Releases the train's pins on an object. -/
  | odrop (c : Ctl) (a : BitVec 7)
  /-- R92. Requests refinement of an object path and waits for its commit. -/
  | oreqRefine (c : Ctl) (d a : BitVec 7) (ac : BitVec 4)
  /-- R92. Requests eviction of an object node and waits for its commit. -/
  | oreqEvict (c : Ctl) (d a : BitVec 7) (ac : BitVec 4)
  /-- R353. Migration hint that starts promotion or cancels demotion. -/
  | pfg (c : Ctl) (a : BitVec 7)
  /-- R355. Atomic read-modify-write returning the prior value. -/
  | atom (c : Ctl) (d a b : BitVec 7) (lit : Word)
  /-- R355. Atomic compare-and-swap returning the prior value. -/
  | acas (c : Ctl) (d a b : BitVec 7) (lit : Word)
  /-- R355. Atomic reduction with no returned value. -/
  | red (c : Ctl) (a b : BitVec 7) (lit : Word)
  /-- R358. Engine copy of a shape box to or from a flat side. -/
  | tcopy (c : Ctl) (d a : BitVec 7) (ac : BitVec 4) (rel : BitVec 1) (lit : Word)
  /-- R359. Engine gather of one shape row per lane to the flat side. -/
  | tgath (c : Ctl) (d a : BitVec 7) (ac : BitVec 4) (rel : BitVec 1)
  /-- R359. Engine scatter of one row per lane into the shape. -/
  | tscat (c : Ctl) (d a : BitVec 7) (ac : BitVec 4) (rel : BitVec 1)
  /-- R227. Makes or redefines an operand buffer reservation from a constant record. -/
  | obres (c : Ctl) (ob : BitVec 3) (lit : Word)
  /-- R230. Engine fill of a reservation from global memory. -/
  | obld (c : Ctl) (barn : BitVec 4) (ob : BitVec 3) (a : BitVec 7) (ac : BitVec 4) (lvl : BitVec 2) (rel : BitVec 1)
  /-- R231. Gathers A rows and adds one exact K-block product to a tile. -/
  | mma (c : Ctl) (zt : BitVec 2) (a b : BitVec 7) (lit : Word)
  /-- R233. Clears the lane's row of a tile. -/
  | zclr (c : Ctl) (zt : BitVec 2)
  /-- R233. Copies eight tile elements of the lane's row into registers. -/
  | zmov (c : Ctl) (d : BitVec 7) (zs grp : BitVec 2)
  /-- R233. Engine store of each lane's tile row to scratchpad. -/
  | zst (c : Ctl) (barn : BitVec 4) (zt : BitVec 2) (a : BitVec 7) (ac : BitVec 4) (lvl : BitVec 2) (rel : BitVec 1)
  /-- R249. Submits one ray per lane to the yard. -/
  | rayq (c : Ctl) (d a : BitVec 7) (ac : BitVec 4) (rel : BitVec 1)
  /-- R255. Reads the lane's any-hit candidate. -/
  | cand (c : Ctl) (d : BitVec 7)
  /-- R255. Records the lane's verdict on its candidate. -/
  | cacc (c : Ctl) (a : BitVec 7)
  /-- R264. Samples a texture with exact filtering. -/
  | tex (c : Ctl) (d a : BitVec 7) (ac : BitVec 4) (rel : BitVec 1) (lit : Word)
  /-- R264. Returns a texture level's size, level count and format. -/
  | texq (c : Ctl) (d a : BitVec 7) (lit : Word)
  /-- R363. Launches a grid from a launch record and returns its sequence number or refusal. -/
  | spawn (c : Ctl) (d a : BitVec 7) (queue : BitVec 4)
  /-- R364. Asks the resident service for a figure. -/
  | svc (c : Ctl) (d : BitVec 7) (code : BitVec 14)
  /-- R339. Reads a state register. -/
  | rdst (c : Ctl) (d : BitVec 7) (form : BitVec 2) (reg : BitVec 12)
  /-- R340. Writes a state register's writable fields. -/
  | wrst (c : Ctl) (d : BitVec 7) (form : BitVec 2) (reg : BitVec 12)
  /-- R188. Returns from a handler, restoring the frozen state, or vacates the train. -/
  | eret (k : Bool)
  /-- R188. Returns from a handler and replays the split from its region entry. -/
  | eretReplay (k : Bool)
  /-- R343. Drops cached translations of a page or of the partition. -/
  | tinv (k : Bool) (a : BitVec 7) (kind : BitVec 2)
  /-- R344. Waits for the team and outstanding operations, then writes the csave image. -/
  | csave (k : Bool)
  /-- R199. Restores the csave image and re-issues saved stores in a resume entry. -/
  | crest (k : Bool)
  /-- R238. Writes the train's frozen matrix operations as an image. -/
  | zsave (k : Bool) (a : BitVec 7)
  /-- R238. Checks and loads a frozen matrix operation image. -/
  | zload (k : Bool) (a : BitVec 7)
  /-- R346. Reads the quiescence counter into a uniform register. -/
  | quies (k : Bool) (d : BitVec 7)
  /-- R55. The resident service checks an image in format, room and relocation passes, then places and relocates it or rejects it whole. -/
  | loadImage (r : Req) (image : List Byte)
  /-- R65. A map request creates a mapping with the given attributes, page size and tier hint, or opens a remote-window entry. -/
  | map (r : Req) (body : MapBody)
  /-- R64. An unmap request ends a mapping for later accesses, advances the epoch and passes the freed pages to the quarantine queue. -/
  | unmap (r : Req) (addr len : Dword)
  /-- R365. A copy in request is checked on arrival and is given a sequence number or refused with bad request. -/
  | copyIn (r : Req) (addr len : Dword) (after : List Nat) (data : List Byte)
  /-- R365. A copy out request is checked on arrival and is given a sequence number or refused with bad request. -/
  | copyOut (r : Req) (addr len : Dword) (after : List Nat)
  /-- R123. A launch request reads and checks the launch record, then gives the grid a sequence number and a queue place or refuses it. -/
  | launch (r : Req) (image : Nat) (record : Dword) (queue : Nat)
  /-- R28. A wait request reports the completion status of a sequence number and frees the event entry, or waits for it. -/
  | waitForEvent (r : Req) (seq ms : Nat)
  /-- R27. A query request returns the selected item's figures and counters, optionally clearing object counters. -/
  | query (r : Req) (item : QueryItem)
  /-- R36. An attest request returns a signed report holding the nonce, measurements, partition count and red-signal flag. -/
  | attest (r : Req) (nonce : List Byte)
  /-- R30. A partition create request on the management port makes a partition and loads its chosen catalogue images into the cores' control stores. -/
  | partitionCreate (r : Req) (body : PartBody)
  /-- R30. A partition destroy request ends the partition's grids with grid error, frees its events and quarantines its pages. -/
  | partitionDestroy (r : Req) (part : Nat)
  /-- R200. A resume context request moves a wholly vacated grid to a target partition or refuses it. -/
  | resumeContext (r : Req) (desc : Dword) (target : Nat)
  /-- R35. A catalogue request verifies a signed sequencer image and keeps it under the lowest free catalogue number. -/
  | catalogue (r : Req) (kind : Nat) (image : CatalogueImage)
  /-- R31. At power-on the boot ROM verifies the service image and bring-up runs its tests and spare substitution in order until requests are accepted. -/
  | bringUp (found : SelfTest)
  /-- R16. A received write chunk is checked and written as one indivisible unit, then acknowledged. -/
  | writeChunk (m : PeerWrite)
  /-- R16. A received read request reads one chunk as a unit and sends a read reply. -/
  | readRequest (m : PeerRead)
  /-- R17. A received read reply is checked and written to the local destination chunk, or it and later chunks are settled with an error mark. -/
  | readReply (m : PeerReply)
  /-- R18. The target port performs a remote atomic as one read-modify-write at the home slice and sends the prior value. -/
  | atomicRequest (m : PeerAtomic)
  /-- R16. A received atomic reply delivers the prior value to the issuing train and retires the atomic. -/
  | atomicReply (m : PeerReply)
  /-- R272. Issuing a word whose OP is reserved, unassigned or 0xFF, or a malformed packet, raises illegal instruction or illegal packet before any effect. -/
  | illegalInstruction (packet : Bool) (word : Word)
  /-- R26. A client request whose KIND is unknown receives bad request and has no effect. -/
  | unknownKindRequest (r : Req) (kind : Nat)
  /-- R366. Once its after list has completed, the service cores perform an accepted copy in 256-byte chunks at system scope and complete its event. Subject: seq, chunk. -/
  | copyPerform
  /-- R28. The time limit of a pending wait request expires and the wait is answered with time limit while the work continues. Subject: reqid, endpoint. -/
  | waitTimeLimit
  /-- R24. Loss of module power ends everything, and nothing survives. -/
  | powerOff
  /-- R21. Die temperature above 105 °C makes the arbiter withdraw every grant above the floor. -/
  | throttleTrip
  /-- R21. Die temperature falling below 100 °C ends the throttle. -/
  | throttleRelease
  /-- R21. Die temperature at 115 °C powers the module off and loses all contents. -/
  | shutdownTrip
  /-- R23. A client's request for a power increment reaches the arbiter, which serves it in order or stops and sends reclaim messages. Subject: client, steps. -/
  | grantRequest
  /-- R23. A reclaimed client returns its excess grant within 256 cycles and the arbiter serves pending requests again. Subject: client. -/
  | reclaimReturn
  /-- R16. A received acknowledge settles the chunk at the source. -/
  | acknowledge
  /-- R17. The transport abandons a message after its retries and the affected chunks are settled with an error mark. Subject: tag, offset. -/
  | messageAbandon
  /-- R69. An L2 miss or write-back reaches the home slice, which serves it by the granule's tier state, starts a promotion, pulls a line or parks the train. Subject: line, kind, train; an odd kind writes. -/
  | homeSliceAccess
  /-- R69. A pulled or background-filled line arrives in the frame, sets its arrival bit and serves waiting accesses. Subject: line, 1 when the flash could not read it. -/
  | lineArrival
  /-- R70. The shunter writes a line of a demoting granule to the deep tier, committing the demotion when the last line is written. Subject: line. -/
  | demotionLineWritten
  /-- R71. The shunter chooses an unpinned fast granule of a partition that needs a frame and starts its demotion. Subject: part, granule. -/
  | evictionRequest
  /-- R78. The zero fill of a dormant granule completes and the waiting accesses are performed in arrival order. Subject: granule. -/
  | dormantZeroFill
  /-- R79. When a ninth refresh postponement would be needed the controller stops serving the pseudo-channel and refreshes all its banks. Subject: channel. -/
  | forcedRefresh
  /-- R81. A freed page, frame or deep location leaves the quarantine queue once Q exceeds its epoch and its TLB entries are invalidated. Subject: index. -/
  | quarantineRelease
  /-- R66. After the service cores make the page ready, a parked train re-issues the parked instruction with every lane. Subject: train. -/
  | parkResume
  /-- R192. When the service expects a long wait it requests pre-emption of the parked train's cluster. Subject: train. -/
  | switchOut
  /-- R111. A reply of a counted load, ldo, oreq or tex writes the lanes' registers, raising a late record for poison, and retires the counter in order. Subject: train, op, lane. -/
  | loadReply
  /-- R111. A store's bytes are performed at their home place and the counter retires in issue order. Subject: train, op, lane. -/
  | storePerformed
  /-- R114. An atomic reaches its execution place and is performed as one read-modify-write, lanes in ascending order. Subject: train, op, lane. -/
  | atomicPerform
  /-- R360. The engine translates the operation's global pages before writing any unit, parking it or stopping it whole with a late record. Subject: train, op. -/
  | engineTranslate
  /-- R173. An engine unit is written or settled with an error mark, subtracting its bytes from the named barrier's PENDING. Subject: train, op, unit. -/
  | engineUnitSettle
  /-- R89. The shunter serves a refinement request from the partition queue by promoting its target node. Subject: part. -/
  | refineServe
  /-- R127. The distributor chooses the current grid and deals its next team or cluster to a core or rectangle passing the resource check. Subject: part. -/
  | teamDeal
  /-- R150. After the current slot has issued QUANTUM instructions the train switches to its other live slot. Subject: train. -/
  | quantumExpiry
  /-- R143. When every train has ended and its accesses are performed the grid completes its event with done, grid error or hardware fault. Subject: seq. -/
  | gridComplete
  /-- R183. At an issue boundary the train delivers one trap record, freezes its state, writes the trap frame and enters its handler in privileged mode. Subject: train. -/
  | trapEntry
  /-- R193. A pre-emption request gives each train of a team a pending pre-emption, held while MASK is 1. Subject: seq, team, reason. -/
  | preemptRequest
  /-- R194. A held pre-emption not taken within GRACE cycles stops every train of the team and marks the team header STATUS 2. Subject: train. -/
  | graceExpiry
  /-- R198. A vacated team is placed again whole, its barrier, operand buffer and accumulator images restored, and each train enters its handler with cause 0x22 REASON 2. Subject: seq, team. -/
  | teamReplace
  /-- R202. An array operation that makes no progress for 2^22 cycles stops the array. Subject: core. -/
  | matrixHang
  /-- R202. The service cores reset a hung array, abandoning its operations, discarding teams' reservations and tiles and increasing MATRIXGEN. Subject: core. -/
  | arrayReset
  /-- R234. A matrix operation in the array commits its results to the tile elements of all its rows together. Subject: train, op. -/
  | mmaCommit
  /-- R38. An uncorrectable run-time failure of a core or array ends the grids with teams on it with hardware fault and withdraws the core. Subject: core; a service core from 256, and the copy that it performed. -/
  | coreFailure
  /-- R175. A bar.try suspension reaches min(sb, 2^20) cycles and writes pd from the current parity. Subject: train. -/
  | barTryTimeout
  /-- R249. The yard accepts or refuses a submitted ray, writing its route record and queuing it on the platform of NEXT. Subject: train, op, lane. -/
  | rayAccept
  /-- R249. The yard finds an in-flight ray's record page unmapped or without a right, takes it out of flight and fails the submitting grid. Subject: set, ray. -/
  | rayRecordLost
  /-- R251. A free traversal unit is given a platform chosen by age limit, then by waiting rays, and streams the station's nodes against its rays. Subject: core. -/
  | stationCall
  /-- R252. At the end of a call each ray's closest key, candidates and route are updated and it moves, waits for any-hit or finishes. Subject: core. -/
  | callEnd
  /-- R253. The yard launches an any-hit grid for a batch of candidates when it fills or no more rays of its set can add to it. Subject: batch. -/
  | anyhitBatchLaunch
  /-- R256. When every candidate of a ray has a verdict the yard applies them together and moves, re-queues or finishes the ray. Subject: set, ray. -/
  | verdictApply
  /-- R257. The yard launches a hit or miss grid for a batch of finished rays when it fills or no ray of the set remains in flight before it. Subject: batch. -/
  | hitBatchLaunch
  /-- R364. The service replies to an svc and the held split's uniform register is written. Subject: train, slot. -/
  | svcReply
  /-- R14. A packet of an unsupported Ultra Ethernet delivery mode or optional profile, or a remote-window message on the management port, is dropped and counted in the port statistics. Subject: port. -/
  | unsupportedPacket
  /-- R73. The flash controller retires a bad block, and when too few spare blocks remain the service refuses new deep-start maps and evictions to the deep tier with no resources. Subject: spareLeft. -/
  | badBlockRetirement
  deriving DecidableEq, Repr

/-- What an event of the device's own units is about, in the order its constructor's docstring names. -/
structure Subject where
  a : Nat
  b : Nat
  c : Nat
  deriving DecidableEq, Repr

/-- What moves next: a named event about its subject, or the issue of one packet group of a train (R138). -/
inductive Act where
  | event (i : Instr) (subject : Subject)
  | issue (train : Nat)
  deriving DecidableEq, Repr

end Sys2Proof
end

