-- ==== Sys2Proof/WellFormed.lean ====
section
/-! DEFINITION. Which instruction words are legal beyond their opcode and zero fields (R269, R272). -/
namespace Sys2Proof

/-- An even first register of a pair (R4, R269). -/
def ev (f : Fld) : Bool := !f.getLsbD 0
/-- A first register of a quad: a multiple of 4, so at most 124 (R269). -/
def qd (f : Fld) : Bool := f.extractLsb' 0 2 == 0#2
/-- A uniform register field names s0 to s63 (R269). -/
def un (f : Fld) : Bool := decide (f.toNat < 64)

/-- The alignment of the data register of an N-format access: a pair for 64 bits, a quad for 128; size code 111 is illegal
(R279). -/
def sizeLegal (w : BitVec 3) (d : Fld) : Bool :=
  w != 7#3 && (w != 5#3 || ev d) && (w != 6#3 || qd d)

/-- The alignment of the data register of a counted access: SZ 01 names a pair, 10 a quad (R280). -/
def gszLegal (z : BitVec 2) (d : Fld) : Bool := (z != 1#2 || ev d) && (z != 2#2 || qd d)

/-- The literal of an atomic: reserved fields zero, SCOPE, SPACE and AOP in range, fadd only at 32 bits (R281). -/
def atomLegal (lit : Word) : Bool :=
  lit.extractLsb' 22 10 == 0#10 && lit.extractLsb' 4 6 == 0#6 && decide ((lit.extractLsb' 13 3).toNat < 5) &&
  lit.extractLsb' 11 2 != 3#2 && decide ((lit.extractLsb' 0 4).toNat < 10) &&
  (lit.extractLsb' 0 4 != 9#4 || !lit.getLsbD 10)

/-- The register fields of an atomic: pairs when SIZE is 1, a lane pair for a global address (R281). -/
def atomRegs (lit : Word) (d a b : Fld) : Bool :=
  (!lit.getLsbD 10 || (ev d && ev b)) && (lit.extractLsb' 11 2 != 2#2 || ev a)

/-- A barrier named by an engine operation: none with number 0, or a number within its level's range (R282). -/
def barnLegal (lvl : BitVec 2) (n : BitVec 4) : Bool :=
  match lvl.toNat with
  | 0 => n == 0#4
  | 1 => true
  | 2 => decide (n.toNat < 8)
  | _ => decide (n.toNat < 4)

/-- A conversion code is legal when its PAIR is listed, its MODE allowed, and its 64-bit operands are pairs (R316, R317). -/
def fcvtLegal (d a : Fld) (m : BitVec 2) (p : BitVec 5) : Bool :=
  let n := p.toNat
  decide (n < 24) &&
  (m == 0#2 || !(n == 1 || n == 3 || n == 5 || n == 6 || n == 7 || n == 8 || n == 9 || n == 19)) &&
  (!(n == 0 || n == 14 || n == 15 || n == 16 || n == 17 || n == 18) || ev a) &&
  (!(n == 1 || n == 14 || n == 15 || n == 16 || n == 17 || n == 19) || ev d)

/-- A packing code is legal when its PAIR is listed, its MODE allowed and its pairs and quads aligned (R318). -/
def fcvtPkLegal (d a : Fld) (m : BitVec 2) (p : BitVec 5) : Bool :=
  match p.toNat with
  | 0 => ev a
  | 1 => ev a
  | 2 => m == 0#2 && ev d
  | 3 => m == 0#2 && ev d
  | 4 => m == 0#2 && qd a
  | 5 => m == 0#2 && qd d
  | 6 => m == 0#2 && qd a
  | 7 => m == 0#2 && qd d
  | _ => false

/-- The assigned state register numbers (R285). -/
def stRegAssigned (n : BitVec 12) : Bool :=
  let x := n.toNat
  x == 0 || x == 1 || (decide (4 ≤ x) && decide (x ≤ 0xB)) || x == 0x18 || x == 0x10 || x == 0x12 ||
  (decide (0x20 ≤ x) && decide (x ≤ 0x25)) || x == 0x30 || x == 0x31

/-- The FORM, number and register of a state register access (R284, R339). -/
def stRegLegal (f : BitVec 2) (n : BitVec 12) (d : Fld) : Bool :=
  f != 3#2 && stRegAssigned n && (f != 1#2 || ev d) && (f != 2#2 || un d)

/-- The conditions that R272 puts on a word beyond its opcode and its zero fields: uniform fields below 64, aligned pairs,
quads and octets, values outside the ranges its row of R275 to R284 marks illegal. The words of the table that carry no such
condition, and the events, have none. -/
def Instr.wellFormed : Instr → Bool
  | .nop _ => true
  | .mov _ _ _ => true
  | .add _ _ _ _ => true
  | .addS _ _ _ b => un b
  | .sub _ _ _ _ => true
  | .subS _ _ _ b => un b
  | .addB64 _ d a b => ev d && ev a && ev b
  | .subB64 _ d a b => ev d && ev a && ev b
  | .mul _ _ _ _ => true
  | .mulS _ _ _ b => un b
  | .mulhI32 _ _ _ _ => true
  | .mulhN32 _ _ _ _ => true
  | .mad _ _ _ _ => true
  | .madS _ _ _ b => un b
  | .minI32 _ _ _ _ => true
  | .minN32 _ _ _ _ => true
  | .maxI32 _ _ _ _ => true
  | .maxN32 _ _ _ _ => true
  | .and _ _ _ _ => true
  | .andS _ _ _ b => un b
  | .or _ _ _ _ => true
  | .orS _ _ _ b => un b
  | .xor _ _ _ _ => true
  | .xorS _ _ _ b => un b
  | .andn _ _ _ _ => true
  | .shl _ _ _ _ => true
  | .shr _ _ _ _ => true
  | .sar _ _ _ _ => true
  | .rol _ _ _ _ => true
  | .shli _ _ _ _ => true
  | .shri _ _ _ _ => true
  | .sari _ _ _ _ => true
  | .addi _ _ _ _ => true
  | .andi _ _ _ _ => true
  | .bfx _ _ _ _ => true
  | .bfi _ _ _ _ => true
  | .abs _ _ _ => true
  | .neg _ _ _ => true
  | .clz _ _ _ => true
  | .popc _ _ _ => true
  | .brev _ _ _ => true
  | .lea _ d a _ => ev d && ev a
  | .sel _ _ _ _ => true
  | .movi _ _ _ => true
  | .movk _ _ _ => true
  | .movS _ d a pair => un a && (pair == 0#1 || ev d)
  | .cmpEq _ _ _ _ => true
  | .cmpEqS _ _ _ b => un b
  | .cmpNe _ _ _ _ => true
  | .cmpNeS _ _ _ b => un b
  | .cmpLtI32 _ _ _ _ => true
  | .cmpLtI32S _ _ _ b => un b
  | .cmpLeI32 _ _ _ _ => true
  | .cmpLeI32S _ _ _ b => un b
  | .cmpLtN32 _ _ _ _ => true
  | .cmpLtN32S _ _ _ b => un b
  | .cmpLeN32 _ _ _ _ => true
  | .cmpLeN32S _ _ _ b => un b
  | .cmpiEq _ _ _ _ => true
  | .cmpiLtI32 _ _ _ _ => true
  | .cmpiLtN32 _ _ _ _ => true
  | .fadd _ _ _ _ => true
  | .faddS _ _ _ b => un b
  | .fsub _ _ _ _ => true
  | .fsubS _ _ _ b => un b
  | .fmul _ _ _ _ => true
  | .fmulS _ _ _ b => un b
  | .ffma _ _ _ _ => true
  | .ffmaS _ _ _ b => un b
  | .fmin _ _ _ _ => true
  | .fmax _ _ _ _ => true
  | .fabs _ _ _ => true
  | .fneg _ _ _ => true
  | .faddF64 _ d a b => ev d && ev a && ev b
  | .fmulF64 _ d a b => ev d && ev a && ev b
  | .ffmaF64 _ d a b => ev d && ev a && ev b
  | .fsubF64 _ d a b => ev d && ev a && ev b
  | .faddH16x2 _ _ _ _ => true
  | .fmulH16x2 _ _ _ _ => true
  | .ffmaH16x2 _ _ _ _ => true
  | .faddBf16x2 _ _ _ _ => true
  | .fmulBf16x2 _ _ _ _ => true
  | .ffmaBf16x2 _ _ _ _ => true
  | .fdot2Bf16 _ _ _ _ => true
  | .fscale _ _ _ _ => true
  | .fcmpEqF32 _ _ _ _ => true
  | .fcmpNeF32 _ _ _ _ => true
  | .fcmpLtF32 _ _ _ _ => true
  | .fcmpLeF32 _ _ _ _ => true
  | .fcmpUnF32 _ _ _ _ => true
  | .fcmpEqF64 _ _ a b => ev a && ev b
  | .fcmpLtF64 _ _ a b => ev a && ev b
  | .fcmpLeF64 _ _ a b => ev a && ev b
  | .fclass _ _ _ => true
  | .frnd _ _ _ _ => true
  | .fcvt _ d a mode pair => fcvtLegal d a mode pair
  | .fcvtPk _ d a mode pair => fcvtPkLegal d a mode pair
  | .frcp _ _ _ => true
  | .frsq _ _ _ => true
  | .fsqrt _ _ _ => true
  | .fexp2 _ _ _ => true
  | .flog2 _ _ _ => true
  | .fsinpi _ _ _ => true
  | .fcospi _ _ _ => true
  | .ftanh _ _ _ => true
  | .fdiv _ _ _ _ => true
  | .smov _ d a => un d && un a
  | .smovi _ d _ => un d
  | .smovk _ d _ => un d
  | .sadd _ d a b => un d && un a && un b
  | .ssub _ d a b => un d && un a && un b
  | .smul _ d a b => un d && un a && un b
  | .sand _ d a b => un d && un a && un b
  | .sor _ d a b => un d && un a && un b
  | .sxor _ d a b => un d && un a && un b
  | .sshl _ d a b => un d && un a && un b
  | .sshr _ d a b => un d && un a && un b
  | .saddi _ d a _ => un d && un a
  | .scmpEq _ _ a b => un a && un b
  | .scmpLtI64 _ _ a b => un a && un b
  | .scmpLtN64 _ _ a b => un a && un b
  | .sld _ d a w _ => un d && un a && decide (w.toNat < 6)
  | .rdln _ d _ _ => un d
  | .pand _ _ _ _ => true
  | .por _ _ _ _ => true
  | .pxor _ _ _ _ => true
  | .pandn _ _ _ _ => true
  | .pmov _ _ _ => true
  | .pnot _ _ _ => true
  | .guard _ _ _ => true
  | .pset _ _ _ => true
  | .shflIdx _ _ _ _ => true
  | .shflUp _ _ _ _ => true
  | .shflDn _ _ _ _ => true
  | .shflXor _ _ _ _ => true
  | .voteAny _ _ _ => true
  | .voteAll _ _ _ => true
  | .ballot _ d _ => ev d
  | .matchLanes _ d _ => ev d
  | .redux _ _ _ op => decide (op.toNat < 11)
  | .scan _ _ _ op => decide (op.toNat < 11)
  | .wid _ d => qd d
  | .elect _ _ => true
  | .bra _ _ => true
  | .call _ _ => true
  | .ret _ => true
  | .jmpi _ a => un a
  | .fork _ _ => true
  | .join _ => true
  | .exit _ => true
  | .idem _ => true
  | .trap _ _ => true
  | .brk _ _ => true
  | .barArrive _ _ bar => decide (bar.toNat < 28)
  | .barWait _ _ bar => decide (bar.toNat < 28)
  | .barSync _ bar => decide (bar.toNat < 28)
  | .barDrop _ _ bar => decide (bar.toNat < 28)
  | .barExpect _ sb bar => decide (bar.toNat < 28) && un sb
  | .barTry _ _ _ bar _ => decide (bar.toNat < 28)
  | .wait _ _ _ => true
  | .fence _ sc => decide (sc.toNat < 5)
  | .yield _ => true
  | .ldp _ d _ w _ => sizeLegal w d
  | .stp _ d _ w _ => sizeLegal w d && w != 1#3 && w != 3#3
  | .lds _ d _ w _ => sizeLegal w d
  | .sts _ d _ w _ => sizeLegal w d && w != 1#3 && w != 3#3
  | .ldc _ d _ w _ => sizeLegal w d
  | .stc _ d _ w _ => sizeLegal w d && w != 1#3 && w != 3#3
  | .ldg _ d _ off _ sz => gszLegal sz d && (sz != 3#2 || decide (off.toNat < 4))
  | .stg _ d _ off _ sz => gszLegal sz d && (sz != 3#2 || off == 0#4 || off == 2#4)
  | .ldgAcq _ d _ sc sz _ => decide (sc.toNat < 5) && sz != 3#2 && gszLegal sz d
  | .stgRel _ d _ sc sz _ => decide (sc.toNat < 5) && sz != 3#2 && gszLegal sz d
  | .ldk _ d _ w _ => sizeLegal w d
  | .ldo _ d a _ => ev d && decide (d.toNat ≤ 124) && decide (a.toNat ≤ 125)
  | .odrop _ _ => true
  | .oreqRefine _ d a _ => decide (d.toNat ≤ 126) && decide (a.toNat ≤ 125)
  | .oreqEvict _ d a _ => decide (d.toNat ≤ 126) && decide (a.toNat ≤ 125)
  | .pfg _ a => ev a
  | .atom _ d a b lit => atomLegal lit && atomRegs lit d a b
  | .acas _ d a b lit => atomLegal lit && atomRegs lit d a b && (lit.extractLsb' 0 4) == 0#4 && decide (b.toNat + (if lit.getLsbD 10 then 3 else 1) ≤ 127)
  | .red _ a b lit => atomLegal lit && atomRegs lit 0#7 a b && (lit.extractLsb' 0 4) != 8#4
  | .tcopy _ d a _ _ lit => un d && decide (a.toNat ≤ 60) && (lit.extractLsb' 25 7) == 0#7 && (lit.extractLsb' 16 2) != 3#2 && barnLegal (lit.extractLsb' 19 2) (lit.extractLsb' 21 4)
  | .tgath _ d _ _ _ => decide (d.toNat ≤ 62)
  | .tscat _ d _ _ _ => decide (d.toNat ≤ 62)
  | .obres _ _ _ => true
  | .obld _ barn _ a _ lvl _ => un a && barnLegal lvl barn
  | .mma _ _ _ b lit => un b && (lit.extractLsb' 15 17) == 0#17 && (lit.extractLsb' 3 5) == 0#5
  | .zclr _ _ => true
  | .zmov _ d _ _ => (d.extractLsb' 0 3) == 0#3
  | .zst _ barn _ _ _ lvl _ => barnLegal lvl barn
  | .rayq _ d _ _ _ => un d
  | .cand _ d => qd d
  | .cacc _ _ => true
  | .tex _ d a _ _ lit => qd d && decide (a.toNat ≤ 125) && (lit.extractLsb' 0 5) == 0#5 && decide (lit.toNat ≤ 65504)
  | .texq _ d _ lit => qd d && (lit.extractLsb' 0 5) == 0#5 && decide (lit.toNat ≤ 65504)
  | .spawn _ d a _ => un d && un a
  | .svc _ d _ => un d
  | .rdst _ d form reg => stRegLegal form reg d
  | .wrst _ d form reg => stRegLegal form reg d
  | .eret _ => true
  | .eretReplay _ => true
  | .tinv _ a kind => un a && kind.getLsbD 1 == false
  | .csave _ => true
  | .crest _ => true
  | .zsave _ a => un a
  | .zload _ a => un a
  | .quies _ d => un d
  | .loadImage _ _ => true
  | .map _ _ => true
  | .unmap _ _ _ => true
  | .copyIn _ _ _ _ _ => true
  | .copyOut _ _ _ _ => true
  | .launch _ _ _ _ => true
  | .waitForEvent _ _ _ => true
  | .query _ _ => true
  | .attest _ _ => true
  | .partitionCreate _ _ => true
  | .partitionDestroy _ _ => true
  | .resumeContext _ _ _ => true
  | .catalogue _ _ _ => true
  | .bringUp _ => true
  | .writeChunk _ => true
  | .readRequest _ => true
  | .readReply _ => true
  | .atomicRequest _ => true
  | .atomicReply _ => true
  | .illegalInstruction _ _ => true
  | .unknownKindRequest _ _ => true
  | .copyPerform => true
  | .waitTimeLimit => true
  | .powerOff => true
  | .throttleTrip => true
  | .throttleRelease => true
  | .shutdownTrip => true
  | .grantRequest => true
  | .reclaimReturn => true
  | .acknowledge => true
  | .messageAbandon => true
  | .homeSliceAccess => true
  | .lineArrival => true
  | .demotionLineWritten => true
  | .evictionRequest => true
  | .dormantZeroFill => true
  | .forcedRefresh => true
  | .quarantineRelease => true
  | .parkResume => true
  | .switchOut => true
  | .loadReply => true
  | .storePerformed => true
  | .atomicPerform => true
  | .engineTranslate => true
  | .engineUnitSettle => true
  | .refineServe => true
  | .teamDeal => true
  | .quantumExpiry => true
  | .gridComplete => true
  | .trapEntry => true
  | .preemptRequest => true
  | .graceExpiry => true
  | .teamReplace => true
  | .matrixHang => true
  | .arrayReset => true
  | .mmaCommit => true
  | .coreFailure => true
  | .barTryTimeout => true
  | .rayAccept => true
  | .rayRecordLost => true
  | .stationCall => true
  | .callEnd => true
  | .anyhitBatchLaunch => true
  | .verdictApply => true
  | .hitBatchLaunch => true
  | .svcReply => true
  | .unsupportedPacket => true
  | .badBlockRetirement => true

/-- Is this instruction a word of a program (a row of the opcode map), and not an event of the device? -/
def Instr.isWord : Instr → Bool
  | .nop _ => true
  | .mov _ _ _ => true
  | .add _ _ _ _ => true
  | .addS _ _ _ _ => true
  | .sub _ _ _ _ => true
  | .subS _ _ _ _ => true
  | .addB64 _ _ _ _ => true
  | .subB64 _ _ _ _ => true
  | .mul _ _ _ _ => true
  | .mulS _ _ _ _ => true
  | .mulhI32 _ _ _ _ => true
  | .mulhN32 _ _ _ _ => true
  | .mad _ _ _ _ => true
  | .madS _ _ _ _ => true
  | .minI32 _ _ _ _ => true
  | .minN32 _ _ _ _ => true
  | .maxI32 _ _ _ _ => true
  | .maxN32 _ _ _ _ => true
  | .and _ _ _ _ => true
  | .andS _ _ _ _ => true
  | .or _ _ _ _ => true
  | .orS _ _ _ _ => true
  | .xor _ _ _ _ => true
  | .xorS _ _ _ _ => true
  | .andn _ _ _ _ => true
  | .shl _ _ _ _ => true
  | .shr _ _ _ _ => true
  | .sar _ _ _ _ => true
  | .rol _ _ _ _ => true
  | .shli _ _ _ _ => true
  | .shri _ _ _ _ => true
  | .sari _ _ _ _ => true
  | .addi _ _ _ _ => true
  | .andi _ _ _ _ => true
  | .bfx _ _ _ _ => true
  | .bfi _ _ _ _ => true
  | .abs _ _ _ => true
  | .neg _ _ _ => true
  | .clz _ _ _ => true
  | .popc _ _ _ => true
  | .brev _ _ _ => true
  | .lea _ _ _ _ => true
  | .sel _ _ _ _ => true
  | .movi _ _ _ => true
  | .movk _ _ _ => true
  | .movS _ _ _ _ => true
  | .cmpEq _ _ _ _ => true
  | .cmpEqS _ _ _ _ => true
  | .cmpNe _ _ _ _ => true
  | .cmpNeS _ _ _ _ => true
  | .cmpLtI32 _ _ _ _ => true
  | .cmpLtI32S _ _ _ _ => true
  | .cmpLeI32 _ _ _ _ => true
  | .cmpLeI32S _ _ _ _ => true
  | .cmpLtN32 _ _ _ _ => true
  | .cmpLtN32S _ _ _ _ => true
  | .cmpLeN32 _ _ _ _ => true
  | .cmpLeN32S _ _ _ _ => true
  | .cmpiEq _ _ _ _ => true
  | .cmpiLtI32 _ _ _ _ => true
  | .cmpiLtN32 _ _ _ _ => true
  | .fadd _ _ _ _ => true
  | .faddS _ _ _ _ => true
  | .fsub _ _ _ _ => true
  | .fsubS _ _ _ _ => true
  | .fmul _ _ _ _ => true
  | .fmulS _ _ _ _ => true
  | .ffma _ _ _ _ => true
  | .ffmaS _ _ _ _ => true
  | .fmin _ _ _ _ => true
  | .fmax _ _ _ _ => true
  | .fabs _ _ _ => true
  | .fneg _ _ _ => true
  | .faddF64 _ _ _ _ => true
  | .fmulF64 _ _ _ _ => true
  | .ffmaF64 _ _ _ _ => true
  | .fsubF64 _ _ _ _ => true
  | .faddH16x2 _ _ _ _ => true
  | .fmulH16x2 _ _ _ _ => true
  | .ffmaH16x2 _ _ _ _ => true
  | .faddBf16x2 _ _ _ _ => true
  | .fmulBf16x2 _ _ _ _ => true
  | .ffmaBf16x2 _ _ _ _ => true
  | .fdot2Bf16 _ _ _ _ => true
  | .fscale _ _ _ _ => true
  | .fcmpEqF32 _ _ _ _ => true
  | .fcmpNeF32 _ _ _ _ => true
  | .fcmpLtF32 _ _ _ _ => true
  | .fcmpLeF32 _ _ _ _ => true
  | .fcmpUnF32 _ _ _ _ => true
  | .fcmpEqF64 _ _ _ _ => true
  | .fcmpLtF64 _ _ _ _ => true
  | .fcmpLeF64 _ _ _ _ => true
  | .fclass _ _ _ => true
  | .frnd _ _ _ _ => true
  | .fcvt _ _ _ _ _ => true
  | .fcvtPk _ _ _ _ _ => true
  | .frcp _ _ _ => true
  | .frsq _ _ _ => true
  | .fsqrt _ _ _ => true
  | .fexp2 _ _ _ => true
  | .flog2 _ _ _ => true
  | .fsinpi _ _ _ => true
  | .fcospi _ _ _ => true
  | .ftanh _ _ _ => true
  | .fdiv _ _ _ _ => true
  | .smov _ _ _ => true
  | .smovi _ _ _ => true
  | .smovk _ _ _ => true
  | .sadd _ _ _ _ => true
  | .ssub _ _ _ _ => true
  | .smul _ _ _ _ => true
  | .sand _ _ _ _ => true
  | .sor _ _ _ _ => true
  | .sxor _ _ _ _ => true
  | .sshl _ _ _ _ => true
  | .sshr _ _ _ _ => true
  | .saddi _ _ _ _ => true
  | .scmpEq _ _ _ _ => true
  | .scmpLtI64 _ _ _ _ => true
  | .scmpLtN64 _ _ _ _ => true
  | .sld _ _ _ _ _ => true
  | .rdln _ _ _ _ => true
  | .pand _ _ _ _ => true
  | .por _ _ _ _ => true
  | .pxor _ _ _ _ => true
  | .pandn _ _ _ _ => true
  | .pmov _ _ _ => true
  | .pnot _ _ _ => true
  | .guard _ _ _ => true
  | .pset _ _ _ => true
  | .shflIdx _ _ _ _ => true
  | .shflUp _ _ _ _ => true
  | .shflDn _ _ _ _ => true
  | .shflXor _ _ _ _ => true
  | .voteAny _ _ _ => true
  | .voteAll _ _ _ => true
  | .ballot _ _ _ => true
  | .matchLanes _ _ _ => true
  | .redux _ _ _ _ => true
  | .scan _ _ _ _ => true
  | .wid _ _ => true
  | .elect _ _ => true
  | .bra _ _ => true
  | .call _ _ => true
  | .ret _ => true
  | .jmpi _ _ => true
  | .fork _ _ => true
  | .join _ => true
  | .exit _ => true
  | .idem _ => true
  | .trap _ _ => true
  | .brk _ _ => true
  | .barArrive _ _ _ => true
  | .barWait _ _ _ => true
  | .barSync _ _ => true
  | .barDrop _ _ _ => true
  | .barExpect _ _ _ => true
  | .barTry _ _ _ _ _ => true
  | .wait _ _ _ => true
  | .fence _ _ => true
  | .yield _ => true
  | .ldp _ _ _ _ _ => true
  | .stp _ _ _ _ _ => true
  | .lds _ _ _ _ _ => true
  | .sts _ _ _ _ _ => true
  | .ldc _ _ _ _ _ => true
  | .stc _ _ _ _ _ => true
  | .ldg _ _ _ _ _ _ => true
  | .stg _ _ _ _ _ _ => true
  | .ldgAcq _ _ _ _ _ _ => true
  | .stgRel _ _ _ _ _ _ => true
  | .ldk _ _ _ _ _ => true
  | .ldo _ _ _ _ => true
  | .odrop _ _ => true
  | .oreqRefine _ _ _ _ => true
  | .oreqEvict _ _ _ _ => true
  | .pfg _ _ => true
  | .atom _ _ _ _ _ => true
  | .acas _ _ _ _ _ => true
  | .red _ _ _ _ => true
  | .tcopy _ _ _ _ _ _ => true
  | .tgath _ _ _ _ _ => true
  | .tscat _ _ _ _ _ => true
  | .obres _ _ _ => true
  | .obld _ _ _ _ _ _ _ => true
  | .mma _ _ _ _ _ => true
  | .zclr _ _ => true
  | .zmov _ _ _ _ => true
  | .zst _ _ _ _ _ _ _ => true
  | .rayq _ _ _ _ _ => true
  | .cand _ _ => true
  | .cacc _ _ => true
  | .tex _ _ _ _ _ _ => true
  | .texq _ _ _ _ => true
  | .spawn _ _ _ _ => true
  | .svc _ _ _ => true
  | .rdst _ _ _ _ => true
  | .wrst _ _ _ _ => true
  | .eret _ => true
  | .eretReplay _ => true
  | .tinv _ _ _ => true
  | .csave _ => true
  | .crest _ => true
  | .zsave _ _ => true
  | .zload _ _ => true
  | .quies _ _ => true
  | .loadImage _ _ => false
  | .map _ _ => false
  | .unmap _ _ _ => false
  | .copyIn _ _ _ _ _ => false
  | .copyOut _ _ _ _ => false
  | .launch _ _ _ _ => false
  | .waitForEvent _ _ _ => false
  | .query _ _ => false
  | .attest _ _ => false
  | .partitionCreate _ _ => false
  | .partitionDestroy _ _ => false
  | .resumeContext _ _ _ => false
  | .catalogue _ _ _ => false
  | .bringUp _ => false
  | .writeChunk _ => false
  | .readRequest _ => false
  | .readReply _ => false
  | .atomicRequest _ => false
  | .atomicReply _ => false
  | .illegalInstruction _ _ => false
  | .unknownKindRequest _ _ => false
  | .copyPerform => false
  | .waitTimeLimit => false
  | .powerOff => false
  | .throttleTrip => false
  | .throttleRelease => false
  | .shutdownTrip => false
  | .grantRequest => false
  | .reclaimReturn => false
  | .acknowledge => false
  | .messageAbandon => false
  | .homeSliceAccess => false
  | .lineArrival => false
  | .demotionLineWritten => false
  | .evictionRequest => false
  | .dormantZeroFill => false
  | .forcedRefresh => false
  | .quarantineRelease => false
  | .parkResume => false
  | .switchOut => false
  | .loadReply => false
  | .storePerformed => false
  | .atomicPerform => false
  | .engineTranslate => false
  | .engineUnitSettle => false
  | .refineServe => false
  | .teamDeal => false
  | .quantumExpiry => false
  | .gridComplete => false
  | .trapEntry => false
  | .preemptRequest => false
  | .graceExpiry => false
  | .teamReplace => false
  | .matrixHang => false
  | .arrayReset => false
  | .mmaCommit => false
  | .coreFailure => false
  | .barTryTimeout => false
  | .rayAccept => false
  | .rayRecordLost => false
  | .stationCall => false
  | .callEnd => false
  | .anyhitBatchLaunch => false
  | .verdictApply => false
  | .hitBatchLaunch => false
  | .svcReply => false
  | .unsupportedPacket => false
  | .badBlockRetirement => false

end Sys2Proof
end

