-- ==== Sys2Proof/Decode.lean ====
section
/-! DEFINITION. The decoder and the encoder of instruction words (R265 to R285), and a packet's pipes and layout (R271). -/
namespace Sys2Proof

/-- Bits [lo + n - 1 : lo] of a word. -/
def fld (w : Word) (lo n : Nat) : BitVec n := w.extractLsb' lo n

/-- K and G of a word (R265). -/
def ctl (w : Word) : Ctl := ⟨w.getLsbD 31, fld w 29 2⟩

/-- Opcodes 0x00 to 0x3F, the lane integer opcodes (R275). An opcode the map does not assign, or a nonzero field it requires to be zero, gives none (R272). -/
def decodeInt (op : Nat) (w : Word) (lit : Word) : Option Instr :=
  match op with
  | 0x00 => if fld w 0 21 == 0x0#21 then some (.nop (ctl w)) else none
  | 0x01 => if fld w 0 7 == 0x0#7 then some (.mov (ctl w) (fld w 14 7) (fld w 7 7)) else none
  | 0x02 => some (.add (ctl w) (fld w 14 7) (fld w 7 7) (fld w 0 7))
  | 0x03 => some (.addS (ctl w) (fld w 14 7) (fld w 7 7) (fld w 0 7))
  | 0x04 => some (.sub (ctl w) (fld w 14 7) (fld w 7 7) (fld w 0 7))
  | 0x05 => some (.subS (ctl w) (fld w 14 7) (fld w 7 7) (fld w 0 7))
  | 0x06 => some (.addB64 (ctl w) (fld w 14 7) (fld w 7 7) (fld w 0 7))
  | 0x07 => some (.subB64 (ctl w) (fld w 14 7) (fld w 7 7) (fld w 0 7))
  | 0x08 => some (.mul (ctl w) (fld w 14 7) (fld w 7 7) (fld w 0 7))
  | 0x09 => some (.mulS (ctl w) (fld w 14 7) (fld w 7 7) (fld w 0 7))
  | 0x0a => some (.mulhI32 (ctl w) (fld w 14 7) (fld w 7 7) (fld w 0 7))
  | 0x0b => some (.mulhN32 (ctl w) (fld w 14 7) (fld w 7 7) (fld w 0 7))
  | 0x0c => some (.mad (ctl w) (fld w 14 7) (fld w 7 7) (fld w 0 7))
  | 0x0d => some (.madS (ctl w) (fld w 14 7) (fld w 7 7) (fld w 0 7))
  | 0x0e => some (.minI32 (ctl w) (fld w 14 7) (fld w 7 7) (fld w 0 7))
  | 0x0f => some (.minN32 (ctl w) (fld w 14 7) (fld w 7 7) (fld w 0 7))
  | 0x10 => some (.maxI32 (ctl w) (fld w 14 7) (fld w 7 7) (fld w 0 7))
  | 0x11 => some (.maxN32 (ctl w) (fld w 14 7) (fld w 7 7) (fld w 0 7))
  | 0x12 => some (.and (ctl w) (fld w 14 7) (fld w 7 7) (fld w 0 7))
  | 0x13 => some (.andS (ctl w) (fld w 14 7) (fld w 7 7) (fld w 0 7))
  | 0x14 => some (.or (ctl w) (fld w 14 7) (fld w 7 7) (fld w 0 7))
  | 0x15 => some (.orS (ctl w) (fld w 14 7) (fld w 7 7) (fld w 0 7))
  | 0x16 => some (.xor (ctl w) (fld w 14 7) (fld w 7 7) (fld w 0 7))
  | 0x17 => some (.xorS (ctl w) (fld w 14 7) (fld w 7 7) (fld w 0 7))
  | 0x18 => some (.andn (ctl w) (fld w 14 7) (fld w 7 7) (fld w 0 7))
  | 0x19 => some (.shl (ctl w) (fld w 14 7) (fld w 7 7) (fld w 0 7))
  | 0x1a => some (.shr (ctl w) (fld w 14 7) (fld w 7 7) (fld w 0 7))
  | 0x1b => some (.sar (ctl w) (fld w 14 7) (fld w 7 7) (fld w 0 7))
  | 0x1c => some (.rol (ctl w) (fld w 14 7) (fld w 7 7) (fld w 0 7))
  | 0x1d => if fld w 5 2 == 0x0#2 then some (.shli (ctl w) (fld w 14 7) (fld w 7 7) (fld w 0 5)) else none
  | 0x1e => if fld w 5 2 == 0x0#2 then some (.shri (ctl w) (fld w 14 7) (fld w 7 7) (fld w 0 5)) else none
  | 0x1f => if fld w 5 2 == 0x0#2 then some (.sari (ctl w) (fld w 14 7) (fld w 7 7) (fld w 0 5)) else none
  | 0x20 => some (.addi (ctl w) (fld w 14 7) (fld w 7 7) (fld w 0 7))
  | 0x21 => some (.andi (ctl w) (fld w 14 7) (fld w 7 7) (fld w 0 7))
  | 0x22 => some (.bfx (ctl w) (fld w 14 7) (fld w 7 7) (fld w 0 7))
  | 0x23 => some (.bfi (ctl w) (fld w 14 7) (fld w 7 7) (fld w 0 7))
  | 0x24 => if fld w 0 7 == 0x0#7 then some (.abs (ctl w) (fld w 14 7) (fld w 7 7)) else none
  | 0x25 => if fld w 0 7 == 0x0#7 then some (.neg (ctl w) (fld w 14 7) (fld w 7 7)) else none
  | 0x26 => if fld w 0 7 == 0x0#7 then some (.clz (ctl w) (fld w 14 7) (fld w 7 7)) else none
  | 0x27 => if fld w 0 7 == 0x0#7 then some (.popc (ctl w) (fld w 14 7) (fld w 7 7)) else none
  | 0x28 => if fld w 0 7 == 0x0#7 then some (.brev (ctl w) (fld w 14 7) (fld w 7 7)) else none
  | 0x29 => some (.lea (ctl w) (fld w 14 7) (fld w 7 7) (fld w 0 7))
  | 0x2a => some (.sel (ctl w) (fld w 14 7) (fld w 7 7) (fld w 0 7))
  | 0x2b => some (.movi (ctl w) (fld w 14 7) (fld w 0 14))
  | 0x2c => if fld w 0 14 == 0x0#14 then some (.movk (ctl w) (fld w 14 7) lit) else none
  | 0x2d => if fld w 1 6 == 0x0#6 then some (.movS (ctl w) (fld w 14 7) (fld w 7 7) (fld w 0 1)) else none
  | 0x30 => some (.cmpEq (ctl w) (fld w 14 7) (fld w 7 7) (fld w 0 7))
  | 0x31 => some (.cmpEqS (ctl w) (fld w 14 7) (fld w 7 7) (fld w 0 7))
  | 0x32 => some (.cmpNe (ctl w) (fld w 14 7) (fld w 7 7) (fld w 0 7))
  | 0x33 => some (.cmpNeS (ctl w) (fld w 14 7) (fld w 7 7) (fld w 0 7))
  | 0x34 => some (.cmpLtI32 (ctl w) (fld w 14 7) (fld w 7 7) (fld w 0 7))
  | 0x35 => some (.cmpLtI32S (ctl w) (fld w 14 7) (fld w 7 7) (fld w 0 7))
  | 0x36 => some (.cmpLeI32 (ctl w) (fld w 14 7) (fld w 7 7) (fld w 0 7))
  | 0x37 => some (.cmpLeI32S (ctl w) (fld w 14 7) (fld w 7 7) (fld w 0 7))
  | 0x38 => some (.cmpLtN32 (ctl w) (fld w 14 7) (fld w 7 7) (fld w 0 7))
  | 0x39 => some (.cmpLtN32S (ctl w) (fld w 14 7) (fld w 7 7) (fld w 0 7))
  | 0x3a => some (.cmpLeN32 (ctl w) (fld w 14 7) (fld w 7 7) (fld w 0 7))
  | 0x3b => some (.cmpLeN32S (ctl w) (fld w 14 7) (fld w 7 7) (fld w 0 7))
  | 0x3c => some (.cmpiEq (ctl w) (fld w 14 7) (fld w 7 7) (fld w 0 7))
  | 0x3d => some (.cmpiLtI32 (ctl w) (fld w 14 7) (fld w 7 7) (fld w 0 7))
  | 0x3e => some (.cmpiLtN32 (ctl w) (fld w 14 7) (fld w 7 7) (fld w 0 7))
  | _ => none

/-- Opcodes 0x40 to 0x7F, the floating-point opcodes (R276). An opcode the map does not assign, or a nonzero field it requires to be zero, gives none (R272). -/
def decodeFloat (op : Nat) (w : Word) : Option Instr :=
  match op with
  | 0x40 => some (.fadd (ctl w) (fld w 14 7) (fld w 7 7) (fld w 0 7))
  | 0x41 => some (.faddS (ctl w) (fld w 14 7) (fld w 7 7) (fld w 0 7))
  | 0x42 => some (.fsub (ctl w) (fld w 14 7) (fld w 7 7) (fld w 0 7))
  | 0x43 => some (.fsubS (ctl w) (fld w 14 7) (fld w 7 7) (fld w 0 7))
  | 0x44 => some (.fmul (ctl w) (fld w 14 7) (fld w 7 7) (fld w 0 7))
  | 0x45 => some (.fmulS (ctl w) (fld w 14 7) (fld w 7 7) (fld w 0 7))
  | 0x46 => some (.ffma (ctl w) (fld w 14 7) (fld w 7 7) (fld w 0 7))
  | 0x47 => some (.ffmaS (ctl w) (fld w 14 7) (fld w 7 7) (fld w 0 7))
  | 0x48 => some (.fmin (ctl w) (fld w 14 7) (fld w 7 7) (fld w 0 7))
  | 0x49 => some (.fmax (ctl w) (fld w 14 7) (fld w 7 7) (fld w 0 7))
  | 0x4a => if fld w 0 7 == 0x0#7 then some (.fabs (ctl w) (fld w 14 7) (fld w 7 7)) else none
  | 0x4b => if fld w 0 7 == 0x0#7 then some (.fneg (ctl w) (fld w 14 7) (fld w 7 7)) else none
  | 0x4c => some (.faddF64 (ctl w) (fld w 14 7) (fld w 7 7) (fld w 0 7))
  | 0x4d => some (.fmulF64 (ctl w) (fld w 14 7) (fld w 7 7) (fld w 0 7))
  | 0x4e => some (.ffmaF64 (ctl w) (fld w 14 7) (fld w 7 7) (fld w 0 7))
  | 0x4f => some (.fsubF64 (ctl w) (fld w 14 7) (fld w 7 7) (fld w 0 7))
  | 0x50 => some (.faddH16x2 (ctl w) (fld w 14 7) (fld w 7 7) (fld w 0 7))
  | 0x51 => some (.fmulH16x2 (ctl w) (fld w 14 7) (fld w 7 7) (fld w 0 7))
  | 0x52 => some (.ffmaH16x2 (ctl w) (fld w 14 7) (fld w 7 7) (fld w 0 7))
  | 0x53 => some (.faddBf16x2 (ctl w) (fld w 14 7) (fld w 7 7) (fld w 0 7))
  | 0x54 => some (.fmulBf16x2 (ctl w) (fld w 14 7) (fld w 7 7) (fld w 0 7))
  | 0x55 => some (.ffmaBf16x2 (ctl w) (fld w 14 7) (fld w 7 7) (fld w 0 7))
  | 0x56 => some (.fdot2Bf16 (ctl w) (fld w 14 7) (fld w 7 7) (fld w 0 7))
  | 0x57 => some (.fscale (ctl w) (fld w 14 7) (fld w 7 7) (fld w 0 7))
  | 0x58 => some (.fcmpEqF32 (ctl w) (fld w 14 7) (fld w 7 7) (fld w 0 7))
  | 0x59 => some (.fcmpNeF32 (ctl w) (fld w 14 7) (fld w 7 7) (fld w 0 7))
  | 0x5a => some (.fcmpLtF32 (ctl w) (fld w 14 7) (fld w 7 7) (fld w 0 7))
  | 0x5b => some (.fcmpLeF32 (ctl w) (fld w 14 7) (fld w 7 7) (fld w 0 7))
  | 0x5c => some (.fcmpUnF32 (ctl w) (fld w 14 7) (fld w 7 7) (fld w 0 7))
  | 0x5d => some (.fcmpEqF64 (ctl w) (fld w 14 7) (fld w 7 7) (fld w 0 7))
  | 0x5e => some (.fcmpLtF64 (ctl w) (fld w 14 7) (fld w 7 7) (fld w 0 7))
  | 0x5f => some (.fcmpLeF64 (ctl w) (fld w 14 7) (fld w 7 7) (fld w 0 7))
  | 0x60 => if fld w 0 7 == 0x0#7 then some (.fclass (ctl w) (fld w 14 7) (fld w 7 7)) else none
  | 0x61 => if fld w 2 5 == 0x0#5 then some (.frnd (ctl w) (fld w 14 7) (fld w 7 7) (fld w 0 2)) else none
  | 0x62 => some (.fcvt (ctl w) (fld w 14 7) (fld w 7 7) (fld w 5 2) (fld w 0 5))
  | 0x63 => some (.fcvtPk (ctl w) (fld w 14 7) (fld w 7 7) (fld w 5 2) (fld w 0 5))
  | 0x64 => if fld w 0 7 == 0x0#7 then some (.frcp (ctl w) (fld w 14 7) (fld w 7 7)) else none
  | 0x65 => if fld w 0 7 == 0x0#7 then some (.frsq (ctl w) (fld w 14 7) (fld w 7 7)) else none
  | 0x66 => if fld w 0 7 == 0x0#7 then some (.fsqrt (ctl w) (fld w 14 7) (fld w 7 7)) else none
  | 0x67 => if fld w 0 7 == 0x0#7 then some (.fexp2 (ctl w) (fld w 14 7) (fld w 7 7)) else none
  | 0x68 => if fld w 0 7 == 0x0#7 then some (.flog2 (ctl w) (fld w 14 7) (fld w 7 7)) else none
  | 0x69 => if fld w 0 7 == 0x0#7 then some (.fsinpi (ctl w) (fld w 14 7) (fld w 7 7)) else none
  | 0x6a => if fld w 0 7 == 0x0#7 then some (.fcospi (ctl w) (fld w 14 7) (fld w 7 7)) else none
  | 0x6b => if fld w 0 7 == 0x0#7 then some (.ftanh (ctl w) (fld w 14 7) (fld w 7 7)) else none
  | 0x6c => some (.fdiv (ctl w) (fld w 14 7) (fld w 7 7) (fld w 0 7))
  | _ => none

/-- Opcodes 0x80 to 0x9F, the uniform and predicate opcodes (R277). An opcode the map does not assign, or a nonzero field it requires to be zero, gives none (R272). -/
def decodeUniform (op : Nat) (w : Word) (lit : Word) : Option Instr :=
  match op with
  | 0x80 => if fld w 0 7 == 0x0#7 then some (.smov (ctl w) (fld w 14 7) (fld w 7 7)) else none
  | 0x81 => some (.smovi (ctl w) (fld w 14 7) (fld w 0 14))
  | 0x82 => if fld w 0 14 == 0x0#14 then some (.smovk (ctl w) (fld w 14 7) lit) else none
  | 0x83 => some (.sadd (ctl w) (fld w 14 7) (fld w 7 7) (fld w 0 7))
  | 0x84 => some (.ssub (ctl w) (fld w 14 7) (fld w 7 7) (fld w 0 7))
  | 0x85 => some (.smul (ctl w) (fld w 14 7) (fld w 7 7) (fld w 0 7))
  | 0x86 => some (.sand (ctl w) (fld w 14 7) (fld w 7 7) (fld w 0 7))
  | 0x87 => some (.sor (ctl w) (fld w 14 7) (fld w 7 7) (fld w 0 7))
  | 0x88 => some (.sxor (ctl w) (fld w 14 7) (fld w 7 7) (fld w 0 7))
  | 0x89 => some (.sshl (ctl w) (fld w 14 7) (fld w 7 7) (fld w 0 7))
  | 0x8a => some (.sshr (ctl w) (fld w 14 7) (fld w 7 7) (fld w 0 7))
  | 0x8b => some (.saddi (ctl w) (fld w 14 7) (fld w 7 7) (fld w 0 7))
  | 0x8c => some (.scmpEq (ctl w) (fld w 14 7) (fld w 7 7) (fld w 0 7))
  | 0x8d => some (.scmpLtI64 (ctl w) (fld w 14 7) (fld w 7 7) (fld w 0 7))
  | 0x8e => some (.scmpLtN64 (ctl w) (fld w 14 7) (fld w 7 7) (fld w 0 7))
  | 0x8f => some (.sld (ctl w) (fld w 14 7) (fld w 7 7) (fld w 4 3) (fld w 0 4))
  | 0x90 => if fld w 6 1 == 0x0#1 then some (.rdln (ctl w) (fld w 14 7) (fld w 7 7) (fld w 0 6)) else none
  | 0x91 => some (.pand (ctl w) (fld w 14 7) (fld w 7 7) (fld w 0 7))
  | 0x92 => some (.por (ctl w) (fld w 14 7) (fld w 7 7) (fld w 0 7))
  | 0x93 => some (.pxor (ctl w) (fld w 14 7) (fld w 7 7) (fld w 0 7))
  | 0x94 => some (.pandn (ctl w) (fld w 14 7) (fld w 7 7) (fld w 0 7))
  | 0x95 => if fld w 0 7 == 0x0#7 then some (.pmov (ctl w) (fld w 14 7) (fld w 7 7)) else none
  | 0x96 => if fld w 0 7 == 0x0#7 then some (.pnot (ctl w) (fld w 14 7) (fld w 7 7)) else none
  | 0x97 => if fld w 15 6 == 0x0#6 && fld w 0 7 == 0x0#7 then some (.guard (ctl w) (fld w 14 1) (fld w 7 7)) else none
  | 0x98 => if fld w 1 13 == 0x0#13 then some (.pset (ctl w) (fld w 14 7) (fld w 0 1)) else none
  | _ => none

/-- Opcodes 0xA0 to 0xBF, the exchange, control and synchronisation opcodes (R278). An opcode the map does not assign, or a nonzero field it requires to be zero, gives none (R272). -/
def decodeControl (op : Nat) (w : Word) : Option Instr :=
  match op with
  | 0xa0 => some (.shflIdx (ctl w) (fld w 14 7) (fld w 7 7) (fld w 0 7))
  | 0xa1 => some (.shflUp (ctl w) (fld w 14 7) (fld w 7 7) (fld w 0 7))
  | 0xa2 => some (.shflDn (ctl w) (fld w 14 7) (fld w 7 7) (fld w 0 7))
  | 0xa3 => some (.shflXor (ctl w) (fld w 14 7) (fld w 7 7) (fld w 0 7))
  | 0xa4 => if fld w 0 7 == 0x0#7 then some (.voteAny (ctl w) (fld w 14 7) (fld w 7 7)) else none
  | 0xa5 => if fld w 0 7 == 0x0#7 then some (.voteAll (ctl w) (fld w 14 7) (fld w 7 7)) else none
  | 0xa6 => if fld w 0 7 == 0x0#7 then some (.ballot (ctl w) (fld w 14 7) (fld w 7 7)) else none
  | 0xa7 => if fld w 0 7 == 0x0#7 then some (.matchLanes (ctl w) (fld w 14 7) (fld w 7 7)) else none
  | 0xa8 => some (.redux (ctl w) (fld w 14 7) (fld w 7 7) (fld w 0 7))
  | 0xa9 => some (.scan (ctl w) (fld w 14 7) (fld w 7 7) (fld w 0 7))
  | 0xaa => if fld w 0 14 == 0x0#14 then some (.wid (ctl w) (fld w 14 7)) else none
  | 0xab => if fld w 0 14 == 0x0#14 then some (.elect (ctl w) (fld w 14 7)) else none
  | 0xac => some (.bra (ctl w) (fld w 0 21))
  | 0xad => some (.call (ctl w) (fld w 0 21))
  | 0xae => if fld w 0 21 == 0x0#21 then some (.ret (ctl w)) else none
  | 0xaf => if fld w 14 7 == 0x0#7 && fld w 0 7 == 0x0#7 then some (.jmpi (ctl w) (fld w 7 7)) else none
  | 0xb0 => if fld w 29 2 == 0#2 then some (.fork (w.getLsbD 31) (fld w 0 21)) else none
  | 0xb1 => if fld w 29 2 == 0#2 && fld w 0 21 == 0x0#21 then some (.join (w.getLsbD 31)) else none
  | 0xb2 => if fld w 0 21 == 0x0#21 then some (.exit (ctl w)) else none
  | 0xb3 => if fld w 29 2 == 0#2 && fld w 0 21 == 0x0#21 then some (.idem (w.getLsbD 31)) else none
  | 0xb4 => if fld w 14 7 == 0x0#7 then some (.trap (ctl w) (fld w 0 14)) else none
  | 0xb5 => if fld w 14 7 == 0x0#7 then some (.brk (ctl w) (fld w 0 14)) else none
  | 0xb6 => if fld w 29 2 == 0#2 && fld w 7 7 == 0x0#7 && fld w 0 2 == 0x0#2 then some (.barArrive (w.getLsbD 31) (fld w 14 7) (fld w 2 5)) else none
  | 0xb7 => if fld w 29 2 == 0#2 && fld w 14 7 == 0x0#7 && fld w 0 2 == 0x0#2 then some (.barWait (w.getLsbD 31) (fld w 7 7) (fld w 2 5)) else none
  | 0xb8 => if fld w 29 2 == 0#2 && fld w 7 14 == 0x0#14 && fld w 0 2 == 0x0#2 then some (.barSync (w.getLsbD 31) (fld w 2 5)) else none
  | 0xb9 => if fld w 29 2 == 0#2 && fld w 7 7 == 0x0#7 && fld w 0 2 == 0x0#2 then some (.barDrop (w.getLsbD 31) (fld w 14 7) (fld w 2 5)) else none
  | 0xba => if fld w 29 2 == 0#2 && fld w 14 7 == 0x0#7 && fld w 0 2 == 0x0#2 then some (.barExpect (w.getLsbD 31) (fld w 7 7) (fld w 2 5)) else none
  | 0xbb => if fld w 29 2 == 0#2 then some (.barTry (w.getLsbD 31) (fld w 14 7) (fld w 7 7) (fld w 2 5) (fld w 0 2)) else none
  | 0xbc => if fld w 29 2 == 0#2 && fld w 12 9 == 0x0#9 then some (.wait (w.getLsbD 31) (fld w 8 4) (fld w 0 8)) else none
  | 0xbd => if fld w 3 18 == 0x0#18 then some (.fence (ctl w) (fld w 0 3)) else none
  | 0xbe => if fld w 0 21 == 0x0#21 then some (.yield (ctl w)) else none
  | _ => none

/-- Opcodes 0xC0 to 0xDF, the memory and atomic opcodes (R279 to R281). An opcode the map does not assign, or a nonzero field it requires to be zero, gives none (R272). -/
def decodeMemory (op : Nat) (w : Word) (lit : Word) : Option Instr :=
  match op with
  | 0xc0 => some (.ldp (ctl w) (fld w 14 7) (fld w 7 7) (fld w 4 3) (fld w 0 4))
  | 0xc1 => some (.stp (ctl w) (fld w 14 7) (fld w 7 7) (fld w 4 3) (fld w 0 4))
  | 0xc2 => some (.lds (ctl w) (fld w 14 7) (fld w 7 7) (fld w 4 3) (fld w 0 4))
  | 0xc3 => some (.sts (ctl w) (fld w 14 7) (fld w 7 7) (fld w 4 3) (fld w 0 4))
  | 0xc4 => some (.ldc (ctl w) (fld w 14 7) (fld w 7 7) (fld w 4 3) (fld w 0 4))
  | 0xc5 => some (.stc (ctl w) (fld w 14 7) (fld w 7 7) (fld w 4 3) (fld w 0 4))
  | 0xc6 => some (.ldg (ctl w) (fld w 14 7) (fld w 8 6) (fld w 4 4) (fld w 2 2) (fld w 0 2))
  | 0xc7 => some (.stg (ctl w) (fld w 14 7) (fld w 8 6) (fld w 4 4) (fld w 2 2) (fld w 0 2))
  | 0xc8 => if fld w 2 1 == 0x0#1 then some (.ldgAcq (ctl w) (fld w 14 7) (fld w 8 6) (fld w 5 3) (fld w 3 2) (fld w 0 2)) else none
  | 0xc9 => if fld w 2 1 == 0x0#1 then some (.stgRel (ctl w) (fld w 14 7) (fld w 8 6) (fld w 5 3) (fld w 3 2) (fld w 0 2)) else none
  | 0xca => some (.ldk (ctl w) (fld w 14 7) (fld w 7 7) (fld w 4 3) (fld w 0 4))
  | 0xcb => if fld w 0 3 == 0x0#3 then some (.ldo (ctl w) (fld w 14 7) (fld w 7 7) (fld w 3 4)) else none
  | 0xcc => if fld w 14 7 == 0x0#7 && fld w 0 7 == 0x0#7 then some (.odrop (ctl w) (fld w 7 7)) else none
  | 0xcd => if fld w 0 3 == 0x0#3 then some (.oreqRefine (ctl w) (fld w 14 7) (fld w 7 7) (fld w 3 4)) else if fld w 0 3 == 0x1#3 then some (.oreqEvict (ctl w) (fld w 14 7) (fld w 7 7) (fld w 3 4)) else none
  | 0xce => if fld w 14 7 == 0x0#7 && fld w 0 7 == 0x0#7 then some (.pfg (ctl w) (fld w 7 7)) else none
  | 0xcf => some (.atom (ctl w) (fld w 14 7) (fld w 7 7) (fld w 0 7) lit)
  | 0xd0 => some (.acas (ctl w) (fld w 14 7) (fld w 7 7) (fld w 0 7) lit)
  | 0xd1 => if fld w 14 7 == 0x0#7 then some (.red (ctl w) (fld w 7 7) (fld w 0 7) lit) else none
  | _ => none

/-- Opcodes 0xE0 to 0xEF, the engine, matrix, ray and texture opcodes (R282, R283). An opcode the map does not assign, or a nonzero field it requires to be zero, gives none (R272). -/
def decodeEngine (op : Nat) (w : Word) (lit : Word) : Option Instr :=
  match op with
  | 0xe0 => if fld w 1 2 == 0x0#2 then some (.tcopy (ctl w) (fld w 14 7) (fld w 7 7) (fld w 3 4) (fld w 0 1) lit) else none
  | 0xe1 => if fld w 1 2 == 0x0#2 then some (.tgath (ctl w) (fld w 14 7) (fld w 7 7) (fld w 3 4) (fld w 0 1)) else none
  | 0xe2 => if fld w 1 2 == 0x0#2 then some (.tscat (ctl w) (fld w 14 7) (fld w 7 7) (fld w 3 4) (fld w 0 1)) else none
  | 0xe3 => if fld w 17 4 == 0x0#4 && fld w 0 14 == 0x0#14 then some (.obres (ctl w) (fld w 14 3) lit) else none
  | 0xe4 => some (.obld (ctl w) (fld w 17 4) (fld w 14 3) (fld w 7 7) (fld w 3 4) (fld w 1 2) (fld w 0 1))
  | 0xe5 => if fld w 16 5 == 0x0#5 then some (.mma (ctl w) (fld w 14 2) (fld w 7 7) (fld w 0 7) lit) else none
  | 0xe6 => if fld w 16 5 == 0x0#5 && fld w 0 14 == 0x0#14 then some (.zclr (ctl w) (fld w 14 2)) else none
  | 0xe7 => if fld w 9 5 == 0x0#5 && fld w 2 5 == 0x0#5 then some (.zmov (ctl w) (fld w 14 7) (fld w 7 2) (fld w 0 2)) else none
  | 0xe8 => if fld w 16 1 == 0x0#1 then some (.zst (ctl w) (fld w 17 4) (fld w 14 2) (fld w 7 7) (fld w 3 4) (fld w 1 2) (fld w 0 1)) else none
  | 0xe9 => if fld w 1 2 == 0x0#2 then some (.rayq (ctl w) (fld w 14 7) (fld w 7 7) (fld w 3 4) (fld w 0 1)) else none
  | 0xea => if fld w 0 14 == 0x0#14 then some (.cand (ctl w) (fld w 14 7)) else none
  | 0xeb => if fld w 14 7 == 0x0#7 && fld w 0 7 == 0x0#7 then some (.cacc (ctl w) (fld w 7 7)) else none
  | 0xec => if fld w 1 2 == 0x0#2 then some (.tex (ctl w) (fld w 14 7) (fld w 7 7) (fld w 3 4) (fld w 0 1) lit) else none
  | 0xed => if fld w 0 7 == 0x0#7 then some (.texq (ctl w) (fld w 14 7) (fld w 7 7) lit) else none
  | 0xee => if fld w 4 3 == 0x0#3 then some (.spawn (ctl w) (fld w 14 7) (fld w 7 7) (fld w 0 4)) else none
  | 0xef => some (.svc (ctl w) (fld w 14 7) (fld w 0 14))
  | _ => none

/-- Opcodes 0xF0 to 0xFF, the system opcodes (R284). An opcode the map does not assign, or a nonzero field it requires to be zero, gives none (R272). -/
def decodeSystem (op : Nat) (w : Word) : Option Instr :=
  match op with
  | 0xf0 => some (.rdst (ctl w) (fld w 14 7) (fld w 12 2) (fld w 0 12))
  | 0xf1 => some (.wrst (ctl w) (fld w 14 7) (fld w 12 2) (fld w 0 12))
  | 0xf2 => if fld w 29 2 == 0#2 && fld w 0 21 == 0x0#21 then some (.eret (w.getLsbD 31)) else if fld w 29 2 == 0#2 && fld w 0 21 == 0x1#21 then some (.eretReplay (w.getLsbD 31)) else none
  | 0xf3 => if fld w 29 2 == 0#2 && fld w 14 7 == 0x0#7 && fld w 2 5 == 0x0#5 then some (.tinv (w.getLsbD 31) (fld w 7 7) (fld w 0 2)) else none
  | 0xf4 => if fld w 29 2 == 0#2 && fld w 0 21 == 0x0#21 then some (.csave (w.getLsbD 31)) else none
  | 0xf5 => if fld w 29 2 == 0#2 && fld w 0 21 == 0x0#21 then some (.crest (w.getLsbD 31)) else none
  | 0xf6 => if fld w 29 2 == 0#2 && fld w 14 7 == 0x0#7 && fld w 0 7 == 0x0#7 then some (.zsave (w.getLsbD 31) (fld w 7 7)) else none
  | 0xf7 => if fld w 29 2 == 0#2 && fld w 14 7 == 0x0#7 && fld w 0 7 == 0x0#7 then some (.zload (w.getLsbD 31) (fld w 7 7)) else none
  | 0xf8 => if fld w 29 2 == 0#2 && fld w 0 14 == 0x0#14 then some (.quies (w.getLsbD 31) (fld w 14 7)) else none
  | _ => none

/-- The instruction a word holds, before the legality conditions of R272. `lit` is the word of the next slot, read by the
literal-taking words only (R266, R268). -/
def decodeRaw (w lit : Word) : Option Instr :=
  let op := (fld w 21 8).toNat
  if op < 0x40 then decodeInt op w lit
  else if op < 0x80 then decodeFloat op w
  else if op < 0xA0 then decodeUniform op w lit
  else if op < 0xC0 then decodeControl op w
  else if op < 0xE0 then decodeMemory op w lit
  else if op < 0xF0 then decodeEngine op w lit
  else decodeSystem op w

/-- The instruction a word holds, total on every word: none is an illegal instruction (R272). -/
def decode (w lit : Word) : Option Instr := (decodeRaw w lit).filter Instr.wellFormed

/-- Does this opcode take its literal from the next slot (format L, R268)? -/
def takesLiteralOp (op : Nat) : Bool :=
  op == 0x2C || op == 0x82 || op == 0xCF || op == 0xD0 || op == 0xD1 || op == 0xE0 || op == 0xE3 || op == 0xE5 ||
  op == 0xEC || op == 0xED

/-- The pipes of R145; `none` is nop's (R265, R271). -/
inductive Pipe where
  | none | a | s | m | x | c
  deriving DecidableEq, Repr

/-- The opcodes that the map reserves, and 0xFF: they need no pipe (R275 to R285). -/
def reservedOp (op : Nat) : Bool :=
  op = 0x2E || op = 0x2F || op = 0x3F || (0x6D ≤ op && op ≤ 0x7F) || (0x99 ≤ op && op ≤ 0x9F) || op = 0xBF ||
  (0xD2 ≤ op && op ≤ 0xDF) || 0xF9 ≤ op

/-- The pipe of an opcode (R145, R275 to R284). -/
def pipeOf (op : Nat) : Pipe :=
  if op = 0 || reservedOp op then .none
  else if op < 0x60 then .a
  else if op < 0x80 then .s
  else if op = 0x8F then .m
  else if op < 0xA0 then .c
  else if op < 0xAA then .m
  else if op < 0xC0 then .c
  else if op < 0xCB then .m
  else if op < 0xCE then .x
  else if op < 0xE0 then .m
  else if op < 0xF0 then .x
  else .c

/-- Do two words of one group need the same pipe (R271)? -/
def samePipe (a b : Word) : Bool :=
  let p := pipeOf (fld a 21 8).toNat
  p != .none && p == pipeOf (fld b 21 8).toNat

/-- The first word of an instruction, from the encodings of R268 and R275 to R284; an event has no word. -/
def wordOf : Instr → Word
  | .nop c => (BitVec.ofBool c.k ++ c.g ++ 0x0#8 ++ 0x0#21 : BitVec 32)
  | .mov c d a => (BitVec.ofBool c.k ++ c.g ++ 0x1#8 ++ d ++ a ++ 0x0#7 : BitVec 32)
  | .add c d a b => (BitVec.ofBool c.k ++ c.g ++ 0x2#8 ++ d ++ a ++ b : BitVec 32)
  | .addS c d a b => (BitVec.ofBool c.k ++ c.g ++ 0x3#8 ++ d ++ a ++ b : BitVec 32)
  | .sub c d a b => (BitVec.ofBool c.k ++ c.g ++ 0x4#8 ++ d ++ a ++ b : BitVec 32)
  | .subS c d a b => (BitVec.ofBool c.k ++ c.g ++ 0x5#8 ++ d ++ a ++ b : BitVec 32)
  | .addB64 c d a b => (BitVec.ofBool c.k ++ c.g ++ 0x6#8 ++ d ++ a ++ b : BitVec 32)
  | .subB64 c d a b => (BitVec.ofBool c.k ++ c.g ++ 0x7#8 ++ d ++ a ++ b : BitVec 32)
  | .mul c d a b => (BitVec.ofBool c.k ++ c.g ++ 0x8#8 ++ d ++ a ++ b : BitVec 32)
  | .mulS c d a b => (BitVec.ofBool c.k ++ c.g ++ 0x9#8 ++ d ++ a ++ b : BitVec 32)
  | .mulhI32 c d a b => (BitVec.ofBool c.k ++ c.g ++ 0xa#8 ++ d ++ a ++ b : BitVec 32)
  | .mulhN32 c d a b => (BitVec.ofBool c.k ++ c.g ++ 0xb#8 ++ d ++ a ++ b : BitVec 32)
  | .mad c d a b => (BitVec.ofBool c.k ++ c.g ++ 0xc#8 ++ d ++ a ++ b : BitVec 32)
  | .madS c d a b => (BitVec.ofBool c.k ++ c.g ++ 0xd#8 ++ d ++ a ++ b : BitVec 32)
  | .minI32 c d a b => (BitVec.ofBool c.k ++ c.g ++ 0xe#8 ++ d ++ a ++ b : BitVec 32)
  | .minN32 c d a b => (BitVec.ofBool c.k ++ c.g ++ 0xf#8 ++ d ++ a ++ b : BitVec 32)
  | .maxI32 c d a b => (BitVec.ofBool c.k ++ c.g ++ 0x10#8 ++ d ++ a ++ b : BitVec 32)
  | .maxN32 c d a b => (BitVec.ofBool c.k ++ c.g ++ 0x11#8 ++ d ++ a ++ b : BitVec 32)
  | .and c d a b => (BitVec.ofBool c.k ++ c.g ++ 0x12#8 ++ d ++ a ++ b : BitVec 32)
  | .andS c d a b => (BitVec.ofBool c.k ++ c.g ++ 0x13#8 ++ d ++ a ++ b : BitVec 32)
  | .or c d a b => (BitVec.ofBool c.k ++ c.g ++ 0x14#8 ++ d ++ a ++ b : BitVec 32)
  | .orS c d a b => (BitVec.ofBool c.k ++ c.g ++ 0x15#8 ++ d ++ a ++ b : BitVec 32)
  | .xor c d a b => (BitVec.ofBool c.k ++ c.g ++ 0x16#8 ++ d ++ a ++ b : BitVec 32)
  | .xorS c d a b => (BitVec.ofBool c.k ++ c.g ++ 0x17#8 ++ d ++ a ++ b : BitVec 32)
  | .andn c d a b => (BitVec.ofBool c.k ++ c.g ++ 0x18#8 ++ d ++ a ++ b : BitVec 32)
  | .shl c d a b => (BitVec.ofBool c.k ++ c.g ++ 0x19#8 ++ d ++ a ++ b : BitVec 32)
  | .shr c d a b => (BitVec.ofBool c.k ++ c.g ++ 0x1a#8 ++ d ++ a ++ b : BitVec 32)
  | .sar c d a b => (BitVec.ofBool c.k ++ c.g ++ 0x1b#8 ++ d ++ a ++ b : BitVec 32)
  | .rol c d a b => (BitVec.ofBool c.k ++ c.g ++ 0x1c#8 ++ d ++ a ++ b : BitVec 32)
  | .shli c d a n => (BitVec.ofBool c.k ++ c.g ++ 0x1d#8 ++ d ++ a ++ 0x0#2 ++ n : BitVec 32)
  | .shri c d a n => (BitVec.ofBool c.k ++ c.g ++ 0x1e#8 ++ d ++ a ++ 0x0#2 ++ n : BitVec 32)
  | .sari c d a n => (BitVec.ofBool c.k ++ c.g ++ 0x1f#8 ++ d ++ a ++ 0x0#2 ++ n : BitVec 32)
  | .addi c d a n => (BitVec.ofBool c.k ++ c.g ++ 0x20#8 ++ d ++ a ++ n : BitVec 32)
  | .andi c d a n => (BitVec.ofBool c.k ++ c.g ++ 0x21#8 ++ d ++ a ++ n : BitVec 32)
  | .bfx c d a b => (BitVec.ofBool c.k ++ c.g ++ 0x22#8 ++ d ++ a ++ b : BitVec 32)
  | .bfi c d a b => (BitVec.ofBool c.k ++ c.g ++ 0x23#8 ++ d ++ a ++ b : BitVec 32)
  | .abs c d a => (BitVec.ofBool c.k ++ c.g ++ 0x24#8 ++ d ++ a ++ 0x0#7 : BitVec 32)
  | .neg c d a => (BitVec.ofBool c.k ++ c.g ++ 0x25#8 ++ d ++ a ++ 0x0#7 : BitVec 32)
  | .clz c d a => (BitVec.ofBool c.k ++ c.g ++ 0x26#8 ++ d ++ a ++ 0x0#7 : BitVec 32)
  | .popc c d a => (BitVec.ofBool c.k ++ c.g ++ 0x27#8 ++ d ++ a ++ 0x0#7 : BitVec 32)
  | .brev c d a => (BitVec.ofBool c.k ++ c.g ++ 0x28#8 ++ d ++ a ++ 0x0#7 : BitVec 32)
  | .lea c d a b => (BitVec.ofBool c.k ++ c.g ++ 0x29#8 ++ d ++ a ++ b : BitVec 32)
  | .sel c d a b => (BitVec.ofBool c.k ++ c.g ++ 0x2a#8 ++ d ++ a ++ b : BitVec 32)
  | .movi c d i => (BitVec.ofBool c.k ++ c.g ++ 0x2b#8 ++ d ++ i : BitVec 32)
  | .movk c d _ => (BitVec.ofBool c.k ++ c.g ++ 0x2c#8 ++ d ++ 0x0#14 : BitVec 32)
  | .movS c d a pair => (BitVec.ofBool c.k ++ c.g ++ 0x2d#8 ++ d ++ a ++ 0x0#6 ++ pair : BitVec 32)
  | .cmpEq c d a b => (BitVec.ofBool c.k ++ c.g ++ 0x30#8 ++ d ++ a ++ b : BitVec 32)
  | .cmpEqS c d a b => (BitVec.ofBool c.k ++ c.g ++ 0x31#8 ++ d ++ a ++ b : BitVec 32)
  | .cmpNe c d a b => (BitVec.ofBool c.k ++ c.g ++ 0x32#8 ++ d ++ a ++ b : BitVec 32)
  | .cmpNeS c d a b => (BitVec.ofBool c.k ++ c.g ++ 0x33#8 ++ d ++ a ++ b : BitVec 32)
  | .cmpLtI32 c d a b => (BitVec.ofBool c.k ++ c.g ++ 0x34#8 ++ d ++ a ++ b : BitVec 32)
  | .cmpLtI32S c d a b => (BitVec.ofBool c.k ++ c.g ++ 0x35#8 ++ d ++ a ++ b : BitVec 32)
  | .cmpLeI32 c d a b => (BitVec.ofBool c.k ++ c.g ++ 0x36#8 ++ d ++ a ++ b : BitVec 32)
  | .cmpLeI32S c d a b => (BitVec.ofBool c.k ++ c.g ++ 0x37#8 ++ d ++ a ++ b : BitVec 32)
  | .cmpLtN32 c d a b => (BitVec.ofBool c.k ++ c.g ++ 0x38#8 ++ d ++ a ++ b : BitVec 32)
  | .cmpLtN32S c d a b => (BitVec.ofBool c.k ++ c.g ++ 0x39#8 ++ d ++ a ++ b : BitVec 32)
  | .cmpLeN32 c d a b => (BitVec.ofBool c.k ++ c.g ++ 0x3a#8 ++ d ++ a ++ b : BitVec 32)
  | .cmpLeN32S c d a b => (BitVec.ofBool c.k ++ c.g ++ 0x3b#8 ++ d ++ a ++ b : BitVec 32)
  | .cmpiEq c d a n => (BitVec.ofBool c.k ++ c.g ++ 0x3c#8 ++ d ++ a ++ n : BitVec 32)
  | .cmpiLtI32 c d a n => (BitVec.ofBool c.k ++ c.g ++ 0x3d#8 ++ d ++ a ++ n : BitVec 32)
  | .cmpiLtN32 c d a n => (BitVec.ofBool c.k ++ c.g ++ 0x3e#8 ++ d ++ a ++ n : BitVec 32)
  | .fadd c d a b => (BitVec.ofBool c.k ++ c.g ++ 0x40#8 ++ d ++ a ++ b : BitVec 32)
  | .faddS c d a b => (BitVec.ofBool c.k ++ c.g ++ 0x41#8 ++ d ++ a ++ b : BitVec 32)
  | .fsub c d a b => (BitVec.ofBool c.k ++ c.g ++ 0x42#8 ++ d ++ a ++ b : BitVec 32)
  | .fsubS c d a b => (BitVec.ofBool c.k ++ c.g ++ 0x43#8 ++ d ++ a ++ b : BitVec 32)
  | .fmul c d a b => (BitVec.ofBool c.k ++ c.g ++ 0x44#8 ++ d ++ a ++ b : BitVec 32)
  | .fmulS c d a b => (BitVec.ofBool c.k ++ c.g ++ 0x45#8 ++ d ++ a ++ b : BitVec 32)
  | .ffma c d a b => (BitVec.ofBool c.k ++ c.g ++ 0x46#8 ++ d ++ a ++ b : BitVec 32)
  | .ffmaS c d a b => (BitVec.ofBool c.k ++ c.g ++ 0x47#8 ++ d ++ a ++ b : BitVec 32)
  | .fmin c d a b => (BitVec.ofBool c.k ++ c.g ++ 0x48#8 ++ d ++ a ++ b : BitVec 32)
  | .fmax c d a b => (BitVec.ofBool c.k ++ c.g ++ 0x49#8 ++ d ++ a ++ b : BitVec 32)
  | .fabs c d a => (BitVec.ofBool c.k ++ c.g ++ 0x4a#8 ++ d ++ a ++ 0x0#7 : BitVec 32)
  | .fneg c d a => (BitVec.ofBool c.k ++ c.g ++ 0x4b#8 ++ d ++ a ++ 0x0#7 : BitVec 32)
  | .faddF64 c d a b => (BitVec.ofBool c.k ++ c.g ++ 0x4c#8 ++ d ++ a ++ b : BitVec 32)
  | .fmulF64 c d a b => (BitVec.ofBool c.k ++ c.g ++ 0x4d#8 ++ d ++ a ++ b : BitVec 32)
  | .ffmaF64 c d a b => (BitVec.ofBool c.k ++ c.g ++ 0x4e#8 ++ d ++ a ++ b : BitVec 32)
  | .fsubF64 c d a b => (BitVec.ofBool c.k ++ c.g ++ 0x4f#8 ++ d ++ a ++ b : BitVec 32)
  | .faddH16x2 c d a b => (BitVec.ofBool c.k ++ c.g ++ 0x50#8 ++ d ++ a ++ b : BitVec 32)
  | .fmulH16x2 c d a b => (BitVec.ofBool c.k ++ c.g ++ 0x51#8 ++ d ++ a ++ b : BitVec 32)
  | .ffmaH16x2 c d a b => (BitVec.ofBool c.k ++ c.g ++ 0x52#8 ++ d ++ a ++ b : BitVec 32)
  | .faddBf16x2 c d a b => (BitVec.ofBool c.k ++ c.g ++ 0x53#8 ++ d ++ a ++ b : BitVec 32)
  | .fmulBf16x2 c d a b => (BitVec.ofBool c.k ++ c.g ++ 0x54#8 ++ d ++ a ++ b : BitVec 32)
  | .ffmaBf16x2 c d a b => (BitVec.ofBool c.k ++ c.g ++ 0x55#8 ++ d ++ a ++ b : BitVec 32)
  | .fdot2Bf16 c d a b => (BitVec.ofBool c.k ++ c.g ++ 0x56#8 ++ d ++ a ++ b : BitVec 32)
  | .fscale c d a b => (BitVec.ofBool c.k ++ c.g ++ 0x57#8 ++ d ++ a ++ b : BitVec 32)
  | .fcmpEqF32 c d a b => (BitVec.ofBool c.k ++ c.g ++ 0x58#8 ++ d ++ a ++ b : BitVec 32)
  | .fcmpNeF32 c d a b => (BitVec.ofBool c.k ++ c.g ++ 0x59#8 ++ d ++ a ++ b : BitVec 32)
  | .fcmpLtF32 c d a b => (BitVec.ofBool c.k ++ c.g ++ 0x5a#8 ++ d ++ a ++ b : BitVec 32)
  | .fcmpLeF32 c d a b => (BitVec.ofBool c.k ++ c.g ++ 0x5b#8 ++ d ++ a ++ b : BitVec 32)
  | .fcmpUnF32 c d a b => (BitVec.ofBool c.k ++ c.g ++ 0x5c#8 ++ d ++ a ++ b : BitVec 32)
  | .fcmpEqF64 c d a b => (BitVec.ofBool c.k ++ c.g ++ 0x5d#8 ++ d ++ a ++ b : BitVec 32)
  | .fcmpLtF64 c d a b => (BitVec.ofBool c.k ++ c.g ++ 0x5e#8 ++ d ++ a ++ b : BitVec 32)
  | .fcmpLeF64 c d a b => (BitVec.ofBool c.k ++ c.g ++ 0x5f#8 ++ d ++ a ++ b : BitVec 32)
  | .fclass c d a => (BitVec.ofBool c.k ++ c.g ++ 0x60#8 ++ d ++ a ++ 0x0#7 : BitVec 32)
  | .frnd c d a mode => (BitVec.ofBool c.k ++ c.g ++ 0x61#8 ++ d ++ a ++ 0x0#5 ++ mode : BitVec 32)
  | .fcvt c d a mode pair => (BitVec.ofBool c.k ++ c.g ++ 0x62#8 ++ d ++ a ++ mode ++ pair : BitVec 32)
  | .fcvtPk c d a mode pair => (BitVec.ofBool c.k ++ c.g ++ 0x63#8 ++ d ++ a ++ mode ++ pair : BitVec 32)
  | .frcp c d a => (BitVec.ofBool c.k ++ c.g ++ 0x64#8 ++ d ++ a ++ 0x0#7 : BitVec 32)
  | .frsq c d a => (BitVec.ofBool c.k ++ c.g ++ 0x65#8 ++ d ++ a ++ 0x0#7 : BitVec 32)
  | .fsqrt c d a => (BitVec.ofBool c.k ++ c.g ++ 0x66#8 ++ d ++ a ++ 0x0#7 : BitVec 32)
  | .fexp2 c d a => (BitVec.ofBool c.k ++ c.g ++ 0x67#8 ++ d ++ a ++ 0x0#7 : BitVec 32)
  | .flog2 c d a => (BitVec.ofBool c.k ++ c.g ++ 0x68#8 ++ d ++ a ++ 0x0#7 : BitVec 32)
  | .fsinpi c d a => (BitVec.ofBool c.k ++ c.g ++ 0x69#8 ++ d ++ a ++ 0x0#7 : BitVec 32)
  | .fcospi c d a => (BitVec.ofBool c.k ++ c.g ++ 0x6a#8 ++ d ++ a ++ 0x0#7 : BitVec 32)
  | .ftanh c d a => (BitVec.ofBool c.k ++ c.g ++ 0x6b#8 ++ d ++ a ++ 0x0#7 : BitVec 32)
  | .fdiv c d a b => (BitVec.ofBool c.k ++ c.g ++ 0x6c#8 ++ d ++ a ++ b : BitVec 32)
  | .smov c d a => (BitVec.ofBool c.k ++ c.g ++ 0x80#8 ++ d ++ a ++ 0x0#7 : BitVec 32)
  | .smovi c d i => (BitVec.ofBool c.k ++ c.g ++ 0x81#8 ++ d ++ i : BitVec 32)
  | .smovk c d _ => (BitVec.ofBool c.k ++ c.g ++ 0x82#8 ++ d ++ 0x0#14 : BitVec 32)
  | .sadd c d a b => (BitVec.ofBool c.k ++ c.g ++ 0x83#8 ++ d ++ a ++ b : BitVec 32)
  | .ssub c d a b => (BitVec.ofBool c.k ++ c.g ++ 0x84#8 ++ d ++ a ++ b : BitVec 32)
  | .smul c d a b => (BitVec.ofBool c.k ++ c.g ++ 0x85#8 ++ d ++ a ++ b : BitVec 32)
  | .sand c d a b => (BitVec.ofBool c.k ++ c.g ++ 0x86#8 ++ d ++ a ++ b : BitVec 32)
  | .sor c d a b => (BitVec.ofBool c.k ++ c.g ++ 0x87#8 ++ d ++ a ++ b : BitVec 32)
  | .sxor c d a b => (BitVec.ofBool c.k ++ c.g ++ 0x88#8 ++ d ++ a ++ b : BitVec 32)
  | .sshl c d a b => (BitVec.ofBool c.k ++ c.g ++ 0x89#8 ++ d ++ a ++ b : BitVec 32)
  | .sshr c d a b => (BitVec.ofBool c.k ++ c.g ++ 0x8a#8 ++ d ++ a ++ b : BitVec 32)
  | .saddi c d a n => (BitVec.ofBool c.k ++ c.g ++ 0x8b#8 ++ d ++ a ++ n : BitVec 32)
  | .scmpEq c d a b => (BitVec.ofBool c.k ++ c.g ++ 0x8c#8 ++ d ++ a ++ b : BitVec 32)
  | .scmpLtI64 c d a b => (BitVec.ofBool c.k ++ c.g ++ 0x8d#8 ++ d ++ a ++ b : BitVec 32)
  | .scmpLtN64 c d a b => (BitVec.ofBool c.k ++ c.g ++ 0x8e#8 ++ d ++ a ++ b : BitVec 32)
  | .sld c d a w off => (BitVec.ofBool c.k ++ c.g ++ 0x8f#8 ++ d ++ a ++ w ++ off : BitVec 32)
  | .rdln c d a lane => (BitVec.ofBool c.k ++ c.g ++ 0x90#8 ++ d ++ a ++ 0x0#1 ++ lane : BitVec 32)
  | .pand c d a b => (BitVec.ofBool c.k ++ c.g ++ 0x91#8 ++ d ++ a ++ b : BitVec 32)
  | .por c d a b => (BitVec.ofBool c.k ++ c.g ++ 0x92#8 ++ d ++ a ++ b : BitVec 32)
  | .pxor c d a b => (BitVec.ofBool c.k ++ c.g ++ 0x93#8 ++ d ++ a ++ b : BitVec 32)
  | .pandn c d a b => (BitVec.ofBool c.k ++ c.g ++ 0x94#8 ++ d ++ a ++ b : BitVec 32)
  | .pmov c d a => (BitVec.ofBool c.k ++ c.g ++ 0x95#8 ++ d ++ a ++ 0x0#7 : BitVec 32)
  | .pnot c d a => (BitVec.ofBool c.k ++ c.g ++ 0x96#8 ++ d ++ a ++ 0x0#7 : BitVec 32)
  | .guard c latch a => (BitVec.ofBool c.k ++ c.g ++ 0x97#8 ++ 0x0#6 ++ latch ++ a ++ 0x0#7 : BitVec 32)
  | .pset c d v => (BitVec.ofBool c.k ++ c.g ++ 0x98#8 ++ d ++ 0x0#13 ++ v : BitVec 32)
  | .shflIdx c d a b => (BitVec.ofBool c.k ++ c.g ++ 0xa0#8 ++ d ++ a ++ b : BitVec 32)
  | .shflUp c d a b => (BitVec.ofBool c.k ++ c.g ++ 0xa1#8 ++ d ++ a ++ b : BitVec 32)
  | .shflDn c d a b => (BitVec.ofBool c.k ++ c.g ++ 0xa2#8 ++ d ++ a ++ b : BitVec 32)
  | .shflXor c d a b => (BitVec.ofBool c.k ++ c.g ++ 0xa3#8 ++ d ++ a ++ b : BitVec 32)
  | .voteAny c d a => (BitVec.ofBool c.k ++ c.g ++ 0xa4#8 ++ d ++ a ++ 0x0#7 : BitVec 32)
  | .voteAll c d a => (BitVec.ofBool c.k ++ c.g ++ 0xa5#8 ++ d ++ a ++ 0x0#7 : BitVec 32)
  | .ballot c d a => (BitVec.ofBool c.k ++ c.g ++ 0xa6#8 ++ d ++ a ++ 0x0#7 : BitVec 32)
  | .matchLanes c d a => (BitVec.ofBool c.k ++ c.g ++ 0xa7#8 ++ d ++ a ++ 0x0#7 : BitVec 32)
  | .redux c d a op => (BitVec.ofBool c.k ++ c.g ++ 0xa8#8 ++ d ++ a ++ op : BitVec 32)
  | .scan c d a op => (BitVec.ofBool c.k ++ c.g ++ 0xa9#8 ++ d ++ a ++ op : BitVec 32)
  | .wid c d => (BitVec.ofBool c.k ++ c.g ++ 0xaa#8 ++ d ++ 0x0#14 : BitVec 32)
  | .elect c d => (BitVec.ofBool c.k ++ c.g ++ 0xab#8 ++ d ++ 0x0#14 : BitVec 32)
  | .bra c off => (BitVec.ofBool c.k ++ c.g ++ 0xac#8 ++ off : BitVec 32)
  | .call c off => (BitVec.ofBool c.k ++ c.g ++ 0xad#8 ++ off : BitVec 32)
  | .ret c => (BitVec.ofBool c.k ++ c.g ++ 0xae#8 ++ 0x0#21 : BitVec 32)
  | .jmpi c a => (BitVec.ofBool c.k ++ c.g ++ 0xaf#8 ++ 0x0#7 ++ a ++ 0x0#7 : BitVec 32)
  | .fork k off => (BitVec.ofBool k ++ 0x0#2 ++ 0xb0#8 ++ off : BitVec 32)
  | .join k => (BitVec.ofBool k ++ 0x0#2 ++ 0xb1#8 ++ 0x0#21 : BitVec 32)
  | .exit c => (BitVec.ofBool c.k ++ c.g ++ 0xb2#8 ++ 0x0#21 : BitVec 32)
  | .idem k => (BitVec.ofBool k ++ 0x0#2 ++ 0xb3#8 ++ 0x0#21 : BitVec 32)
  | .trap c n => (BitVec.ofBool c.k ++ c.g ++ 0xb4#8 ++ 0x0#7 ++ n : BitVec 32)
  | .brk c n => (BitVec.ofBool c.k ++ c.g ++ 0xb5#8 ++ 0x0#7 ++ n : BitVec 32)
  | .barArrive k pd bar => (BitVec.ofBool k ++ 0x0#2 ++ 0xb6#8 ++ pd ++ 0x0#7 ++ bar ++ 0x0#2 : BitVec 32)
  | .barWait k pa bar => (BitVec.ofBool k ++ 0x0#2 ++ 0xb7#8 ++ 0x0#7 ++ pa ++ bar ++ 0x0#2 : BitVec 32)
  | .barSync k bar => (BitVec.ofBool k ++ 0x0#2 ++ 0xb8#8 ++ 0x0#14 ++ bar ++ 0x0#2 : BitVec 32)
  | .barDrop k pd bar => (BitVec.ofBool k ++ 0x0#2 ++ 0xb9#8 ++ pd ++ 0x0#7 ++ bar ++ 0x0#2 : BitVec 32)
  | .barExpect k sb bar => (BitVec.ofBool k ++ 0x0#2 ++ 0xba#8 ++ 0x0#7 ++ sb ++ bar ++ 0x0#2 : BitVec 32)
  | .barTry k pd pa bar sb => (BitVec.ofBool k ++ 0x0#2 ++ 0xbb#8 ++ pd ++ pa ++ bar ++ sb : BitVec 32)
  | .wait k ac lim => (BitVec.ofBool k ++ 0x0#2 ++ 0xbc#8 ++ 0x0#9 ++ ac ++ lim : BitVec 32)
  | .fence c sc => (BitVec.ofBool c.k ++ c.g ++ 0xbd#8 ++ 0x0#18 ++ sc : BitVec 32)
  | .yield c => (BitVec.ofBool c.k ++ c.g ++ 0xbe#8 ++ 0x0#21 : BitVec 32)
  | .ldp c d a w off => (BitVec.ofBool c.k ++ c.g ++ 0xc0#8 ++ d ++ a ++ w ++ off : BitVec 32)
  | .stp c d a w off => (BitVec.ofBool c.k ++ c.g ++ 0xc1#8 ++ d ++ a ++ w ++ off : BitVec 32)
  | .lds c d a w off => (BitVec.ofBool c.k ++ c.g ++ 0xc2#8 ++ d ++ a ++ w ++ off : BitVec 32)
  | .sts c d a w off => (BitVec.ofBool c.k ++ c.g ++ 0xc3#8 ++ d ++ a ++ w ++ off : BitVec 32)
  | .ldc c d a w off => (BitVec.ofBool c.k ++ c.g ++ 0xc4#8 ++ d ++ a ++ w ++ off : BitVec 32)
  | .stc c d a w off => (BitVec.ofBool c.k ++ c.g ++ 0xc5#8 ++ d ++ a ++ w ++ off : BitVec 32)
  | .ldg c d p off ac sz => (BitVec.ofBool c.k ++ c.g ++ 0xc6#8 ++ d ++ p ++ off ++ ac ++ sz : BitVec 32)
  | .stg c d p off ac sz => (BitVec.ofBool c.k ++ c.g ++ 0xc7#8 ++ d ++ p ++ off ++ ac ++ sz : BitVec 32)
  | .ldgAcq c d p sc sz ac => (BitVec.ofBool c.k ++ c.g ++ 0xc8#8 ++ d ++ p ++ sc ++ sz ++ 0x0#1 ++ ac : BitVec 32)
  | .stgRel c d p sc sz ac => (BitVec.ofBool c.k ++ c.g ++ 0xc9#8 ++ d ++ p ++ sc ++ sz ++ 0x0#1 ++ ac : BitVec 32)
  | .ldk c d a w off => (BitVec.ofBool c.k ++ c.g ++ 0xca#8 ++ d ++ a ++ w ++ off : BitVec 32)
  | .ldo c d a ac => (BitVec.ofBool c.k ++ c.g ++ 0xcb#8 ++ d ++ a ++ ac ++ 0x0#3 : BitVec 32)
  | .odrop c a => (BitVec.ofBool c.k ++ c.g ++ 0xcc#8 ++ 0x0#7 ++ a ++ 0x0#7 : BitVec 32)
  | .oreqRefine c d a ac => (BitVec.ofBool c.k ++ c.g ++ 0xcd#8 ++ d ++ a ++ ac ++ 0x0#3 : BitVec 32)
  | .oreqEvict c d a ac => (BitVec.ofBool c.k ++ c.g ++ 0xcd#8 ++ d ++ a ++ ac ++ 0x1#3 : BitVec 32)
  | .pfg c a => (BitVec.ofBool c.k ++ c.g ++ 0xce#8 ++ 0x0#7 ++ a ++ 0x0#7 : BitVec 32)
  | .atom c d a b _ => (BitVec.ofBool c.k ++ c.g ++ 0xcf#8 ++ d ++ a ++ b : BitVec 32)
  | .acas c d a b _ => (BitVec.ofBool c.k ++ c.g ++ 0xd0#8 ++ d ++ a ++ b : BitVec 32)
  | .red c a b _ => (BitVec.ofBool c.k ++ c.g ++ 0xd1#8 ++ 0x0#7 ++ a ++ b : BitVec 32)
  | .tcopy c d a ac rel _ => (BitVec.ofBool c.k ++ c.g ++ 0xe0#8 ++ d ++ a ++ ac ++ 0x0#2 ++ rel : BitVec 32)
  | .tgath c d a ac rel => (BitVec.ofBool c.k ++ c.g ++ 0xe1#8 ++ d ++ a ++ ac ++ 0x0#2 ++ rel : BitVec 32)
  | .tscat c d a ac rel => (BitVec.ofBool c.k ++ c.g ++ 0xe2#8 ++ d ++ a ++ ac ++ 0x0#2 ++ rel : BitVec 32)
  | .obres c ob _ => (BitVec.ofBool c.k ++ c.g ++ 0xe3#8 ++ 0x0#4 ++ ob ++ 0x0#14 : BitVec 32)
  | .obld c barn ob a ac lvl rel => (BitVec.ofBool c.k ++ c.g ++ 0xe4#8 ++ barn ++ ob ++ a ++ ac ++ lvl ++ rel : BitVec 32)
  | .mma c zt a b _ => (BitVec.ofBool c.k ++ c.g ++ 0xe5#8 ++ 0x0#5 ++ zt ++ a ++ b : BitVec 32)
  | .zclr c zt => (BitVec.ofBool c.k ++ c.g ++ 0xe6#8 ++ 0x0#5 ++ zt ++ 0x0#14 : BitVec 32)
  | .zmov c d zs grp => (BitVec.ofBool c.k ++ c.g ++ 0xe7#8 ++ d ++ 0x0#5 ++ zs ++ 0x0#5 ++ grp : BitVec 32)
  | .zst c barn zt a ac lvl rel => (BitVec.ofBool c.k ++ c.g ++ 0xe8#8 ++ barn ++ 0x0#1 ++ zt ++ a ++ ac ++ lvl ++ rel : BitVec 32)
  | .rayq c d a ac rel => (BitVec.ofBool c.k ++ c.g ++ 0xe9#8 ++ d ++ a ++ ac ++ 0x0#2 ++ rel : BitVec 32)
  | .cand c d => (BitVec.ofBool c.k ++ c.g ++ 0xea#8 ++ d ++ 0x0#14 : BitVec 32)
  | .cacc c a => (BitVec.ofBool c.k ++ c.g ++ 0xeb#8 ++ 0x0#7 ++ a ++ 0x0#7 : BitVec 32)
  | .tex c d a ac rel _ => (BitVec.ofBool c.k ++ c.g ++ 0xec#8 ++ d ++ a ++ ac ++ 0x0#2 ++ rel : BitVec 32)
  | .texq c d a _ => (BitVec.ofBool c.k ++ c.g ++ 0xed#8 ++ d ++ a ++ 0x0#7 : BitVec 32)
  | .spawn c d a queue => (BitVec.ofBool c.k ++ c.g ++ 0xee#8 ++ d ++ a ++ 0x0#3 ++ queue : BitVec 32)
  | .svc c d code => (BitVec.ofBool c.k ++ c.g ++ 0xef#8 ++ d ++ code : BitVec 32)
  | .rdst c d form reg => (BitVec.ofBool c.k ++ c.g ++ 0xf0#8 ++ d ++ form ++ reg : BitVec 32)
  | .wrst c d form reg => (BitVec.ofBool c.k ++ c.g ++ 0xf1#8 ++ d ++ form ++ reg : BitVec 32)
  | .eret k => (BitVec.ofBool k ++ 0x0#2 ++ 0xf2#8 ++ 0x0#21 : BitVec 32)
  | .eretReplay k => (BitVec.ofBool k ++ 0x0#2 ++ 0xf2#8 ++ 0x1#21 : BitVec 32)
  | .tinv k a kind => (BitVec.ofBool k ++ 0x0#2 ++ 0xf3#8 ++ 0x0#7 ++ a ++ 0x0#5 ++ kind : BitVec 32)
  | .csave k => (BitVec.ofBool k ++ 0x0#2 ++ 0xf4#8 ++ 0x0#21 : BitVec 32)
  | .crest k => (BitVec.ofBool k ++ 0x0#2 ++ 0xf5#8 ++ 0x0#21 : BitVec 32)
  | .zsave k a => (BitVec.ofBool k ++ 0x0#2 ++ 0xf6#8 ++ 0x0#7 ++ a ++ 0x0#7 : BitVec 32)
  | .zload k a => (BitVec.ofBool k ++ 0x0#2 ++ 0xf7#8 ++ 0x0#7 ++ a ++ 0x0#7 : BitVec 32)
  | .quies k d => (BitVec.ofBool k ++ 0x0#2 ++ 0xf8#8 ++ d ++ 0x0#14 : BitVec 32)
  | .loadImage _ _ => 0#32
  | .map _ _ => 0#32
  | .unmap _ _ _ => 0#32
  | .copyIn _ _ _ _ _ => 0#32
  | .copyOut _ _ _ _ => 0#32
  | .launch _ _ _ _ => 0#32
  | .waitForEvent _ _ _ => 0#32
  | .query _ _ => 0#32
  | .attest _ _ => 0#32
  | .partitionCreate _ _ => 0#32
  | .partitionDestroy _ _ => 0#32
  | .resumeContext _ _ _ => 0#32
  | .catalogue _ _ _ => 0#32
  | .bringUp _ => 0#32
  | .writeChunk _ => 0#32
  | .readRequest _ => 0#32
  | .readReply _ => 0#32
  | .atomicRequest _ => 0#32
  | .atomicReply _ => 0#32
  | .illegalInstruction _ word => word
  | .unknownKindRequest _ _ => 0#32
  | .copyPerform => 0#32
  | .waitTimeLimit => 0#32
  | .powerOff => 0#32
  | .throttleTrip => 0#32
  | .throttleRelease => 0#32
  | .shutdownTrip => 0#32
  | .grantRequest => 0#32
  | .reclaimReturn => 0#32
  | .acknowledge => 0#32
  | .messageAbandon => 0#32
  | .homeSliceAccess => 0#32
  | .lineArrival => 0#32
  | .demotionLineWritten => 0#32
  | .evictionRequest => 0#32
  | .dormantZeroFill => 0#32
  | .forcedRefresh => 0#32
  | .quarantineRelease => 0#32
  | .parkResume => 0#32
  | .switchOut => 0#32
  | .loadReply => 0#32
  | .storePerformed => 0#32
  | .atomicPerform => 0#32
  | .engineTranslate => 0#32
  | .engineUnitSettle => 0#32
  | .refineServe => 0#32
  | .teamDeal => 0#32
  | .quantumExpiry => 0#32
  | .gridComplete => 0#32
  | .trapEntry => 0#32
  | .preemptRequest => 0#32
  | .graceExpiry => 0#32
  | .teamReplace => 0#32
  | .matrixHang => 0#32
  | .arrayReset => 0#32
  | .mmaCommit => 0#32
  | .coreFailure => 0#32
  | .barTryTimeout => 0#32
  | .rayAccept => 0#32
  | .rayRecordLost => 0#32
  | .stationCall => 0#32
  | .callEnd => 0#32
  | .anyhitBatchLaunch => 0#32
  | .verdictApply => 0#32
  | .hitBatchLaunch => 0#32
  | .svcReply => 0#32
  | .unsupportedPacket => 0#32
  | .badBlockRetirement => 0#32

/-- The literal of a literal-taking instruction (format L, R268). -/
def literalOf : Instr → Option Word
  | .movk _ _ lit => some lit
  | .smovk _ _ lit => some lit
  | .atom _ _ _ _ lit => some lit
  | .acas _ _ _ _ lit => some lit
  | .red _ _ _ lit => some lit
  | .tcopy _ _ _ _ _ lit => some lit
  | .obres _ _ lit => some lit
  | .mma _ _ _ _ lit => some lit
  | .tex _ _ _ _ _ lit => some lit
  | .texq _ _ _ lit => some lit
  | _ => none

/-- The words of an instruction: its word, and its literal where it takes one. -/
def encode (i : Instr) : List Word :=
  match literalOf i with
  | some l => [wordOf i, l]
  | none => [wordOf i]

/-- The instruction read from a list of words, and how many words it took. -/
def decodeWords : List Word → Option (Instr × Nat)
  | [] => none
  | w :: rest =>
    if takesLiteralOp (fld w 21 8).toNat then (decode w (rest.headD 0#32)).map fun i => (i, 2)
    else (decode w 0#32).map fun i => (i, 1)

/-- The little-endian word of four bytes (R4); absent bytes read zero. -/
def wordOfBytes (bs : List Byte) : Word :=
  (bs.getD 3 0#8 ++ bs.getD 2 0#8 ++ bs.getD 1 0#8 ++ bs.getD 0 0#8 : BitVec 32)

/-- The four bytes of a word, lowest address first (R4). -/
def bytesOfWord (w : Word) : List Byte :=
  [w.extractLsb' 0 8, w.extractLsb' 8 8, w.extractLsb' 16 8, w.extractLsb' 24 8]

/-- The instruction whose bits are `w`, numbered from bit 0 of its first word, with `nbits` of them given and every bit above
zero: the bytes as text stores them, read back by the decoder. -/
def decodeTableWord (nbits w : Nat) : Option Instr :=
  let v := w % 2 ^ nbits
  let bytes := bytesOfWord (BitVec.ofNat 32 v) ++ bytesOfWord (BitVec.ofNat 32 (v / 2 ^ 32))
  (decodeWords [wordOfBytes bytes, wordOfBytes (bytes.drop 4)]).map (·.1)

end Sys2Proof
end

