-- ==== Sys2Proof/Config.lean ====
section
/-! DEFINITION. What an implementation fixes, and the values the spec leaves open. -/
namespace Sys2Proof.Config

/-- The SV-90's logical cores: a 16 by 16 mesh (R9, R10). DESIGN CHOICE, safe (log 106). -/
def cores : Nat := 256
/-- The implementation's save image version (R197, R368). -/
def saveVersion : Nat := 0x0001
/-- The arithmetic clock in MHz that `svc` 0x0010 reports (R364). -/
def clockMHz : Nat := 2100
/-- HBM5 of the device in bytes (R11). -/
def hbmBytes : Nat := 512 * 2 ^ 30
/-- HBM5 of the device in the GiB units of a partition's share (R11, R30). -/
def hbmUnits : Nat := 512
/-- The deep tier in the 64 GiB units of a partition's share (R12, R30). -/
def deepUnits : Nat := 256
/-- Line requests that a core holds at most (R67). -/
def lineRequests : Nat := 4096
/-- Entries of the grid event table (R27). -/
def eventEntries : Nat := 4096
/-- Grids a launch queue holds (R125). -/
def queueEntries : Nat := 1024
/-- Remote-window entries of the device (R15). -/
def windowEntries : Nat := 1024
/-- The lowest global address that the device gives to what it places itself: images, team areas (R54, R196). -/
def deviceBase : Nat := 0x1_0000_0000
/-- Device-wide grid barrier slots (R129). -/
def gridBarrierSlots : Nat := 32

/-- Free value: whether a core that waits for its grant withholds its issue slots at a tick (R23). -/
opaque withholds : Nat → Nat → Bool
/-- Free value: which of the acts that may come next does. The rules order nothing more among them (R1, R150). DESIGN CHOICE, safe (log 4). -/
opaque choice : Nat → Nat
/-- Free value: what bring-up's tests find of the physical part (R31). -/
opaque selfTest : SelfTest
/-- Free value: the cycles a core counts between two readings of CYCLES (R144); any count from 0. -/
opaque cycleGap : Nat → Nat → BitVec 64
/-- Free value: the cycles that a core's load latency counter gains between two readings (R79). -/
opaque latencyGap : Nat → Nat → Nat
/-- Free value: the cycles of tier stall that a core counts between two readings of its counter (R72). -/
opaque stallGap : Nat → Nat → Nat
/-- Free value: whether a signature over a catalogue image verifies against the fused vendor key (R35). -/
opaque signatureValid : List Byte → List Byte → Bool
/-- Free value: what a sequencer does under a catalogue image that is no default one, by the image's number, two numbers that say for what and
an index: a sampler's words, a walker's choice, a traversal unit's hits and links (R35, R261). -/
opaque sequencer : Nat → Nat → Nat → Nat → Nat
/-- Free value: the SHA3-256 measurement of an image (R31, R36). -/
opaque measurement : List Byte → List Byte
/-- Free value: the bytes, and the version, of the default catalogue image of a kind (R35). -/
opaque defaultImage : Nat → List Byte
opaque defaultVersion : Nat → Nat
/-- Free value: the transport endpoint address of a port, which the port stamps on what it sends (R15, R19). -/
opaque portEndpoint : Nat → Nat
/-- Free value: the port that carries a message, among those that run; packets are sprayed across them (R13, R14). -/
opaque portChoice : Nat → Nat
/-- Free value: the pseudo-channel that holds a line; the interleave is not visible in any result (R11). -/
opaque channelOf : Nat → Nat
/-- Free value: the device key's digest, the vendor's certificate for it, and the measurements of the boot ROM and of the service
image (R36). -/
opaque fixedMeasurements : List (List Byte)
/-- Free value: the report signature under the derived attestation key (R36). -/
opaque attestSignature : List Byte → List Byte
/-- Free value: the length, within its range, of a csave image and of a store-buffer image with so many entries (R368). -/
opaque saveLength : Nat → Nat
/-- Free value: what a lane register, a uniform register or a predicate holds when a vacated team is placed again, before its
handler restores it (R195, R198); the first argument is the tick. -/
opaque leftover : Nat → Nat → BitVec 64
/-- Free value: a byte of a save image behind its header, in the implementation's own layout (R196, R238). -/
opaque imageByte : Nat → Nat → BitVec 8
/-- Free value: an element of a train's own tile after a `zload` of bytes no `zsave` wrote for it (R238). -/
opaque loadedElement : Nat → Nat → BitVec 32
/-- Free value: whether a box test reports a hit for a box that the ray misses, by the number of the call, the ray's index and the
child (R246). -/
opaque boxExtra : Nat → Nat → Nat → Bool
/-- Free value: the bf16 entry distance of a reported box that has none by the rules, its operands not all finite (R246). -/
opaque boxDistance : Nat → Nat → Nat → BitVec 16
/-- Free value: figures that a query or `svc` reports and the rules leave to the device (R1). -/
opaque figure : Nat → Nat → Nat
/-- Free value: the 64 KiB page of its partition's space at which the memory that a remote-window entry shows to its peer begins, by
window number; the rules give an entry no local memory (R15, R61). -/
opaque exposedPage : Nat → BitVec 40
/-- Free value: the fewest spare flash blocks that keep 16 TiB writable (R73). -/
opaque minSpare : Nat

end Sys2Proof.Config
end

