-- ==== Sys2Proof/Machine/Fmt.lean ====
section
/-! DEFINITION. Number formats, exact dyadic arithmetic and rounding (R204 to R216). -/
namespace Sys2Proof

/-- The exception flags one operation raises, as FPFLAGS numbers them (R211). -/
structure Flags where
  iv : Bool
  dz : Bool
  of : Bool
  uf : Bool
  nx : Bool
  deriving DecidableEq, Repr

namespace Flags
/-- No flag. -/
def none : Flags := ⟨false, false, false, false, false⟩
/-- Invalid alone. -/
def invalid : Flags := ⟨true, false, false, false, false⟩
/-- Divide by zero alone. -/
def divZero : Flags := ⟨false, true, false, false, false⟩
/-- Inexact alone. -/
def inexact : Flags := ⟨false, false, false, false, true⟩
/-- Invalid when `b`. -/
def ivIf (b : Bool) : Flags := ⟨b, false, false, false, false⟩
/-- The union of two operations' flags (R206). -/
def or (a b : Flags) : Flags := ⟨a.iv || b.iv, a.dz || b.dz, a.of || b.of, a.uf || b.uf, a.nx || b.nx⟩
/-- The flags as bits [4:0] of FPFLAGS: NX, UF, OF, DZ, IV (R211). -/
def bits (f : Flags) : Word :=
  (if f.iv then 1#32 else 0#32) ||| (if f.dz then 2#32 else 0#32) ||| (if f.of then 4#32 else 0#32) |||
  (if f.uf then 8#32 else 0#32) ||| (if f.nx then 16#32 else 0#32)
end Flags

/-- A binary floating format (R206). -/
structure FFmt where
  ebits : Nat
  fbits : Nat
  deriving DecidableEq, Repr

/-- f64 (R206). -/
def f64 : FFmt := ⟨11, 52⟩
/-- f32 (R206). -/
def f32 : FFmt := ⟨8, 23⟩
/-- h16 (R206). -/
def h16 : FFmt := ⟨5, 10⟩
/-- bf16 (R206). -/
def bf16 : FFmt := ⟨8, 7⟩

/-- The exponent bias (R206). -/
def FFmt.bias (f : FFmt) : Nat := 2 ^ (f.ebits - 1) - 1
/-- The magnitude code of infinity: exponent all ones, fraction zero. -/
def FFmt.infCode (f : FFmt) : Nat := (2 ^ f.ebits - 1) * 2 ^ f.fbits
/-- The sign bit's weight. -/
def FFmt.signWeight (f : FFmt) : Nat := 2 ^ (f.ebits + f.fbits)
/-- The canonical NaN: sign 0, exponent all ones, fraction msb alone (R206, R207). -/
def FFmt.nan (f : FFmt) : Nat := f.infCode + 2 ^ (f.fbits - 1)
/-- The exponent of the smallest subnormal's one bit. -/
def FFmt.qmin (f : FFmt) : Int := 1 - (f.bias : Int) - (f.fbits : Int)

/-- An exact dyadic number m × 2^e. -/
structure Dyadic where
  m : Int
  e : Int
  deriving DecidableEq, Repr

namespace Dyadic
/-- Zero. -/
def zero : Dyadic := ⟨0, 0⟩
/-- A whole number. -/
def ofInt (i : Int) : Dyadic := ⟨i, 0⟩
/-- The numerator of x over 2^e, for e no greater than x's exponent. -/
def atExp (x : Dyadic) (e : Int) : Int := x.m * 2 ^ (x.e - e).toNat
/-- Exact sum. -/
def add (x y : Dyadic) : Dyadic := let e := min x.e y.e; ⟨x.atExp e + y.atExp e, e⟩
/-- Exact negation. -/
def neg (x : Dyadic) : Dyadic := ⟨-x.m, x.e⟩
/-- Exact difference. -/
def sub (x y : Dyadic) : Dyadic := x.add y.neg
/-- Exact product. -/
def mul (x y : Dyadic) : Dyadic := ⟨x.m * y.m, x.e + y.e⟩
/-- x × 2^n. -/
def scale (x : Dyadic) (n : Int) : Dyadic := ⟨x.m, x.e + n⟩
/-- x < y. -/
def lt (x y : Dyadic) : Bool := decide ((x.sub y).m < 0)
/-- x ≤ y. -/
def le (x y : Dyadic) : Bool := decide ((x.sub y).m ≤ 0)
/-- x = y as numbers. -/
def eq (x y : Dyadic) : Bool := decide ((x.sub y).m = 0)
/-- The greatest integer not above x. -/
def floor (x : Dyadic) : Int := if 0 ≤ x.e then x.m * 2 ^ x.e.toNat else x.m / (2 ^ (-x.e).toNat : Nat)
end Dyadic

/-- A floating value as read: a NaN (signalling or quiet), an infinity, or ±m × 2^e with its sign kept for zero (R206). -/
inductive FVal where
  | nan (signalling : Bool)
  | inf (neg : Bool)
  | fin (neg : Bool) (m : Nat) (e : Int)
  deriving DecidableEq, Repr

namespace FVal
/-- Is it a NaN? -/
def isNan : FVal → Bool
  | .nan _ => true
  | _ => false
/-- Is it a signalling NaN? -/
def isSnan : FVal → Bool
  | .nan s => s
  | _ => false
/-- Is it an infinity? -/
def isInf : FVal → Bool
  | .inf _ => true
  | _ => false
/-- Is it a zero? -/
def isZero : FVal → Bool
  | .fin _ m _ => m == 0
  | _ => false
/-- The sign; a NaN's is not used. -/
def sign : FVal → Bool
  | .nan _ => false
  | .inf n => n
  | .fin n _ _ => n
/-- The exact number of a finite value. -/
def dy : FVal → Dyadic
  | .fin n m e => ⟨if n then -(m : Int) else m, e⟩
  | _ => Dyadic.zero
/-- The value with its sign inverted. -/
def negate : FVal → FVal
  | .nan s => .nan s
  | .inf n => .inf (!n)
  | .fin n m e => .fin (!n) m e
end FVal

/-- Read a bit pattern of a binary format (R206). -/
def decodeF (f : FFmt) (v : Nat) : FVal :=
  let neg := v / f.signWeight % 2 == 1
  let e := v / 2 ^ f.fbits % 2 ^ f.ebits
  let frac := v % 2 ^ f.fbits
  if e = 2 ^ f.ebits - 1 then
    if frac = 0 then .inf neg else .nan (frac < 2 ^ (f.fbits - 1))
  else if e = 0 then .fin neg frac f.qmin
  else .fin neg (2 ^ f.fbits + frac) ((e : Int) + f.qmin - 1)

/-- The rounding modes of R208, coded as R315 and R316 code them. -/
inductive RMode where
  | rne | rz | ru | rd
  deriving DecidableEq, Repr

/-- A rounding mode from its two-bit code (R315, R316). -/
def RMode.ofBits (b : BitVec 2) : RMode :=
  match b.toNat with
  | 0 => .rne
  | 1 => .rz
  | 2 => .ru
  | _ => .rd

/-- Does this mode step a truncated magnitude up? `half` compares the discarded part with half a unit (R208). -/
def RMode.up (mode : RMode) (neg odd : Bool) (half : Ordering) (inexact : Bool) : Bool :=
  match mode with
  | .rne => match half with
    | .lt => false
    | .eq => odd
    | .gt => true
  | .rz => false
  | .ru => inexact && !neg
  | .rd => inexact && neg

/-- The number of bits of a natural number. -/
def bitLen (n : Nat) : Nat := if n = 0 then 0 else Nat.log2 n + 1

/-- m × 2^e plus, when `sticky`, something below one unit of m: the magnitude rounded to a multiple of 2^q, as a count of
such units, and whether anything was discarded. -/
def roundAt (mode : RMode) (neg : Bool) (m : Nat) (e q : Int) (sticky : Bool) : Nat × Bool :=
  if q ≤ e then (m * 2 ^ (e - q).toNat, sticky)
  else
    let s := (q - e).toNat
    if bitLen m + 1 < s then (if mode.up neg false .lt (m != 0 || sticky) then 1 else 0, m != 0 || sticky) else
    let t := m / 2 ^ s
    let r := m % 2 ^ s
    let h := 2 ^ (s - 1)
    let half := if r < h then .lt else if r = h then (if sticky then .gt else .eq) else .gt
    let inexact := r != 0 || sticky
    (if mode.up neg (t % 2 == 1) half inexact then t + 1 else t, inexact)

/-- RND_FMT of the nonzero exact number ±(m × 2^e, plus a positive part below one unit of m when `sticky`), with the flags of
R211. Underflow is judged on the result rounded with unbounded exponent (R208, R211). -/
def roundF (f : FFmt) (mode : RMode) (neg : Bool) (m0 : Nat) (e0 : Int) (sticky : Bool) : Nat × Flags :=
  let m := m0 * 2 ^ (f.fbits + 4)
  let e := e0 - ((f.fbits + 4 : Nat) : Int)
  let top := e + (bitLen m : Int) - 1
  let q := max (top - (f.fbits : Int)) f.qmin
  let (u, inexact) := roundAt mode neg m e q sticky
  let code := (q - f.qmin).toNat * 2 ^ f.fbits + u
  let s := if neg then f.signWeight else 0
  let free := (roundAt mode neg m e (top - (f.fbits : Int)) sticky).1
  let tiny := decide (top - (f.fbits : Int) + (bitLen free : Int) - 1 < f.qmin + (f.fbits : Int))
  if f.infCode ≤ code then
    let toInf := match mode with
      | .rne => true
      | .rz => false
      | .ru => !neg
      | .rd => neg
    (s + (if toInf then f.infCode else f.infCode - 1), ⟨false, false, true, false, true⟩)
  else (s + code, ⟨false, false, false, tiny && inexact, inexact⟩)

/-- RND_FMT of a dyadic number; `zneg` is the sign a zero takes (R208). -/
def roundDy (f : FFmt) (mode : RMode) (x : Dyadic) (zneg : Bool) : Nat × Flags :=
  if x.m = 0 then ((if zneg then f.signWeight else 0), Flags.none)
  else roundF f mode (decide (x.m < 0)) x.m.natAbs x.e false

/-- RND_FMT of the nonzero rational ±num ÷ den × 2^e. -/
def roundRat (f : FFmt) (mode : RMode) (neg : Bool) (num den : Nat) (e : Int) : Nat × Flags :=
  let k := bitLen den + f.fbits + 8
  roundF f mode neg (num * 2 ^ k / den) (e - (k : Int)) (num * 2 ^ k % den != 0)

/-- RND_FMT of a floating value: an infinity unchanged, a NaN the canonical one with IV when it signals (R208, R317). -/
def convertF (dst : FFmt) (mode : RMode) : FVal → Nat × Flags
  | .nan s => (dst.nan, Flags.ivIf s)
  | .inf n => ((if n then dst.signWeight else 0) + dst.infCode, Flags.none)
  | .fin n m e => if m = 0 then ((if n then dst.signWeight else 0), Flags.none) else roundF dst mode n m e false

/-- Round an exact dyadic number to an integer, and say whether it changed (R208, R209). -/
def roundInt (mode : RMode) (x : Dyadic) : Int × Bool :=
  let neg := decide (x.m < 0)
  let (u, inexact) := roundAt mode neg x.m.natAbs x.e 0 false
  (if neg then -(u : Int) else u, inexact)

/-- RND_INT into the integers from `lo` to `hi` (R209). -/
def toInteger (lo hi : Int) (mode : RMode) : FVal → Int × Flags
  | .nan _ => (0, Flags.invalid)
  | .inf n => ((if n then lo else hi), Flags.invalid)
  | .fin n m e =>
    let (r, inexact) := roundInt mode (FVal.fin n m e).dy
    if r < lo then (lo, Flags.invalid)
    else if hi < r then (hi, Flags.invalid)
    else (r, if inexact then Flags.inexact else Flags.none)

/-- The product of two floating values for R307: exact, with the xor of the signs; the two NaN-making cases are the caller's. -/
def mulF : FVal → FVal → FVal
  | .fin a m e, .fin b n d => .fin (a != b) (m * n) (e + d)
  | x, y => if x.isNan || y.isNan then .nan false else .inf (x.sign != y.sign)

/-- Is this product 0 × infinity? -/
def zeroTimesInf (x y : FVal) : Bool := (x.isZero && y.isInf) || (x.isInf && y.isZero)

/-- The sum of two terms that are not NaNs, under R307 and R207: opposite infinities give the canonical NaN with IV, an exact
zero is −0 only when both terms are −0. -/
def sumF (f : FFmt) : FVal → FVal → Nat × Flags
  | .inf a, .inf b => if a = b then ((if a then f.signWeight else 0) + f.infCode, Flags.none) else (f.nan, Flags.invalid)
  | .inf a, _ => ((if a then f.signWeight else 0) + f.infCode, Flags.none)
  | _, .inf b => ((if b then f.signWeight else 0) + f.infCode, Flags.none)
  | x, y => roundDy f .rne (x.dy.add y.dy) (x.isZero && y.isZero && x.sign && y.sign)

/-- x + y (R306, R307). -/
def addF (f : FFmt) (x y : FVal) : Nat × Flags :=
  if x.isSnan || y.isSnan then (f.nan, Flags.invalid)
  else if x.isNan || y.isNan then (f.nan, Flags.none)
  else sumF f x y

/-- x − y (R306, R307). -/
def subF (f : FFmt) (x y : FVal) : Nat × Flags := addF f x y.negate

/-- x × y (R306, R307). -/
def timesF (f : FFmt) (x y : FVal) : Nat × Flags :=
  if x.isSnan || y.isSnan then (f.nan, Flags.invalid)
  else if zeroTimesInf x y then (f.nan, Flags.invalid)
  else if x.isNan || y.isNan then (f.nan, Flags.none)
  else convertF f .rne (mulF x y)

/-- x × y + z with one rounding (R306, R307: 0 × infinity is invalid whatever the addend, a quiet NaN included). -/
def fmaF (f : FFmt) (x y z : FVal) : Nat × Flags :=
  if x.isSnan || y.isSnan || z.isSnan then (f.nan, Flags.invalid)
  else if zeroTimesInf x y then (f.nan, Flags.invalid)
  else if x.isNan || y.isNan || z.isNan then (f.nan, Flags.none)
  else sumF f (mulF x y) z

/-- The exact sum of a list of terms that are neither NaN nor infinity. -/
def exactSum (xs : List FVal) : Dyadic := xs.foldl (fun acc x => acc.add x.dy) Dyadic.zero

/-- The sum s of a block's products: NaN for a NaN product or opposite infinities, an infinity, or the exact sum, whose zero
is −0 only when every product is −0 (R219). -/
def blockSum (ps : List FVal) : FVal :=
  if ps.any FVal.isNan then .nan false
  else
    let pos := ps.any fun p => p.isInf && !p.sign
    let neg := ps.any fun p => p.isInf && p.sign
    if pos && neg then .nan false
    else if pos then .inf false
    else if neg then .inf true
    else
      let s := exactSum ps
      if s.m = 0 then .fin (ps.all fun p => p.isZero && p.sign) 0 0
      else .fin (decide (s.m < 0)) s.m.natAbs s.e

/-- A product inside a block sum: a NaN operand or 0 × infinity gives a NaN (R219). -/
def blockProduct (x y : FVal) : FVal :=
  if x.isNan || y.isNan || zeroTimesInf x y then .nan false else mulF x y

/-- RNE_F32(z + s), with no flag read from it by the matrix arrays (R219). -/
def accumulate (z : Word) (s : FVal) : Word := BitVec.ofNat 32 (addF f32 (decodeF f32 z.toNat) s).1

/-- `fdot2.bf16`: RNE_F32(d + a0 × b0 + a1 × b1) (R221, R310). IV for a signalling NaN input or a NaN formed from inputs that
are not NaNs. DEDUCED, unsafe (log 15). -/
def dot2 (d a b : Word) : Word × Flags :=
  let z := decodeF f32 d.toNat
  let a0 := decodeF bf16 (a.toNat % 65536)
  let a1 := decodeF bf16 (a.toNat / 65536)
  let b0 := decodeF bf16 (b.toNat % 65536)
  let b1 := decodeF bf16 (b.toNat / 65536)
  let s := blockSum [blockProduct a0 b0, blockProduct a1 b1]
  let formed := zeroTimesInf a0 b0 || zeroTimesInf a1 b1 || (!([a0, a1, b0, b1].any FVal.isNan) && s.isNan)
  if [z, a0, a1, b0, b1].any FVal.isSnan then (0x7FC00000#32, Flags.invalid)
  else if z.isNan || s.isNan then (0x7FC00000#32, Flags.ivIf formed)
  else
    let (r, f) := addF f32 z s
    (BitVec.ofNat 32 r, f)

/-- va × 2^n rounded once (R311). -/
def scaleF (x : FVal) (bits : Word) (n : Int) : Word × Flags :=
  match x with
  | .nan s => (0x7FC00000#32, Flags.ivIf s)
  | .inf _ => (bits, Flags.none)
  | .fin neg m e =>
    if m = 0 then (bits, Flags.none)
    else
      let (r, f) := roundF f32 .rne neg m (e + n) false
      (BitVec.ofNat 32 r, f)

/-- Is a below b for minimum and maximum, with −0 below +0 (R210)? -/
def belowF : FVal → FVal → Bool
  | .inf a, .inf b => a && !b
  | .inf a, _ => a
  | _, .inf b => !b
  | x, y => x.dy.lt y.dy || (x.isZero && y.isZero && x.sign && !y.sign)

/-- minimumNumber or maximumNumber of two f32 words (R210, R312). -/
def pickF (wantMax : Bool) (a b : Word) : Word × Flags :=
  let x := decodeF f32 a.toNat
  let y := decodeF f32 b.toNat
  let fl := Flags.ivIf (x.isSnan || y.isSnan)
  if x.isNan && y.isNan then (0x7FC00000#32, fl)
  else if x.isNan then (b, fl)
  else if y.isNan then (a, fl)
  else if belowF x y == wantMax then (b, fl)
  else (a, fl)

/-- Ordered less. -/
def ltF : FVal → FVal → Bool
  | .nan _, _ => false
  | _, .nan _ => false
  | .inf a, .inf b => a && !b
  | .inf a, _ => a
  | _, .inf b => !b
  | x, y => x.dy.lt y.dy

/-- Equal, with −0 equal to +0 (R313). -/
def eqF : FVal → FVal → Bool
  | .nan _, _ => false
  | _, .nan _ => false
  | .inf a, .inf b => a == b
  | .inf _, _ => false
  | _, .inf _ => false
  | x, y => x.dy.eq y.dy

/-- The one-hot class word of `fclass` (R314). -/
def classF (v : Word) : Word :=
  match decodeF f32 v.toNat with
  | .nan true => 0x100#32
  | .nan false => 0x200#32
  | .inf n => if n then 0x001#32 else 0x080#32
  | .fin n m e =>
    if m = 0 then (if n then 0x008#32 else 0x010#32)
    else if e = f32.qmin && m < 2 ^ 23 then (if n then 0x004#32 else 0x020#32)
    else if n then 0x002#32 else 0x040#32

/-- `frnd`: the integral f32 value under a mode (R315). -/
def integralF (mode : RMode) (v : Word) : Word × Flags :=
  match decodeF f32 v.toNat with
  | .nan s => (0x7FC00000#32, Flags.ivIf s)
  | .inf _ => (v, Flags.none)
  | .fin n m e =>
    if 0 ≤ e then (v, Flags.none)
    else
      let (r, inexact) := roundAt mode n m e 0 false
      let w := if r = 0 then (if n then 0x80000000 else 0) else (roundF f32 .rne n r 0 false).1
      (BitVec.ofNat 32 w, if inexact then Flags.inexact else Flags.none)

/-- A tapered format's number of magnitude bits: 7 for t8, 5 for t6 (R213). -/
def t8Bits : Nat := 7
def t6Bits : Nat := 5

/-- The length of the run of bits equal to `b` that starts at bit `i - 1` and goes down. -/
def runLength (b : Bool) (v : Nat) : Nat → Nat
  | 0 => 0
  | i + 1 => if v.testBit i == b then 1 + runLength b v i else 0

/-- The value of a nonzero magnitude code of an n-bit field, as (significand, exponent): regime, exponent bit, fraction
(R213). -/
def taperValue (n c : Nat) : Nat × Int :=
  let top := c.testBit (n - 1)
  let m := runLength top c n
  let k : Int := if top then (m : Int) - 1 else -(m : Int)
  let rest := n - m - 1
  let e : Int := if 0 < rest ∧ c.testBit (rest - 1) then 1 else 0
  let r := rest - 1
  (2 ^ r + c % 2 ^ r, 2 * k + e - (r : Int))

/-- Read a tapered code: zero, NaR as a quiet NaN (R216), or its exact value. -/
def decodeT (n v : Nat) : FVal :=
  let neg := v.testBit n
  let c := v % 2 ^ n
  if c = 0 then (if neg then .nan false else .fin false 0 0)
  else
    let (m, e) := taperValue n c
    .fin neg m e

/-- The dyadic value of a magnitude code; code 0 is zero. -/
def taperDy (n c : Nat) : Dyadic :=
  if c = 0 then Dyadic.zero else let (m, e) := taperValue n c; ⟨(m : Int), e⟩

/-- The greatest code not above `a`, searched downward from `c`. -/
def taperBelow (n : Nat) (a : Dyadic) : Nat → Nat
  | 0 => 0
  | c + 1 => if (taperDy n (c + 1)).le a then c + 1 else taperBelow n a c

/-- RND_TAPER(x, fmt) for a field of n magnitude bits (R215). -/
def roundT (n : Nat) : FVal → Nat × Flags
  | .nan _ => (2 ^ n, Flags.invalid)
  | .inf _ => (2 ^ n, Flags.invalid)
  | .fin neg m e =>
    if m = 0 then (0, Flags.none)
    else
      let a : Dyadic := ⟨(m : Int), e⟩
      let maxc := 2 ^ n - 1
      let c :=
        if (taperDy n maxc).le a then maxc
        else if a.le (taperDy n 1) then 1
        else
          let c := taperBelow n a maxc
          let tie := taperDy (n + 1) (2 * c + 1)
          if tie.lt a || (tie.eq a && c % 2 == 1) then c + 1 else c
      ((if neg then 2 ^ n else 0) + c,
        ⟨false, false, (taperDy n maxc).lt a, a.lt (taperDy n 1), !(taperDy n c).eq a⟩)

end Sys2Proof
end

