-- ==== Sys2Proof/Machine/Sparse.lean ====
section
/-! DEFINITION. Sparse tables: a list of (key, value) pairs in one canonical form, with a value that every unlisted key reads
as. Memory, register files and the device's tables are held so. -/
namespace Sys2Proof

/-- A sparse table: keys strictly rising, no entry equal to the value an unlisted key reads as. -/
abbrev Sparse (α : Type) := List (Nat × α)

namespace Table

/-- The value at key `k`; `d` is what an unlisted key reads as. -/
def get {α : Type} (d : α) : Sparse α → Nat → α
  | [], _ => d
  | (j, v) :: m, k => if j = k then v else get d m k

/-- The entries of a run of values from key `k` upward: those that an unlisted key does not read as. -/
def run {α : Type} [DecidableEq α] (d : α) (k : Nat) : List α → Sparse α
  | [] => []
  | v :: vs => if v = d then run d (k + 1) vs else (k, v) :: run d (k + 1) vs

/-- Write the listed values from key `k` upward, in canonical form. -/
def setList {α : Type} [DecidableEq α] (d : α) (m : Sparse α) (k : Nat) (vs : List α) : Sparse α :=
  (m.filter fun e => e.1 < k) ++ run d k vs ++ m.filter fun e => k + vs.length ≤ e.1

/-- The table with `v` at key `k`, in canonical form. -/
def set {α : Type} [DecidableEq α] (d : α) (m : Sparse α) (k : Nat) (v : α) : Sparse α := setList d m k [v]

/-- Every key of the table is `b` or above, the keys rise strictly, and no value is `d`. -/
def sortedFrom {α : Type} [DecidableEq α] (d : α) : Nat → Sparse α → Bool
  | _, [] => true
  | b, (j, v) :: m => decide (b ≤ j) && decide (v ≠ d) && sortedFrom d (j + 1) m

/-- The canonical form. -/
def wf {α : Type} [DecidableEq α] (d : α) (m : Sparse α) : Bool := sortedFrom d 0 m

/-- Read `n` values from key `k` upward. -/
def getList {α : Type} (d : α) (m : Sparse α) (k n : Nat) : List α :=
  let near := m.filter fun e => k ≤ e.1 && e.1 < k + n
  (List.range n).map fun i => get d near (k + i)

/-- The table without the keys from `lo` to `lo + n - 1`. -/
def clear {α : Type} (m : Sparse α) (lo n : Nat) : Sparse α :=
  m.filter fun e => e.1 < lo || lo + n ≤ e.1

end Table

/-- The little-endian number that a list of bytes spells, lowest address first (R4). -/
def natOfBytes : List Byte → Nat
  | [] => 0
  | b :: bs => b.toNat + 256 * natOfBytes bs

/-- The `n` bytes of a number, lowest address first (R4). -/
def bytesOfNat : Nat → Nat → List Byte
  | 0, _ => []
  | n + 1, v => BitVec.ofNat 8 v :: bytesOfNat n (v / 256)

/-- Bits [lo + n - 1 : lo] of a number. -/
def natBits (v lo n : Nat) : Nat := v / 2 ^ lo % 2 ^ n

end Sys2Proof
end

