-- ==== Sys2Proof/Machine/State.lean ====
section
/-! DEFINITION. The state of the device: every piece the spec names, as plain data, and the state after reset. -/
namespace Sys2Proof.Machine

/-- Why the machine stops. -/
inductive Fault where
  /-- A word's meaning was asked for with no running train on the issue stage. `step` never does so: it brings the issuing train
  there first. Raised by every word's meaning; safe. -/
  | noTrain
  deriving DecidableEq, Repr

/-- Why the model gives no meaning. -/
inductive Refusal where
  /-- An instruction not modelled yet, named as the spec's table names it. Raised by an arm of `exec` only; safe. -/
  | notModelled (mnemonic : String)
  deriving DecidableEq, Repr

/-- A trap record attached to a split (R181). -/
structure Rec where
  cause  : BitVec 8
  lanes  : Mask
  info   : Dword
  pc     : Dword
  region : Dword
  count  : Word
  age    : Nat
  late   : Bool
  deriving DecidableEq, Repr

/-- The privileged bank: v120..v127 by (register, lane), s56..s63, p120..p127 (R184). -/
structure Bank where
  v : Sparse Word
  s : Sparse Dword
  p : Sparse Mask
  deriving DecidableEq, Repr

/-- The registers of a train (R135, R148, R184): lane registers by register × 64 + lane, uniform registers, predicates as lane
masks, the privileged bank, the guard latches and FPFLAGS. -/
structure Regs where
  v       : Sparse Word
  s       : Sparse Dword
  p       : Sparse Mask
  bank    : Bank
  g0      : Fld
  g1      : Fld
  fpflags : Word
  deriving DecidableEq, Repr

/-- Where a word sends its split's lanes (R151 to R157, R188, R327). -/
inductive Leave where
  /-- Every lane goes on at the next word. -/
  | on
  /-- These lanes go to these addresses; the others go on. -/
  | go (targets : List (Dword × Mask))
  /-- `fork` with join address L. -/
  | fork (l : Dword)
  /-- `join`. -/
  | join
  /-- `exit` of these lanes. -/
  | exits (lanes : Mask)
  /-- `eret` or, when true, `eret.replay`. -/
  | eret (replay : Bool)
  /-- The split stays at its word, whose second half waits (R169, R175, R364). -/
  | stay
  deriving DecidableEq, Repr

/-- Why a word or group does not issue: a `wait`, barrier or limit not met; a coupling word whose train is not whole (R159); a
parking failure at a granule (R66); a suspension by `bar.try` or, with its code, by `svc` (R175, R364). -/
inductive Hold where
  | wait
  | couple
  | park (granule : Nat)
  | asleep (svc : Option Nat)
  deriving DecidableEq, Repr

/-- A chained group under way (R146, R267): its first word's address, the slot of the word that has its turn, the address after the group, the
registers, the private space and its poisoned words as they stood before it, where the split goes, whether a word ended the region or is `idem` (R189), whether a word is `yield`, whether a word holds the
group, the flags its words raise and what a `wrst` of it writes to FPFLAGS (R320); `probe` says that only the checks of steps 1 to 3 are
made, since a coupling word of it finds the train not whole (R159). -/
structure Group where
  first : Dword
  slot  : Nat
  next  : Dword
  was   : Regs
  priv  : Sparse Byte
  bad   : List Nat
  flags : Word
  fpset : Option Word
  leave : Leave
  ends  : Bool
  idem  : Bool
  turn  : Bool
  held  : Option Hold
  probe : Bool
  deriving DecidableEq, Repr

/-- What is left of a chained group of which some words have had their effect: the slots of the others, and the group as those words left it, with
the registers and the private space that every word of it reads (R146, R267, R338). -/
structure Half where
  left  : List Nat
  group : Group
  deriving DecidableEq, Repr

/-- One split in a live slot (R149), with the wait half of `bar.sync` as the phase it arrived at (R187), what is left of a group
that waits for the accesses of its own first words (R267, R338), its suspension by `bar.try` or hold by `svc` (R175, R364), the code that its `svc` asked and the answer that
has come, the granule it is parked for (R66), and its attached records (R181). A slot with no lanes is empty. -/
structure Split where
  pc     : Dword
  mask   : Mask
  region : Dword
  count  : Word
  frame  : Nat
  held   : Bool
  sync   : Option Word
  half   : Option Half
  asleep : Bool
  asked  : Option Nat
  answer : Option Dword
  parked : Option Nat
  recs   : List Rec
  deriving DecidableEq, Repr

/-- A split that has just come to its PC and waits for nothing. -/
def Split.fresh (pc : Dword) (mask : Mask) (region : Dword) (count : Word) (frame : Nat) : Split :=
  ⟨pc, mask, region, count, frame, false, none, none, false, none, none, none, []⟩

/-- The trap registers (R186); `mask` is TRAPMASK.MASK. -/
structure TrapRegs where
  cause  : Dword
  lanes  : Mask
  region : Dword
  pc     : Dword
  info   : Dword
  mask   : Bool
  deriving DecidableEq, Repr

/-- What the core keeps for a siding entry beside its bytes in memory (R152): its index, a split entry's attached records (R181), and for a
frame the largest COUNT of the splits that have arrived (R149) and the address after their `join` (R156). -/
structure Side where
  index : Nat
  recs  : List Rec
  count : Word
  next  : Option Dword
  deriving DecidableEq, Repr

/-- FROZEN of a trap entry (R183): the suspended slots with their records, siding depth, current slot, latches, flags, mode and
MASK (a siding entry's records stay beside it); for a NESTED entry `trap` and `bank` hold the interrupted handler's trap registers and bank,
`entry` those registers as its own entry wrote them, `saved` whether `csave` had completed in it, and `resume` and `restored` whether it was a
resume entry and `crest` had completed. -/
structure Frozen where
  slot0    : Split
  slot1    : Split
  depth    : Nat
  cur      : Bool
  g0       : Fld
  g1       : Fld
  fpflags  : Word
  priv     : Bool
  mask     : Bool
  trap     : TrapRegs
  entry    : TrapRegs
  bank     : Bank
  saved    : Bool
  resume   : Bool
  restored : Bool
  deriving DecidableEq, Repr

/-- A set of barriers' name: level 0 team, 1 cluster, 2 grid; the grid's number; the owning team's or cluster's index (0 for
the grid); the barrier number (R165). -/
structure BarKey where
  level : Nat
  grid  : Nat
  owner : Nat
  num   : Nat
  deriving DecidableEq, Repr

/-- One hardware barrier (R165). SEEN and LEFT hold member indexes (R166); `failed` the phases that completed with their error flag set
(R170, R174); PENDING is 64 bits in two's complement. -/
structure Bar where
  key     : BarKey
  count   : Nat
  expect  : Nat
  next    : Nat
  arrived : Nat
  seen    : List Nat
  left    : List Nat
  phase   : Word
  pending : Int
  err     : Bool
  lastErr : Bool
  failed  : List Word
  deriving DecidableEq, Repr

/-- A place an engine names: space 1 the scratchpad of the grid's team with index `team`; 3 global, by virtual address until the
engine has translated it and then by unified address; 6 the team's operand buffer space; 7 the remote window numbered `team`, by
offset; 9 nowhere, for an element of a `.put` whose bytes a later one overwrites (R57, R63, R358, R360). -/
structure Loc where
  space : Nat
  team  : Nat
  addr  : Nat
  deriving DecidableEq, Repr

/-- Where an engine's moved bytes come from: a place, the bytes themselves (a tile row, R233), or zeros (R358, R359). -/
inductive Source where
  | at (l : Loc)
  | bytes (b : List Byte)
  | zeros
  deriving DecidableEq, Repr

/-- One element an engine moves: `dst` is none for a skipped element (R358). -/
structure Move where
  src : Source
  dst : Option Loc
  len : Nat
  deriving DecidableEq, Repr

/-- One indivisible unit of an engine operation (R101): its moves, its bytes, whether it has been settled, the transfer tag once it has been
sent to a peer (R16), and whether its bytes carried a poison mark (R76). -/
structure EUnit where
  moves   : List Move
  bytes   : Nat
  settled : Bool
  remote  : Bool
  tag     : Option Word
  marked  : Bool
  deriving DecidableEq, Repr

/-- An accumulated K block's value for one tile element (R219, R220). -/
inductive BlockVal where
  | real (v : FVal)
  | whole (v : Int)
  deriving DecidableEq, Repr

/-- A matrix operation in the array (R234): `mma` holds the block sums of its rows, keyed by row × 32 + column; `zclr` clears
its rows. `poison` is the lowest marked unit it read (R230); `prv` says that a handler issued it; `wild` that it came from an image
that no `zsave` wrote, so that it leaves free values (R238); `divided` that a division has since taken apart the lanes that issued it (R181). -/
structure MatOp where
  id     : Nat
  tile   : Nat
  rows   : Mask
  clear  : Bool
  sums   : List (Nat × BlockVal)
  ob     : Option Nat
  poison : Option Nat
  split  : Mask
  pc     : Dword
  region : Dword
  count  : Word
  age    : Nat
  prv    : Bool
  wild   : Bool
  divided : Bool
  deriving DecidableEq, Repr

/-- One lane's part of a counted access: the lane, its address as named and as translated at issue (R80), the bytes a store writes or
the operands of an atomic, the remote window it lies in, the tag of its request to a peer, and whether it has been performed. -/
structure LaneAcc where
  lane : Nat
  va   : Nat
  ua   : Nat
  x    : Nat
  y    : Nat
  win  : Option Nat
  tag  : Option Word
  done : Bool
  deriving DecidableEq, Repr

/-- What one lane of `oreq` waits for (R92): a node of an object, evict or refine, the generation that its walk observed, and the
outcome once known. -/
structure ObjWait where
  lane    : Nat
  handle  : Nat
  node    : Nat
  evict   : Bool
  gen     : Nat
  outcome : Option (Nat × Nat)
  deriving DecidableEq, Repr

/-- What a pending operation does (R111, R179). -/
inductive Work where
  /-- `ldg`: size in bytes, sign extension, first register. -/
  | load (size : Nat) (signed : Bool) (d : Fld) (acc : List LaneAcc)
  /-- `lds`, `ldc`: size in bytes, sign extension, first register; the places are those of a scratchpad store. Uncounted, and interlocked
  (R147). -/
  | localLoad (size : Nat) (signed : Bool) (d : Fld) (acc : List LaneAcc)
  /-- `stg`, `sts`, `stc`: the space (1 a team's scratchpad, with `ua` the team's index × 2^32 + offset; 3 global) and the size in
  bytes. -/
  | store (space size : Nat) (acc : List LaneAcc)
  /-- `atom`, `acas`, `red`: the space, as for a store, operation, and whether old values are returned to `d`. -/
  | atomic (space : Nat) (wide cas ret : Bool) (aop : Nat) (d : Fld) (acc : List LaneAcc)
  /-- `ldo`: each lane's four result words. -/
  | object (d : Fld) (results : List (Nat × List Word))
  /-- `oreq`: each lane's request. -/
  | request (d : Fld) (waits : List ObjWait)
  /-- `tcopy`, `tgath`, `tscat`, `obld`, `zst`: units, the barrier named, whether its global pages have been translated (R360), and
  the reservation an `obld` fills. -/
  | engine (units : List EUnit) (bar : Option BarKey) (translated : Bool) (ob : Option Nat)
  /-- `tex`: the texels' format, and each lane with the texels it reads as (address, translated address, weight of 65,536). -/
  | texture (format : Nat) (d : Fld) (lanes : List (Nat × List (Nat × Nat × Nat)))
  /-- The poisoned reply of an uncounted load, which only raises its record (R76, R349, R299). -/
  | reply
  /-- The ordering effect of a release that is guarded off in every lane (R107). -/
  | order
  /-- `rayq`: the ray set record's address and each lane's ray with its refusal REASON once decided (15 accepted). -/
  | rays (set : Nat) (lanes : List (Nat × Nat × Option Nat))
  deriving DecidableEq, Repr

/-- A counted operation that is issued and not yet retired (R111); `counter` 16 stands for none. `deps` are the older operations it must follow
(R104 to R110); `blocks` says that later accesses of its split wait for it (acquire, R107, R352). `done` is set when it has
completed and waits for older ones; `prv` that it was issued in privileged mode, whose register names it keeps (R184); `err` when a unit was settled with an error mark; `stop` is the late record of an
operation stopped whole (R360); `acq` and `rel` are the scopes of its acquire and release ordering and `fence` that of the widest fence behind
it, 0 for none (R103, R107); `fenced` says that a later engine operation follows it, because a fence stands behind it or it is an acquire
(R103, R108 note 1, R109); `parked` that it waits, with no access in flight, for its granule to get a frame, and is to be issued again (R66,
R80); `pulled` that an access of it needed a pull (R72). `after` lists older operations that it may be performed before, each with the scope
in which nobody may see that; `owed` is the widest such scope in which this one has been overtaken, 0 for none: until it is over, no other
train of the scope observes anything (R103). `reached` are the lanes that are known to have joined those that issued it, beside
`split` (R104, R120), and `divided` says that a division has since taken them apart (R181). -/
structure Op where
  id      : Nat
  work    : Work
  counter : Nat
  lanes   : Mask
  split   : Mask
  pc      : Dword
  region  : Dword
  count   : Word
  age     : Nat
  epoch   : Nat
  deps    : List Nat
  blocks  : Bool
  isStore : Bool
  prv     : Bool
  done    : Bool
  err     : Bool
  stop    : Option Rec
  acq     : Nat
  rel     : Nat
  fence   : Nat
  fenced  : Bool
  parked  : Bool
  pulled  : Bool
  after   : List (Nat × Nat)
  owed    : Nat
  reached : Mask
  divided : Bool
  deriving DecidableEq, Repr

/-- Life of a train: running on a core, vacated with its context saved, ending (its lanes have exited, its accesses not all
performed, R116), or ended. -/
inductive Life where
  | running | vacated | ending | ended
  deriving DecidableEq, Repr

/-- The divergence state (R149, R150): the live slots, the current slot (true: slot 1) and the instructions it has issued in this
turn, QUANTUM and its value as this turn began (R340), the exited lanes, the siding, whose entries' bytes stand in lane 0's private space
(R152), and the joins that pending operations have met, each as the number of operations issued before it, the lanes it joined, and those
that had exited (R104). -/
structure Div where
  slot0   : Split
  slot1   : Split
  cur     : Bool
  used    : Nat
  quantum : Word
  limit   : Word
  exited  : Mask
  depth   : Nat
  siding  : List Side
  joins   : List (Nat × Mask × Mask)
  deriving DecidableEq, Repr

/-- The context that `csave` keeps for `crest` (R196), in the model's own layout: FROZEN with the siding's records, the user's
registers of the banked numbers, the counters' error marks, the pins, QUANTUM, the trap registers and the matrix generation. -/
structure Context where
  frozen  : List Frozen
  siding  : List Side
  v       : Sparse Word
  s       : Sparse Dword
  p       : Sparse Mask
  err     : BitVec 16
  pins    : List (Nat × Nat)
  quantum : Word
  grace   : Word
  trap    : TrapRegs
  gen     : Word
  deriving DecidableEq, Repr

/-- Who a train is: its number, partition, grid, team, TRAIN, role and the budgets of its role in registers (R134, R137). -/
structure Ident where
  id      : Nat
  part    : Nat
  grid    : Nat
  team    : Nat
  num     : Nat
  role    : Nat
  width   : Nat
  regs    : Nat
  uregs   : Nat
  preds   : Nat
  ztiles  : Nat
  handler : Dword
  deriving DecidableEq, Repr

/-- An image that a `zsave` of the train wrote (R238): its bytes and the operations that it stands for. -/
structure IceImage where
  bytes : List Byte
  ops   : List MatOp
  deriving DecidableEq, Repr

/-- The trap state of a train (R181 to R199): mode, trap registers, PREEMPTGRACE, the frozen states of entries, a pending
pre-emption's REASON, the GRACE that counts against a held one, whether `csave`, `crest` and `zsave` have completed in this entry,
whether this is a resume entry, the MATRIX and FROZEN bits of the pre-emption entry (R198), the context that `csave` keeps, the
stores of the store-buffer image (R195), the step at which this entry's first `csave` completed (R344), the images that its `zsave`s
wrote, and the siding depth of the user's part in a resume entry before `crest` (R184, R198). `entry` are the trap registers as this entry wrote
them (R183, R199). -/
structure TrapSt where
  priv     : Bool
  now      : TrapRegs
  grace    : Word
  frozen   : List Frozen
  preempt  : Option Nat
  graceRun : Option Word
  saved    : Bool
  resume   : Bool
  restored : Bool
  entry    : TrapRegs
  zsaved   : Bool
  info     : Dword
  context  : Option Context
  stores   : List Op
  savedAt  : Nat
  images   : List IceImage
  floor    : Nat
  deriving DecidableEq, Repr

/-- The counted operations of a train (R111, R179): pending ones oldest first, the next identifier, the counters' error marks, and
the groups issued so far (R181 age). -/
structure Counted where
  ops    : List Op
  next   : Nat
  err    : BitVec 16
  issued : Nat
  deriving DecidableEq, Repr

/-- The tiles of a train by tile × 2048 + row × 32 + column, its operations in the array and frozen, and a pending 0x18 with its
REASON (R203, R226, R234). -/
structure Tiles where
  z    : Sparse Word
  mat  : List MatOp
  ice  : List MatOp
  lost : Option Nat
  deriving DecidableEq, Repr

/-- What a train waits for beside its counters: whether a `bar.try` suspension has run out (R175). -/
structure Waits where
  ranOut : Bool
  deriving DecidableEq, Repr

/-- A yard train (R254, R255): kind 0 none, 1 any-hit, 2 hit, 3 miss; each lane's candidate (ray index, T, PRIM, BARY); and each
lane's verdict. -/
structure YardJob where
  kind     : Nat
  cands    : List (Nat × List Word)
  verdicts : List (Nat × Nat)
  deriving DecidableEq, Repr

/-- One train (R2, R135, R148, R149), on a core, in a quarter and in one of its 32 train slots (R134, R138). -/
structure Train where
  i       : Ident
  life    : Life
  core    : Nat
  quarter : Nat
  seat    : Nat
  r       : Regs
  d       : Div
  x       : TrapSt
  c       : Counted
  m       : Tiles
  w       : Waits
  y       : YardJob
  group   : Option Group
  /-- Pins, as (handle, node) pairs (R90). -/
  pins    : List (Nat × Nat)
  /-- Pins that the train holds in partitions which its grid has left, as (partition, handle, node) (R90, R200). -/
  kept    : List (Nat × Nat × Nat)
  /-- Private space by lane × 65536 + offset, and its poisoned 32-byte words. -/
  priv    : Sparse Byte
  privBad : List Nat
  deriving DecidableEq, Repr

/-- One role of a launch record (R122). -/
structure Role where
  trains : Nat
  regs   : Nat
  uregs  : Nat
  preds  : Nat
  deriving DecidableEq, Repr

/-- A launch record as the device copies it (R121, R122). Budgets are in registers. -/
structure LaunchRec where
  after    : List Nat
  gbar     : List Nat
  cbar     : List Nat
  tbar     : List Nat
  roles    : List Role
  obuf     : Nat
  scratch  : Nat
  ztiles   : Nat
  prio     : Nat
  clh      : Nat
  clw      : Nat
  trains   : Nat
  width    : Nat
  constLen : Nat
  gz       : Nat
  gy       : Nat
  gx       : Nat
  const    : Nat
  handler  : Nat
  entry    : Nat
  /-- The record's 1,280 bits as they were read (R121, R201). -/
  bits     : Nat
  deriving DecidableEq, Repr

/-- Life of a grid: waiting in its queue, started, or complete. -/
inductive GridLife where
  | queued | started | complete
  deriving DecidableEq, Repr

/-- One grid (R2, R124 to R127, R143, R258). `image` is the image the launch named; `turn` numbers the partition's grids in the order in
which they started, 0 before; `dealt` counts clusters dealt in distribution
order; `back` holds the vacated clusters' indexes that stand ahead of the undealt ones (R142). -/
structure Grid where
  seq     : Nat
  part    : Nat
  queue   : Nat
  image   : Nat
  launch  : LaunchRec
  life    : GridLife
  turn    : Nat
  dealt   : Nat
  back    : List Nat
  error   : Bool
  failed  : Bool
  causes  : List (Nat × Nat × Nat × Dword × Dword)
  /-- The grid whose rays the yard launched this one for, and its batch (R258). -/
  parent  : Option Nat
  batch   : Nat
  /-- A resume has been accepted for it, and no team of it has been placed since (R201). -/
  resumed : Bool
  deriving DecidableEq, Repr

/-- An operand buffer reservation's definition (R228). -/
structure Resv where
  num     : Nat
  base    : Nat
  len     : Nat
  fmtA    : Nat
  fmtB    : Nat
  bl      : Nat
  permOn  : Bool
  klen    : Nat
  scaleA  : Nat
  scaleB  : Nat
  permOff : Nat
  imgLen  : Nat
  deriving DecidableEq, Repr

/-- Life of a team: placed on a core, vacated, or done. -/
inductive TeamLife where
  | placed | vacated | done
  deriving DecidableEq, Repr

/-- One team (R2, R128, R196, R227). `area` is the team area's address, 0 for none. -/
structure Team where
  grid      : Nat
  idx       : Nat
  life      : TeamLife
  core      : Nat
  rank      : Nat
  cluster   : Nat
  scratch   : Sparse Byte
  obuf      : Sparse Byte
  obBad     : List Nat
  resv      : List Resv
  matrixGen : Word
  area      : Nat
  /-- Tiles and reservations as the device saved them, with their MATRIXGEN (R195, R198, R203). -/
  savedGen  : Word
  stopped   : Bool
  /-- The granules that its trains' private pages hold (R59). -/
  frames    : List Nat
  /-- The granules that the service makes ready before a switched-out team is placed again (R192). -/
  awaits    : List Nat
  /-- The next-quarter pointer of its core as it was placed, from which its trains were dealt (R134). -/
  ptr       : Nat
  deriving DecidableEq, Repr

/-- A range of mapped pages of one size (R64, R65): rights bit 0 read, 1 write, 2 atomic; `area` marks a team area, which answers
`ldg` and `stg` in privileged mode alone (R196); `held` marks what the device itself placed (R56, R59). -/
structure Mapping where
  part     : Nat
  va       : Nat
  len      : Nat
  ua       : Nat
  page     : Nat
  rights   : Nat
  tolerant : Bool
  subst    : Nat
  pinned   : Bool
  area     : Bool
  held     : Bool
  deriving DecidableEq, Repr

/-- The tier states of a granule (R68). -/
inductive Tier where
  | fast | deep | promoting | demoting
  deriving DecidableEq, Repr

/-- A granule's tier record (R68, R70, R78): its HBM5 frame and its deep-tier location, where the state calls for them; `lines` holds the lines whose arrival bit is set while promoting, or those written
while demoting; `filling` the zero fill of a dormant granule under way. -/
structure Gran where
  part    : Nat
  tier    : Tier
  lines   : List Nat
  pulled  : List Nat
  dormant : Bool
  filling : Bool
  pinned  : Bool
  frame   : Option Nat
  loc     : Option Nat
  deriving DecidableEq, Repr

/-- What waits in quarantine: a unified range (kind 0), an HBM5 frame (1) or a deep location (2) of a partition, by its address or its
number, with its epoch (R81). -/
structure Quarantined where
  kind  : Nat
  part  : Nat
  ua    : Nat
  len   : Nat
  epoch : Nat
  deriving DecidableEq, Repr

/-- A partition (R30, R35, R251). `lastCore` is the core that last received a team (R130); `robin` the queue last served of each
priority (R127); `refine` the refinement queue of (handle, node), each with whether an `ldo` posted it or merged with it, `drops` its
counter (R89, R98). -/
structure Part where
  num      : Nat
  x        : Nat
  y        : Nat
  w        : Nat
  h        : Nat
  hbm      : Nat
  deep     : Nat
  windows  : Nat
  clients  : List Nat
  cats     : List Nat
  lastCore : Option Nat
  ageLimit : Word
  refine   : List (Nat × Nat × Bool)
  drops    : Nat
  robin    : List Nat
  deriving DecidableEq, Repr

/-- A loaded image (R50 to R56). `consts` are its constant blocks as (address, length), `templates` the addresses of its launch
record templates, `scenes` those of its scene descriptors; `tables` are the granules that hold its shape records, object entries, node
trees and residency tables (R59, R82); symbols are (name bytes, kind, value after placement). -/
structure Image where
  num       : Nat
  part      : Nat
  seq       : Nat
  text      : Nat
  textLen   : Nat
  consts    : List (Nat × Nat)
  data      : Nat
  dataLen   : Nat
  templates : List Nat
  symbols   : List (List Byte × Nat × Nat)
  scenes    : List Nat
  tables    : List Nat
  deriving DecidableEq, Repr

/-- A remote-window entry (R15). `uid` tells it from an entry that takes its number after it has been closed. -/
structure Window where
  uid    : Nat
  num    : Nat
  part   : Nat
  va     : Nat
  len    : Nat
  peer   : Nat
  peerWindow : Nat
  rights : Nat
  deriving DecidableEq, Repr

/-- A message this device has sent to a peer (R16): kind 0 write chunk, 1 read request, 2 read reply, 3 atomic request, 4 atomic
reply, 5 acknowledge with its status in `value`; the source endpoint that the sending port stamps on it (R19, R37), the peer's
endpoint and its window number. -/
structure PeerSent where
  kind   : Nat
  source : Nat
  peer   : Nat
  window : Nat
  tag    : Word
  offset : Nat
  length : Nat
  data   : List Byte
  value  : Dword
  aop    : Nat
  deriving DecidableEq, Repr

/-- A chunk or atomic of this device that awaits a peer: its transfer's tag and its offset (R16), the train, its operation, and the unit
or lane concerned. -/
structure Transfer where
  tag   : Word
  offset : Nat
  train : Nat
  op    : Nat
  unit  : Nat
  deriving DecidableEq, Repr

/-- An entry of the event table (R27, R28): the status once complete, and the lowest address a copy could not move (R366). -/
structure Event where
  seq    : Nat
  part   : Nat
  status : Option Nat
  addr   : Option Nat
  deriving DecidableEq, Repr

/-- A wait request not yet answered, with the endpoint that sent it (R28). -/
structure Waiting where
  reqid    : Word
  endpoint : Nat
  part     : Nat
  seq      : Nat
  deriving DecidableEq, Repr

/-- An accepted copy (R365, R366): its bytes by offset, given or read, the chunks not yet performed, and the lowest address of a word
that was not moved. -/
structure Copy where
  seq   : Nat
  part  : Nat
  reqid : Word
  endpoint : Nat
  out   : Bool
  addr  : Nat
  len   : Nat
  after : List Nat
  data  : Sparse Byte
  left  : List Nat
  bad   : Option Nat
  deriving DecidableEq, Repr

/-- A reply of the service to an endpoint (R26): its header's REQID, KIND, PART and STATUS, and its body, figures and then bytes. -/
structure Reply where
  reqid  : Word
  kind   : Nat
  part   : Nat
  endpoint : Nat
  status : Nat
  values : List Nat
  bytes  : List Byte
  deriving DecidableEq, Repr

/-- A node's residency state (R93). -/
inductive Residency where
  | absent | promoting | resident | evicting
  deriving DecidableEq, Repr

/-- A node of an object: its record (R83), its residency and its pin count (R90). -/
structure Node where
  payload  : Nat
  error    : Word
  granules : Nat
  children : List Nat
  state    : Residency
  pins     : Nat
  deriving DecidableEq, Repr

/-- An object directory entry (R82): present entries are VALID; NODES is the device address of the node-record array, and COUNT its
length; `granules` hold the tree and its residency table (R59). -/
structure Object where
  part       : Nat
  handle     : Nat
  nodesAt    : Nat
  granules   : List Nat
  nodes      : List Node
  gen        : Nat
  shortfalls : Nat
  hits       : Nat
  deriving DecidableEq, Repr

/-- An installed shape record (R356). -/
structure Shape where
  part    : Nat
  index   : Nat
  strides : List Nat
  extents : List Nat
  rights  : Nat
  rank    : Nat
  esz     : Nat
  base    : Nat
  deriving DecidableEq, Repr

/-- A train that the packer has put beside a lead (R139): its number, the PC at which its split stood, the words of its group still to come if
some have had their effect, whether it stood in the wait half of a `bar.sync`, and the cars that it was given. -/
structure Packed where
  id   : Nat
  pc   : Dword
  left : Option (List Nat)
  sync : Bool
  cars : Nat
  deriving DecidableEq, Repr

/-- A core's own figures: the next-quarter pointer (R134), whether it is withdrawn (R38), whether its array is hung (R202), its
reset count, its tier-stall counter, whether a train of it has been stalled by a pull or a parking failure since that was read, and the
trains whose last attempt to issue was held (R72), its issue and packing counters (R139), its load latency counter (R79), its cycle count
when last read (R144), the grid that it is held for (R141), the catalogue numbers in its sequencers' control stores (R35), and for each
quarter the rotating pointer over its 32 train slots (R138) and the trains packed into its present issue cycle that have not issued yet
(R139). -/
structure CoreSt where
  quarter : Nat
  failed  : Bool
  hung    : Bool
  resets  : Nat
  stall   : Nat
  pulls   : Bool
  blocked : List Nat
  issues  : Nat
  packed  : Nat
  latency : Nat
  cycles  : Dword
  held    : Option Nat
  stores  : List Nat
  pointers : List Nat
  packs   : List (List Packed)
  deriving DecidableEq, Repr

/-- A ray set as `rayq` read it (R247), with the partition and grid that submitted it. -/
structure RaySet where
  addr      : Nat
  part      : Nat
  scene     : Nat
  rays      : Nat
  routes    : Nat
  hitgroups : Nat
  count     : Nat
  hgcount   : Nat
  deriving DecidableEq, Repr

/-- Where a ray in flight stands (R250, R253, R257): not yet accepted, on a station's platform, in a call on a core, on the
any-hit platform with its candidates in batches, finished and in an open batch, or in a launched hit or miss batch. -/
inductive RayPlace where
  | offered | platform | inCall (core : Nat) | anyHit | finished | shading
  deriving DecidableEq, Repr

/-- A candidate of a ray as the last call left it: its slot, T, PRIM, BARY and the KIND of its face (R241, R252). -/
structure Cand where
  slot : Nat
  t    : Word
  prim : Word
  bary : Word
  kind : Nat
  deriving DecidableEq, Repr

/-- A ray in flight. `station` is its platform's station, `since` the number of calls started when it joined, `order` its place
in arrival order, `hitgroup` its hitgroup index, `templates` the any-hit, hit and miss templates of that entry, `cands` its candidates
that wait for verdicts and `verdicts` those received, by slot; `batches` the launched batches that it is in, whose end still concerns
it. -/
structure Ray where
  set       : RaySet
  grid      : Nat
  index     : Nat
  place     : RayPlace
  station   : Nat
  since     : Nat
  order     : Nat
  hitgroup  : Nat
  templates : List Nat
  cands     : List Cand
  verdicts  : List (Nat × Nat)
  batches   : List Nat
  deriving DecidableEq, Repr

/-- A batch of the yard (R253, R257): kind 1 any-hit, 2 hit, 3 miss; members are (ray index, candidate slot or KIND); `grid` once
launched. -/
structure Batch where
  num      : Nat
  kind     : Nat
  set      : RaySet
  owner    : Nat
  hitgroup : Nat
  template : Nat
  capacity : Nat
  members  : List (Nat × Nat)
  launched : Option Nat
  deriving DecidableEq, Repr

/-- A call of a station (R251, R252): the core whose unit runs it, the scene, the station and the rays taken. -/
structure Call where
  core    : Nat
  part    : Nat
  scene   : Nat
  station : Nat
  rays    : List (Nat × Nat)
  deriving DecidableEq, Repr

/-- The yard (R239 to R260): scene slots in use as (slot, partition, scene address), the platform space reserved for ray sets as
(partition, set address, granules), rays in flight, batches, calls, the count of calls started, and the counters that number arrivals
and batches. -/
structure Yard where
  scenes  : List (Nat × Nat × Nat)
  space   : List (Nat × Nat × List Nat)
  rays    : List Ray
  batches : List Batch
  calls   : List Call
  started : Nat
  order   : Nat
  batch   : Nat
  deriving DecidableEq, Repr

/-- The device's phases (R24, R31, R33, R34). -/
inductive Phase where
  | off | comingUp | accepting | redSignal | dark
  deriving DecidableEq, Repr

/-- Power (R21 to R23): increments above the floor in 0.5 W steps by client number (cores 0 to 255, stacks 256 to 263, ports 264
to 271, flash groups 272 to 275), the order of each client's last grant, the queue of requests, and reclaims not yet returned. -/
structure Power where
  grants    : Sparse Nat
  last      : Sparse Nat
  clock     : Nat
  waiting   : List (Nat × Nat)
  reclaimed : List Nat
  throttled : Bool
  deriving DecidableEq, Repr

/-- A vacated grid's context descriptor (R201): its address, its fields GRIDSEQ, RECORD, AREAS, VERSION, PART, STATE, BYTES, and its
saved teams with their areas' addresses (TEAMS and the array at AREAS); `granules` are what it holds of the partition's share. -/
structure Desc where
  addr     : Nat
  seq      : Nat
  record   : Nat
  areas    : Nat
  version  : Nat
  part     : Nat
  state    : Nat
  bytes    : Nat
  teams    : List (Nat × Nat)
  granules : List Nat
  deriving DecidableEq, Repr

/-- The bytes of global memory by unified address; an unlisted address reads 0. -/
abbrev Memory := List Host.Cell

/-- The canonical form of memory: addresses strictly rising, no byte listed that reads 0 anyway. DESIGN CHOICE, unsafe (log 1). -/
def Memory.wf (m : Memory) : Bool := Table.wf 0 m

/-- Global memory (R57 to R81): bytes by unified address, poisoned 32-byte words by index (R76) and uncorrectable ones not yet met
(R74), substitutions by page (R75), page mappings, the tier map, unified addresses to give out, the quarantine queue and the issue
epoch E (R80). -/
structure Store where
  mem      : Memory
  poison   : List Nat
  latent   : List Nat
  substs   : Sparse Nat
  maps     : List Mapping
  tier     : List (Nat × Gran)
  nextUa   : Nat
  freeUa   : List (Nat × Nat)
  quarantine : List Quarantined
  epoch    : Nat
  deriving DecidableEq, Repr

/-- What the resident service keeps (R25 to R30, R50 to R56, R365, R366): partitions, images, events and their sequence numbers,
waits, copies, the replies sent, context descriptors,
which partition gave out a sequence number, and the requests that wait for frames (R367) and messages of peers that wait at a home
slice (R69). -/
structure Desk where
  parts    : List Part
  images   : List Image
  nextImage : Nat
  events   : List Event
  nextSeq  : Nat
  issuedBy : List (Nat × Nat)
  waiting  : List Waiting
  copies   : List Copy
  replies  : List Reply
  descs    : List Desc
  pending  : List Act
  deriving DecidableEq, Repr

/-- What the distributor keeps (R121 to R144): grids, teams, barriers and the cores. -/
structure Dist where
  grids : List Grid
  teams : List Team
  bars  : List Bar
  cores : Sparse CoreSt
  deriving DecidableEq, Repr

/-- The object directory and the shape table (R82, R356). -/
structure Directory where
  objects : List Object
  shapes  : List Shape
  deriving DecidableEq, Repr

/-- An image in the catalogue (R35). -/
structure CatEntry where
  num     : Nat
  kind    : Nat
  version : Nat
  bytes   : List Byte
  deriving DecidableEq, Repr

/-- The package and its links (R9 to R38, R73, R79): phase, fault indicator, the findings of bring-up, the service core that runs the
red-signal responder (R34), the spares put in place of failed units as (step of R31, row or stack or port, unit), power, the catalogue,
remote windows, entries closed while something issued under them may still be sent (R29), messages sent and transfers awaited, the
transfers of peers in which a chunk has failed as (source, window, tag) (R17), port, channel and flash figures. -/
structure Package where
  phase       : Phase
  indicator   : Bool
  selfTest    : SelfTest
  responder   : Option Nat
  spares      : List (Nat × Nat × Nat)
  power       : Power
  catalogue   : List CatEntry
  windows     : List Window
  closed      : List Window
  nextWindow  : Nat
  sent        : List PeerSent
  transfers   : List Transfer
  nextTag     : Nat
  broken      : List (Nat × Nat × Word)
  dropped     : Sparse Nat
  spareBlocks : Nat
  flashFull   : Bool
  refreshes   : Sparse Nat
  /-- Errors that ECC corrected, by pseudo-channel (R38, R74). -/
  corrected   : Sparse Nat
  /-- Bytes that the shunter has written to the flash (R73). -/
  written     : Nat
  deriving DecidableEq, Repr

/-- The state of the device. `t` is the train on the issue stage, `rest` every other train. `agenda` is what moves next, in order:
inputs from outside stand there; when it is empty, which of the acts that may come next does is a free value of `tick`, the
number of steps taken. `subject` is what the event under way is about. -/
structure State where
  t         : Train
  rest      : List Train
  nextTrain : Nat
  agenda    : List Act
  subject   : Subject
  tick      : Nat
  m         : Store
  q         : Desk
  d         : Dist
  o         : Directory
  y         : Yard
  k         : Package
  deriving DecidableEq, Repr

/-- An empty split. -/
def Split.empty : Split := Split.fresh 0 0 0 0 0
/-- The trap registers at a train's start (R186). -/
def TrapRegs.reset : TrapRegs := ⟨0, 0, 0, 0, 0, false⟩
/-- An empty bank. -/
def Bank.empty : Bank := ⟨[], [], []⟩
/-- A core after bring-up (R134, R144). -/
def CoreSt.reset : CoreSt := ⟨0, false, false, 0, 0, false, [], 0, 0, 0, 0, none, [], [0, 0, 0, 0], [[], [], [], []]⟩

/-- Registers at a train's start (R135). -/
def Regs.reset : Regs := ⟨[], [], [], Bank.empty, 0, 0, 0⟩
/-- An empty divergence state with QUANTUM 16 (R150). -/
def Div.reset : Div := ⟨Split.empty, Split.empty, false, 0, 16, 16, 0, 0, [], []⟩
/-- The trap state at a train's start (R186). -/
def TrapSt.reset : TrapSt :=
  ⟨false, TrapRegs.reset, 65536, [], none, none, false, false, false, TrapRegs.reset, false, 0, none, [], 0, [], 0⟩

/-- A train with no lanes: what stands on the issue stage before any train is placed. -/
def Train.vacant : Train where
  i := ⟨0, 0, 0, 0, 0, 0, 8, 0, 0, 0, 0, 0⟩
  life := .ended
  core := 0
  quarter := 0
  seat := 0
  r := Regs.reset
  d := Div.reset
  x := TrapSt.reset
  c := ⟨[], 0, 0, 0⟩
  m := ⟨[], [], [], none⟩
  w := ⟨false⟩
  y := ⟨0, [], []⟩
  group := none
  pins := []
  kept := []
  priv := []
  privBad := []

/-- What self-test finds before any test has run. -/
def SelfTest.untested : SelfTest := ⟨false, [], false, [], [], [], [], false, []⟩

/-- The default catalogue images, which the service image carries: catalogue numbers 1, 2 and 3 (R35). -/
def defaultImages : List CatEntry := [1, 2, 3].map fun k => ⟨k, k, Config.defaultVersion k, Config.defaultImage k⟩

/-- The device right after power-on, before bring-up: no partition, no train, nothing in memory; sequence numbers start at 1
(R124), the epoch at 0 (R80). DESIGN CHOICE, unsafe (log 2). -/
def State.reset : State where
  t := Train.vacant
  rest := []
  nextTrain := 1
  agenda := []
  subject := ⟨0, 0, 0⟩
  tick := 0
  m := ⟨[], [], [], [], [], [], 0x10000, [], [], 0⟩
  q := ⟨[], [], 1, [], 1, [], [], [], [], [], []⟩
  d := ⟨[], [], [], []⟩
  o := ⟨[], []⟩
  y := ⟨[], [], [], [], [], 0, 0, 0⟩
  k := ⟨.comingUp, true, SelfTest.untested, none, [], ⟨[], [], 0, [], [], false⟩, defaultImages, [], [], 0, [], [], 0, [], [],
    0, false, [], [], 0⟩

end Sys2Proof.Machine
end

