-- ==== Sys2Proof/Machine/Regs.lean ====
section
/-! DEFINITION. Reading and writing a train's registers: lanes, budgets' names, the privileged bank and the guards (R43, R135,
R147, R184, R265). -/
namespace Sys2Proof.Machine

/-- The lanes of a mask, ascending. -/
def lanes (m : Mask) : List Nat := (List.range 64).filter fun i => m.getLsbD i

/-- The lowest lane of a mask; 64 for the empty one. -/
def lowest (m : Mask) : Nat := ((lanes m).head?).getD 64

/-- The mask of one lane. -/
def laneBit (i : Nat) : Mask := BitVec.ofNat 64 (2 ^ i)

/-- The mask of the lanes below `n`. -/
def below (n : Nat) : Mask := BitVec.ofNat 64 (2 ^ n - 1)

/-- The mask of the listed lanes that satisfy `f`. -/
def maskOf (l : List Nat) (f : Nat → Bool) : Mask := l.foldl (fun m i => if f i then m ||| laneBit i else m) 0

/-- A lane register: v120..v127 name the bank in privileged mode (R184). -/
def Regs.getV (r : Regs) (priv : Bool) (n lane : Nat) : Word :=
  if priv && 120 ≤ n then Table.get 0 r.bank.v (n * 64 + lane) else Table.get 0 r.v (n * 64 + lane)

/-- Write a lane register (R184). -/
def Regs.setV (r : Regs) (priv : Bool) (n lane : Nat) (x : Word) : Regs :=
  if priv && 120 ≤ n then { r with bank := { r.bank with v := Table.set 0 r.bank.v (n * 64 + lane) x } }
  else { r with v := Table.set 0 r.v (n * 64 + lane) x }

/-- A uniform register: s56..s63 name the bank in privileged mode (R184). -/
def Regs.getS (r : Regs) (priv : Bool) (n : Nat) : Dword :=
  if priv && 56 ≤ n then Table.get 0 r.bank.s n else Table.get 0 r.s n

/-- Write a uniform register (R184). -/
def Regs.setS (r : Regs) (priv : Bool) (n : Nat) (x : Dword) : Regs :=
  if priv && 56 ≤ n then { r with bank := { r.bank with s := Table.set 0 r.bank.s n x } }
  else { r with s := Table.set 0 r.s n x }

/-- A predicate over the lanes: p0 reads 1 (R147); p120..p127 name the bank in privileged mode (R184). -/
def Regs.getP (r : Regs) (priv : Bool) (n : Nat) : Mask :=
  if n = 0 then BitVec.allOnes 64
  else if priv && 120 ≤ n then Table.get 0 r.bank.p n
  else Table.get 0 r.p n

/-- Write predicate `n` in the lanes `at_`; a write to p0 is discarded (R147). -/
def Regs.setP (r : Regs) (priv : Bool) (n : Nat) (x at_ : Mask) : Regs :=
  if n = 0 then r
  else
    let y := (r.getP priv n &&& ~~~at_) ||| (x &&& at_)
    if priv && 120 ≤ n then { r with bank := { r.bank with p := Table.set 0 r.bank.p n y } }
    else { r with p := Table.set 0 r.p n y }

/-- The lanes in which a guard is true: 00 always, 01 g0, 10 g1, 11 not g0 (R265). -/
def Regs.guard (r : Regs) (priv : Bool) (g : BitVec 2) : Mask :=
  match g.toNat with
  | 0 => BitVec.allOnes 64
  | 1 => r.getP priv r.g0.toNat
  | 2 => r.getP priv r.g1.toNat
  | _ => ~~~ r.getP priv r.g0.toNat

/-- Write lane register `n` in each listed lane. -/
def Regs.putV (r : Regs) (priv : Bool) (n : Nat) (f : Nat → Word) : List Nat → Regs
  | [] => r
  | l :: ls => Regs.putV (r.setV priv n l (f l)) priv n f ls

/-- The registers that a word reads: in a chained group, those that stood before it (R146). -/
def Train.old (t : Train) : Regs :=
  match t.group with
  | none => t.r
  | some g => g.was

/-- The current slot's split. -/
def Train.split (t : Train) : Split := if t.d.cur then t.d.slot1 else t.d.slot0

/-- SPLIT's lanes whose guard is true. -/
def Train.act (t : Train) (c : Ctl) : Mask := t.split.mask &&& t.old.guard t.x.priv c.g

/-- A lane register as read (R146). -/
def Train.v (t : Train) (n : Fld) (lane : Nat) : Word := t.old.getV t.x.priv n.toNat lane
/-- A lane pair as read, low register first (R4). -/
def Train.vv (t : Train) (n : Fld) (lane : Nat) : Dword :=
  t.old.getV t.x.priv (n.toNat + 1) lane ++ t.old.getV t.x.priv n.toNat lane
/-- Lane register n + k as read. -/
def Train.vk (t : Train) (n : Fld) (k lane : Nat) : Word := t.old.getV t.x.priv (n.toNat + k) lane
/-- A uniform register as read. -/
def Train.s (t : Train) (n : Fld) : Dword := t.old.getS t.x.priv n.toNat
/-- A predicate as read. -/
def Train.p (t : Train) (n : Fld) : Mask := t.old.getP t.x.priv n.toNat

/-- The train with these registers. -/
def Train.withR (t : Train) (r : Regs) : Train := { t with r := r }

/-- Write a lane register in the lanes of `m`. -/
def Train.putV (t : Train) (n : Nat) (m : Mask) (f : Nat → Word) : Train :=
  t.withR (t.r.putV t.x.priv n f (lanes m))
/-- Write a lane pair in the lanes of `m` (R4). -/
def Train.putVV (t : Train) (n : Nat) (m : Mask) (f : Nat → Dword) : Train :=
  (t.putV n m fun l => (f l).extractLsb' 0 32).putV (n + 1) m fun l => (f l).extractLsb' 32 32
/-- Write a uniform register. -/
def Train.putS (t : Train) (n : Nat) (x : Dword) : Train := t.withR (t.r.setS t.x.priv n x)
/-- Write a predicate in the lanes of `at_`. -/
def Train.putP (t : Train) (n : Nat) (x at_ : Mask) : Train := t.withR (t.r.setP t.x.priv n x at_)

/-- The lanes of the train: 0 to WIDTH − 1. -/
def Train.all (t : Train) : Mask := below t.i.width
/-- The lanes that have not exited. -/
def Train.live (t : Train) : Mask := t.all &&& ~~~t.d.exited

end Sys2Proof.Machine
end

