-- ==== Sys2Proof/Machine/Split.lean ====
section
/-! DEFINITION. Splits, the siding, merges, pops and divisions (R149 to R160, R327). -/
namespace Sys2Proof.Machine

/-- The private address of a lane's byte (R57). -/
def privKey (lane off : Nat) : Nat := lane * 65536 + off

/-- Read `n` bytes of a lane's private space as a number (R4). -/
def Train.getPriv (t : Train) (lane off n : Nat) : Nat := natOfBytes (Table.getList 0 t.priv (privKey lane off) n)

/-- Write bytes into a lane's private space; the words that they cover whole lose their marks (R76). -/
def Train.setPriv (t : Train) (lane off : Nat) (b : List Byte) : Train :=
  let at_ := privKey lane off
  { t with priv := Table.setList 0 t.priv at_ b,
           privBad := t.privBad.filter fun w => !(at_ ≤ w * 32 && w * 32 + 32 ≤ at_ + b.length) }

/-- The offset of siding entry i (R152). -/
def sidingAt (i : Nat) : Nat := 0xE000 + 32 * i

/-- A split in the format of a siding entry (R153). -/
def packEntry (sp : Split) : Nat :=
  2 ^ 254 + sp.frame % 256 * 2 ^ 246 + natBits sp.pc.toNat 2 54 * 2 ^ 192 + sp.mask.toNat * 2 ^ 128 +
    natBits sp.region.toNat 2 54 * 2 ^ 64 + sp.count.toNat * 2 ^ 32

/-- A slot as the trap frame shows it: an empty one has KIND 00 (R187). -/
def packSplit (sp : Split) : Nat := if sp.mask = 0 then 0 else packEntry sp

/-- A join frame: join address L, the lanes it gathers, those that have arrived, and FRAME (R153, R155). -/
structure JoinFrame where
  l       : Dword
  mask    : Mask
  arrived : Mask
  frame   : Nat
  deriving DecidableEq, Repr

/-- A join frame's siding entry (R153). -/
def packFrame (f : JoinFrame) : Nat :=
  2 ^ 255 + f.frame % 256 * 2 ^ 246 + natBits f.l.toNat 2 54 * 2 ^ 192 + f.mask.toNat * 2 ^ 128 + f.arrived.toNat * 2 ^ 64

/-- A siding entry as read: a split or a join frame; KIND 00 and 11 are never written (R153). -/
inductive Entry where
  | split (sp : Split)
  | frame (f : JoinFrame)
  deriving DecidableEq, Repr

/-- Read a siding entry's 256 bits (R153). -/
def unpackEntry (x : Nat) : Entry :=
  let fr := natBits x 246 8
  let pc := BitVec.ofNat 64 (natBits x 192 54 * 4)
  let m := BitVec.ofNat 64 (natBits x 128 64)
  if natBits x 254 2 = 2 then .frame ⟨pc, m, BitVec.ofNat 64 (natBits x 64 64), fr⟩
  else .split (Split.fresh pc m (BitVec.ofNat 64 (natBits x 64 54 * 4)) (BitVec.ofNat 32 (natBits x 32 32)) fr)

/-- Siding entry i as it stands in lane 0's private space (R152). -/
def Train.entry (t : Train) (i : Nat) : Entry := unpackEntry (t.getPriv 0 (sidingAt i) 32)

/-- Write siding entry i's bytes, into lane 0's private space also where the core keeps the entry; a handler's loads and stores find and
change it there (R152). DESIGN CHOICE, unsafe (log 130). -/
def Train.putEntry (t : Train) (i x : Nat) : Train := t.setPriv 0 (sidingAt i) (bytesOfNat 32 x)

/-- Push an entry with its records (R151, R152). -/
def Train.push (t : Train) (x : Nat) (recs : List Rec) : Train :=
  let u := t.putEntry t.d.depth x
  { u with d := { u.d with depth := u.d.depth + 1, siding := ⟨u.d.depth, recs, 0, none⟩ :: u.d.siding } }

/-- The siding without its top entry. -/
def Train.drop (t : Train) : Train := { t with d := { t.d with depth := t.d.depth - 1, siding := t.d.siding.drop 1 } }

/-- What the core keeps beside entry i. -/
def Train.side (t : Train) (i : Nat) : Side := ((t.d.siding.find? fun e => e.index = i)).getD ⟨i, [], 0, none⟩

/-- Change what the core keeps beside entry i. -/
def Train.setSide (t : Train) (e : Side) : Train :=
  { t with d := { t.d with siding := t.d.siding.map fun o => if o.index = e.index then e else o } }

/-- The slot named: slot 1 for true. -/
def Train.slot (t : Train) (one : Bool) : Split := if one then t.d.slot1 else t.d.slot0

/-- Put a split into a slot. -/
def Train.setSlot (t : Train) (one : Bool) (sp : Split) : Train :=
  if one then { t with d := { t.d with slot1 := sp } } else { t with d := { t.d with slot0 := sp } }

/-- Put a split into the current slot. -/
def Train.setSplit (t : Train) (sp : Split) : Train := t.setSlot t.d.cur sp

/-- The siding depth below which entries are frozen user entries (R184); in a resume entry before `crest` they are those that the train
was vacated with (R198). -/
def Train.base (t : Train) : Nat :=
  match t.x.frozen.head? with
  | some f => f.depth
  | none => if t.x.resume then t.x.floor else 0

/-- Does the split hold every lane that has not exited (R159)? -/
def Train.whole (t : Train) (sp : Split) : Bool := sp.mask == t.live

/-- Is this the poisoned reply of an uncounted load that has not come? -/
def Op.isReply (o : Op) : Bool :=
  match o.work with
  | .reply => !o.done
  | _ => false

/-- Does the split wait for the reply of an uncounted load, whose destination no later word reads before it comes (R147, R349)? The model
lets no word of the split issue before it. DESIGN CHOICE, unsafe (log 22). -/
def Train.awaits (t : Train) (sp : Split) : Bool :=
  t.c.ops.any fun o => o.isReply && o.prv == t.x.priv && o.split &&& sp.mask != 0

/-- Can this slot's split issue (R66, R138, R147, R150, R159, R175, R181)? -/
def Train.canIssue (t : Train) (one : Bool) : Bool :=
  let sp := t.slot one
  sp.mask != 0 && sp.recs.isEmpty && !sp.asleep && sp.parked.isNone && (!sp.held || t.whole sp) && !t.awaits sp &&
    !t.c.ops.any Op.parked

/-- The lanes from which an operation is earlier in program order: those of the split that issued it, and those of every later join that
one of them took part in, or had reached by its exit (R104). -/
def Train.reach (t : Train) (o : Op) : Mask :=
  t.d.joins.foldl (fun m j => if o.id < j.1 && m &&& (j.2.1 ||| j.2.2) != 0 then m ||| j.2.1 else m) (o.split ||| o.reached)

/-- These lanes have joined: what any of them, or a lane that has exited, has issued and is still pending comes before what they issue from
now on (R104). -/
def Train.noteJoin (t : Train) (m : Mask) : Train :=
  { t with d := { t.d with joins := if t.c.ops.isEmpty then [] else t.d.joins ++ [(t.c.next, m, t.d.exited)] } }

/-- Does this operation come before the current split's next one in program order (R104)? -/
def Train.before (t : Train) (o : Op) : Bool := t.reach o &&& t.split.mask != 0

/-- The merge of two splits at one PC with equal FRAME (R149, R154). -/
def mergeSplits (a b : Split) : Split :=
  { a with mask := a.mask ||| b.mask, region := a.pc, count := (if a.count < b.count then b.count else a.count) + 1,
           held := a.held || b.held, asleep := a.asleep || b.asleep, sync := a.sync <|> b.sync,
           asked := a.asked <|> b.asked, answer := a.answer <|> b.answer, parked := a.parked <|> b.parked }

/-- May the live slots merge (R154, R182)? A split of whose group some words are still to come stands no more at its first word. DESIGN
CHOICE, safe (log 9). -/
def Train.mergeable (t : Train) : Bool :=
  let a := t.d.slot0
  let b := t.d.slot1
  a.mask != 0 && b.mask != 0 && a.pc == b.pc && a.frame == b.frame && a.recs.isEmpty && b.recs.isEmpty && a.half.isNone && b.half.isNone

/-- The split of a completed frame, at the address after the `join`s that it gathered: J + 4, or, where they stood in a chained group, the
address after the group (R149, R156). DESIGN CHOICE, safe (log 9). -/
def completedSplit (f : JoinFrame) (lanes_ : Mask) (side : Side) : Split :=
  let pc := side.next.getD (f.l + 4)
  Split.fresh pc lanes_ pc (side.count + 1) f.frame

/-- One merge, pop or completion of a frame, into slot `first` when it is empty; none when nothing is to be done
(R154, R156, R157). A siding split whose lanes have all exited is gone, unless it holds records. A complete frame stays on the siding until a slot
is empty. DESIGN CHOICE, unsafe (log 146). -/
def Train.settleStep (t : Train) (first : Bool) : Option Train :=
  if t.mergeable then
    let sp := mergeSplits t.d.slot0 t.d.slot1
    some (((t.setSlot false sp).setSlot true Split.empty).noteJoin sp.mask)
  else if t.d.depth ≤ t.base then none
  else
    let empty := if (t.slot first).mask = 0 then some first else if (t.slot (!first)).mask = 0 then some (!first) else none
    match empty with
    | none => none
    | some e =>
      let i := t.d.depth - 1
      let side := t.side i
      match t.entry i with
      | .split sp =>
        let sp := { sp with mask := sp.mask &&& ~~~t.d.exited, recs := side.recs }
        if sp.mask = 0 && side.recs.isEmpty then some t.drop else some (t.drop.setSlot e sp)
      | .frame f =>
        if f.mask &&& ~~~t.d.exited &&& ~~~f.arrived = 0 then
          let l := f.arrived &&& ~~~t.d.exited
          if l = 0 then some t.drop else some ((t.drop.setSlot e (completedSplit f l side)).noteJoin l)
        else none

/-- Merges, pops and completions until none is to be done, at most `n` of them (R154). -/
def Train.settleN (first : Bool) : Nat → Train → Train
  | 0, t => t
  | n + 1, t =>
    match t.settleStep first with
    | none => t
    | some u => Train.settleN first n u

/-- Is the train stuck (R160)? DESIGN CHOICE, safe (log 12). -/
def Train.stuck (t : Train) : Bool :=
  let a := t.d.slot0
  let b := t.d.slot1
  t.live != 0 && ((a.mask != 0 && a.held) || (b.mask != 0 && b.held)) && (a.mask == 0 || a.held) && (b.mask == 0 || b.held) &&
    !((a.mask != 0 && t.whole a) || (b.mask != 0 && t.whole b))

/-- The 0x12 record of a stuck train, attached to the HELD split of slot 0, otherwise of slot 1 (R160). -/
def Train.stuckRecord (t : Train) : Train :=
  let one := !(t.d.slot0.mask != 0 && t.d.slot0.held)
  let sp := t.slot one
  let o := t.slot (!one)
  if sp.recs.any fun r => r.cause == 0x12 then t
  else
    let other : Dword := if o.mask = 0 then 0 else o.pc
    t.setSlot one { sp with recs := sp.recs ++
      [⟨0x12, t.live, other, sp.pc, sp.region, sp.count, t.c.issued, false⟩] }

/-- A HELD split that holds the whole train is HELD no more (R159). -/
def Train.release (t : Train) : Train :=
  let f := fun (sp : Split) => if sp.held && t.whole sp then { sp with held := false } else sp
  { t with d := { t.d with slot0 := f t.d.slot0, slot1 := f t.d.slot1 } }

/-- A slot's turn begins, under the QUANTUM of now (R150, R340). -/
def Div.take (d : Div) (cur : Bool) : Div := { d with cur := cur, used := 0, limit := d.quantum }

/-- Switch to the other slot as soon as the current one cannot issue while the other can (R150). -/
def Train.turn (t : Train) : Train :=
  if !t.canIssue t.d.cur && t.canIssue (!t.d.cur) then { t with d := t.d.take (!t.d.cur) } else t

/-- After every change of a slot: merges and pops, then the coupling test and the stuck test, then the turn
(R150, R154, R159, R160). -/
def Train.settle (t : Train) : Train :=
  let u := Train.settleN t.d.cur 400 t
  let u := u.release
  let u := if u.stuck then u.stuckRecord else u
  u.turn

/-- The lanes of SPLIT that are going on, by next PC: those of `targets` first named win, the others fall through. -/
def splitGroups (next : Dword) (rest : Mask) : List (Dword × Mask) → List (Dword × Mask)
  | [] => if rest = 0 then [] else [(next, rest)]
  | (pc, m) :: ts =>
    let here := m &&& rest
    let others := splitGroups next (rest &&& ~~~here) ts
    if here = 0 then others
    else match others.find? fun g => g.1 == pc with
      | some _ => others.map fun g => if g.1 == pc then (pc, g.2 ||| here) else g
      | none => (pc, here) :: others

/-- Insert a group by its lowest lane. -/
def insertGroup (g : Dword × Mask) : List (Dword × Mask) → List (Dword × Mask)
  | [] => [g]
  | h :: hs => if lowest g.2 ≤ lowest h.2 then g :: h :: hs else h :: insertGroup g hs

/-- The groups in ascending order of their lowest lane. -/
def sortGroups (gs : List (Dword × Mask)) : List (Dword × Mask) := gs.foldr insertGroup []

/-- The number of entries a division into `n` groups pushes (R151). -/
def Train.pushes (t : Train) (n : Nat) : Nat := n - 1 - (if (t.slot (!t.d.cur)).mask = 0 then 1 else 0)

/-- Would this division or push overfill the siding (R151, R155)? -/
def Train.overfull (t : Train) (n : Nat) : Bool := 128 < t.d.depth + n

/-- REGION of a split that goes on at `pc`. -/
def regionAt (ends : Bool) (region pc : Dword) : Dword := if ends then pc else region

/-- Do these groups take apart lanes of `m`? -/
def parts (gs : List (Dword × Mask)) (m : Mask) : Bool := 1 < (gs.filter fun g => g.2 &&& m != 0).length

/-- The operations whose issuing lanes a division into these groups takes apart are marked (R181). -/
def Train.noteParts (t : Train) (gs : List (Dword × Mask)) : Train :=
  let f := fun (o : MatOp) => { o with divided := o.divided || parts gs o.split }
  { t with c := { t.c with ops := t.c.ops.map fun o => { o with divided := o.divided || parts gs o.split } },
           m := { t.m with mat := t.m.mat.map f, ice := t.m.ice.map f } }

/-- Divide or move the split to its groups (R151). `ends` says that the word ends the idempotent region (R189). -/
def Train.divide (t : Train) (next : Dword) (targets : List (Dword × Mask)) (ends : Bool) : Train :=
  let sp := t.split
  let gs := sortGroups (splitGroups next sp.mask targets)
  let stay := (gs.find? fun g => g.1 == next) <|> gs.head?
  match stay with
  | none => t.setSplit Split.empty
  | some g =>
    let make := fun (h : Dword × Mask) => { sp with pc := h.1, mask := h.2, region := regionAt ends sp.region h.1, half := none }
    let rest := gs.filter fun h => h.1 != g.1
    let t := (if rest.isEmpty then t else t.noteParts gs).setSplit (make g)
    let free := (t.slot (!t.d.cur)).mask = 0
    let (now, later) := if free then (rest.head?, rest.drop 1) else (none, rest)
    let t := match now with
      | none => t
      | some h => t.setSlot (!t.d.cur) (make h)
    later.reverse.foldl (fun (u : Train) h => u.push (packEntry (make h)) []) t

/-- The current split goes on at `next`, with its region ended there when `ends` says so (R189). -/
def Train.goOn (t : Train) (next : Dword) (ends : Bool) : Train :=
  t.setSplit { t.split with pc := next, region := regionAt ends t.split.region next, half := none }

/-- `join` of the current split, whose next PC is `next` (R156); its frame has been checked. -/
def Train.joinFrame (t : Train) (next : Dword) (ends : Bool) : Train :=
  let sp := t.split
  if sp.frame = 0 then t.goOn next ends
  else
    let i := sp.frame - 1
    match t.entry i with
    | .split _ => t
    | .frame f =>
      let side := t.side i
      let t := t.putEntry i (packFrame { f with arrived := f.arrived ||| sp.mask })
      let t := t.setSide { side with count := if side.count < sp.count then sp.count else side.count, next := some next }
      t.setSplit Split.empty

/-- `exit` of the lanes `m` of the current split (R157). -/
def Train.exitLanes (t : Train) (m : Mask) (next : Dword) (ends : Bool) : Train :=
  let sp := t.split
  let left := sp.mask &&& ~~~m
  let t := { t with d := { t.d with exited := t.d.exited ||| (m &&& sp.mask) } }
  if left = 0 then t.setSplit Split.empty else (t.setSplit { sp with mask := left }).goOn next ends

/-- `fork` with join address L: push the frame and go on (R155). -/
def Train.forkFrame (t : Train) (l next : Dword) : Train :=
  let sp := t.split
  let t := t.push (packFrame ⟨l, sp.mask, 0, sp.frame⟩) []
  t.setSplit { sp with frame := t.d.depth, pc := next, region := next, half := none }

/-- The split's region after the word or group at `first` (R189, R333). Of a group that both holds `idem` and ends a region, the end stands:
REGION is the address after it, and COUNT is one more. DESIGN CHOICE, unsafe (log 129). -/
def Train.region (t : Train) (first : Dword) (ends idem : Bool) : Train :=
  let sp := t.split
  if ends then t.setSplit { sp with count := sp.count + 1 }
  else if idem then t.setSplit { sp with region := first, count := sp.count + 1 }
  else t

/-- Where the split goes after the word or group at `first` whose sequential successor is `next`; `eret` is the trap state's
own. -/
def Train.depart (t : Train) (first next : Dword) (leave : Leave) (ends idem : Bool) : Train :=
  let t := t.region first ends idem
  match leave with
  | .on => t.goOn next ends
  | .go targets => t.divide next targets ends
  | .fork l => t.forkFrame l next
  | .join => t.joinFrame next ends
  | .exits m => t.exitLanes m next ends
  | .eret _ => t
  | .stay => t.setSplit { t.split with region := regionAt ends t.split.region next, half := none }

end Sys2Proof.Machine
end

