-- ==== Sys2Proof/Machine/Find.lean ====
section
/-! DEFINITION. Finding and changing the device's tables: trains, teams, grids, partitions, cores and barriers. -/
namespace Sys2Proof.Machine

/-- Every train of the device. -/
def State.trains (s : State) : List Train := s.t :: s.rest

/-- The train with this number. -/
def State.train (s : State) (id : Nat) : Option Train := s.trains.find? fun t => t.i.id = id

/-- Put a train onto the issue stage; the one that stood there joins the others. -/
def State.stage (s : State) (id : Nat) : State :=
  if s.t.i.id = id then s
  else match s.rest.find? fun t => t.i.id = id with
    | none => s
    | some t =>
      let others := s.rest.filter fun u => u.i.id != id
      { s with t := t, rest := if s.t.i.id = 0 then others else s.t :: others }

/-- Change the train on the issue stage. -/
def State.onT (s : State) (f : Train → Train) : State := { s with t := f s.t }

/-- Change every train that satisfies `p`. -/
def State.mapTrains (s : State) (p : Train → Bool) (f : Train → Train) : State :=
  { s with t := if p s.t then f s.t else s.t, rest := s.rest.map fun t => if p t then f t else t }

/-- The grid with this sequence number. -/
def State.grid (s : State) (seq : Nat) : Option Grid := s.d.grids.find? fun g => g.seq = seq

/-- Change a grid. -/
def State.onGrid (s : State) (seq : Nat) (f : Grid → Grid) : State :=
  { s with d := { s.d with grids := s.d.grids.map fun g => if g.seq = seq then f g else g } }

/-- A grid's team with this linear index. -/
def State.team (s : State) (grid idx : Nat) : Option Team := s.d.teams.find? fun m => m.grid = grid && m.idx = idx

/-- Change a team. -/
def State.onTeam (s : State) (grid idx : Nat) (f : Team → Team) : State :=
  { s with d := { s.d with teams := s.d.teams.map fun m => if m.grid = grid && m.idx = idx then f m else m } }

/-- The partition with this number. -/
def State.part (s : State) (num : Nat) : Option Part := s.q.parts.find? fun p => p.num = num

/-- Change a partition. -/
def State.onPart (s : State) (num : Nat) (f : Part → Part) : State :=
  { s with q := { s.q with parts := s.q.parts.map fun p => if p.num = num then f p else p } }

/-- The cores of a partition (R30). -/
def Part.cores (p : Part) : List Nat :=
  ((List.range p.h).map fun j => (List.range p.w).map fun i => (p.y + j) * 16 + (p.x + i)).flatten

/-- A core's own figures. -/
def State.core (s : State) (n : Nat) : CoreSt := Table.get CoreSt.reset s.d.cores n

/-- Change a core's figures. -/
def State.onCore (s : State) (n : Nat) (f : CoreSt → CoreSt) : State :=
  { s with d := { s.d with cores := Table.set CoreSt.reset s.d.cores n (f (s.core n)) } }

/-- The number of the catalogue image in a core's control store of a kind (0 traversal, 1 sampler, 2 walker), where it is no default one
(R35). -/
def State.image (s : State) (core kind : Nat) : Option Nat := ((s.core core).stores[kind]?).filter fun n => decide (4 ≤ n)

/-- The launch record of a train's grid. -/
def State.recOf (s : State) (t : Train) : LaunchRec :=
  match s.grid t.i.grid with
  | some g => g.launch
  | none => ⟨[], [], [], [], [], 0, 0, 0, 0, 1, 1, 1, 8, 0, 1, 1, 1, 0, 0, 0, 0⟩

/-- The team of the train on the issue stage. -/
def State.myTeam (s : State) : Option Team := s.team s.t.i.grid s.t.i.team

/-- A team's rank in its cluster and its cluster's linear index (R128). -/
def State.rankOf (s : State) (t : Train) : Nat × Nat :=
  match s.team t.i.grid t.i.team with
  | some m => (m.rank, m.cluster)
  | none => (0, t.i.team)

/-- The name of the barrier BARID for the train (R165, R278). -/
def State.barKey (s : State) (t : Train) (barid : Nat) : BarKey :=
  if barid < 16 then ⟨0, t.i.grid, t.i.team, barid⟩
  else if barid < 24 then ⟨1, t.i.grid, (s.rankOf t).2, barid - 16⟩
  else ⟨2, t.i.grid, 0, barid - 24⟩

/-- The barrier so named, when it is declared. -/
def State.bar (s : State) (k : BarKey) : Option Bar := s.d.bars.find? fun b => b.key = k

/-- Put a barrier back. -/
def State.setBar (s : State) (b : Bar) : State :=
  { s with d := { s.d with bars := s.d.bars.map fun o => if o.key = b.key then b else o } }

/-- The train's member index at a level (R166). -/
def State.member (s : State) (t : Train) (level : Nat) : Nat :=
  let n := (s.recOf t).trains
  match level with
  | 0 => t.i.num
  | 1 => (s.rankOf t).1 * n + t.i.num
  | _ => t.i.team * n + t.i.num

end Sys2Proof.Machine
end

