-- ==== Sys2Proof/Machine/Barrier.lean ====
section
/-! DEFINITION. Barriers: arrivals, phases, expected bytes and the end of a train (R165 to R178). -/
namespace Sys2Proof.Machine

/-- A declared barrier at its owner's start (R165). -/
def Bar.start (key : BarKey) (count : Nat) : Bar := ⟨key, count, count, count, 0, [], [], 0, 0, false, false, []⟩

/-- TRY_COMPLETE (R168). -/
def Bar.tryComplete (b : Bar) : Bar :=
  if 0 < b.expect && b.arrived = b.expect && b.pending = 0 then
    { b with lastErr := b.err, err := false, phase := b.phase + 1, arrived := 0, seen := [], expect := b.next,
             failed := if b.err then b.phase :: b.failed else b.failed.filter fun p => p != b.phase }
  else b

/-- A count of 64 bits in two's complement (R165). -/
def wrap64 (x : Int) : Int := (BitVec.ofInt 64 x).toInt

/-- The phase parity. -/
def Bar.parity (b : Bar) : Bool := b.phase.getLsbD 0

/-- Why an arrival of member `m` faults, as (cause, REASON): at or above the count, in LEFT, at a barrier whose EXPECT has become
0, or a second arrival (R168). -/
def Bar.arrivalFault (b : Bar) (m : Nat) : Option (Nat × Nat) :=
  if b.count ≤ m then some (0x11, 0)
  else if b.left.contains m || b.expect = 0 then some (0x11, 2)
  else if b.seen.contains m then some (0x10, 0)
  else none

/-- An arrival that does not fault (R168). -/
def Bar.arrive (b : Bar) (m : Nat) (drop : Bool) : Bar :=
  let b := { b with seen := m :: b.seen, arrived := b.arrived + 1 }
  (if drop then { b with left := m :: b.left, next := b.next - 1 } else b).tryComplete

/-- Why an expect of `n` bytes by member `m` faults (R172). -/
def Bar.expectFault (b : Bar) (m n : Nat) : Option (Nat × Nat) :=
  if b.count ≤ m then some (0x11, 0)
  else if b.left.contains m then some (0x11, 2)
  else if 2 ^ 48 < n || (2 ^ 63 : Int) ≤ b.pending + n then some (0x10, 2)
  else none

/-- An expect that does not fault (R172). -/
def Bar.expectBytes (b : Bar) (n : Nat) : Bar := Bar.tryComplete { b with pending := wrap64 (b.pending + n) }

/-- A unit of `n` bytes settles, with an error mark or without (R173, R174). -/
def Bar.settleBytes (b : Bar) (n : Nat) (bad : Bool) : Bar :=
  Bar.tryComplete { b with pending := wrap64 (b.pending - n), err := b.err || bad }

/-- The end of member `m` at this barrier (R171). -/
def Bar.endOf (b : Bar) (m : Nat) : Bar :=
  if b.count ≤ m || b.left.contains m then b
  else if b.seen.contains m then { b with left := m :: b.left, next := b.next - 1 }
  else b.arrive m true

/-- TRAPINFO of the causes 0x10, 0x11 and 0x0E (R176). -/
def barInfo (reason level number : Nat) (phase : Word) : Dword :=
  BitVec.ofNat 64 (reason % 16 * 2 ^ 60 + level % 4 * 2 ^ 58 + number % 16 * 2 ^ 52 + phase.toNat)

/-- The barriers of a train's team, cluster and grid take its end (R171). -/
def State.endAtBars (s : State) (t : Train) : State :=
  let mine := fun (b : Bar) =>
    b.key.grid = t.i.grid &&
    (match b.key.level with
     | 0 => b.key.owner = t.i.team
     | 1 => b.key.owner = (s.rankOf t).2
     | _ => true)
  { s with d := { s.d with bars := s.d.bars.map fun b => if mine b then b.endOf (s.member t b.key.level) else b } }

/-- Bytes settle at the barrier named, if one is named and declared (R173). -/
def State.settleAt (s : State) (k : Option BarKey) (n : Nat) (bad : Bool) : State :=
  match k.bind s.bar with
  | none => s
  | some b => s.setBar (b.settleBytes n bad)

end Sys2Proof.Machine
end

