-- ==== Sys2Proof/Machine/Ports.lean ====
section
/-! DEFINITION. The ports: which of them run, what is dropped at them, and the sending of messages to peers (R13 to R20, R37). -/
namespace Sys2Proof.Machine

/-- Is a port down: more than one failed lane, so that its spare does not bring it to eight (R13)? -/
def portDown (f : SelfTest) (port : Nat) : Bool := 1 < ((f.lanes.filter fun l => l.1 = port).map Prod.snd).eraseDups.length

/-- Does a port carry traffic: port 8 is the management port, the only one that runs in the red-signal state; a port that is down
carries none, and neither does any in the dark state or before bring-up has ended (R13, R20, R33, R34). -/
def State.portRuns (s : State) (port : Nat) : Bool :=
  match s.k.phase with
  | .accepting => port = 8 || (port < 8 && !portDown s.k.selfTest port)
  | .redSignal => port = 8
  | _ => false

/-- A message or packet is dropped and counted at the port by which it came; 8 stands for the management port (R14, R19, R20). DEDUCED,
safe (log 95). -/
def State.dropAt (s : State) (port : Nat) : State :=
  { s with k := { s.k with dropped := Table.set 0 s.k.dropped port (Table.get 0 s.k.dropped port + 1) } }

/-- A message goes to a peer by one of the Ultra Ethernet ports that run, which stamps its endpoint on it (R13, R14, R19, R37). Where none
runs nothing is sent: the transport will abandon the message (R17). DESIGN CHOICE, safe (log 113). -/
def State.sendMessage (s : State) (kind peer window : Nat) (tag : Word) (offset length : Nat) (data : List Byte) (value : Dword)
    (aop : Nat) : State :=
  let ps := (List.range 8).filter s.portRuns
  match ps[Config.portChoice s.k.sent.length % ps.length]? with
  | none => s
  | some p => { s with k := { s.k with
      sent := s.k.sent ++ [⟨kind, Config.portEndpoint p, peer, window, tag, offset, length, data, value, aop⟩] } }

/-- The window entry with this identity, open or closed since: an access issued under an entry goes to its peer (R15, R29, R64). -/
def State.entry (s : State) (uid : Nat) : Option Window := (s.k.windows ++ s.k.closed).find? fun w => w.uid = uid

end Sys2Proof.Machine
end

