-- ==== Sys2Proof/Machine/Memory.lean ====
section
/-! DEFINITION. Global memory: translation, the tier machine of a granule, dormant pages, poison and substitution
(R57 to R81, R367). -/
namespace Sys2Proof.Machine

/-- The mapping that holds a virtual address of a partition (R64). -/
def Store.mapping (m : Store) (part va : Nat) : Option Mapping :=
  m.maps.find? fun p => p.part = part && p.va ≤ va && va < p.va + p.len

/-- The unified address of a mapped virtual address (R64). -/
def Store.translate (m : Store) (part va : Nat) : Option Nat :=
  (m.mapping part va).map fun p => p.ua + (va - p.va)

/-- The remote window that holds a virtual address of a partition (R15). -/
def State.window (s : State) (part va : Nat) : Option Window :=
  s.k.windows.find? fun w => w.part = part && w.va ≤ va && va < w.va + w.len

/-- The size of a granule (R68). -/
def granuleBytes : Nat := 65536
/-- The granule of a unified address. -/
def granuleOf (ua : Nat) : Nat := ua / 65536
/-- The line, of 256 bytes, of a unified address. -/
def lineOf (ua : Nat) : Nat := ua / 256

/-- A granule's tier record. -/
def Store.gran (m : Store) (g : Nat) : Option Gran := (m.tier.find? fun e => e.1 = g).map Prod.snd

/-- Change a granule's tier record. -/
def Store.onGran (m : Store) (g : Nat) (f : Gran → Gran) : Store :=
  { m with tier := m.tier.map fun e => if e.1 = g then (e.1, f e.2) else e }

/-- The number of frames that a partition's fast, promoting and demoting granules hold, with those in quarantine (R71, R81). -/
def Store.framesUsed (m : Store) (part : Nat) : Nat :=
  (m.tier.filter fun e => e.2.part = part && e.2.tier != .deep).length +
  (m.quarantine.filter fun q => q.part = part && q.kind = 1).length

/-- The granules of deep storage that a partition holds, with those in quarantine (R30, R81). -/
def Store.deepUsed (m : Store) (part : Nat) : Nat :=
  (m.tier.filter fun e => e.2.part = part && e.2.tier != .fast).length +
  (m.quarantine.filter fun q => q.part = part && q.kind = 2).length

/-- A partition's HBM5 share in frames (R30, R68). DESIGN CHOICE, safe (log 23). -/
def State.frames (s : State) (part : Nat) : Nat :=
  match s.part part with
  | some p => p.hbm * 16384
  | none => 0

/-- Has the partition a free frame (R69)? -/
def State.frameFree (s : State) (part : Nat) : Bool := s.m.framesUsed part < s.frames part

/-- A partition's deep-tier share in granules (R30). -/
def State.deepRoom (s : State) (part : Nat) : Nat :=
  match s.part part with
  | some p => p.deep * 1048576 - s.m.deepUsed part
  | none => 0

/-- The `k` lowest numbers that a list does not hold. -/
def leastFree (k : Nat) (used : List Nat) : List Nat := ((List.range (used.length + k)).filter fun n => !used.contains n).take k

/-- The HBM5 frames that granules hold or that stand in quarantine (R68, R81). -/
def Store.framesHeld (m : Store) : List Nat :=
  m.tier.filterMap (fun e => e.2.frame) ++ (m.quarantine.filter fun q => q.kind = 1).map Quarantined.ua

/-- The deep-tier locations that granules hold or that stand in quarantine (R68, R81). -/
def Store.locsHeld (m : Store) : List Nat :=
  m.tier.filterMap (fun e => e.2.loc) ++ (m.quarantine.filter fun q => q.kind = 2).map Quarantined.ua

/-- START_PROMOTION: a frame in place at once, no line arrived but those a dormant granule needs not (R69, R78). A dormant
granule's promotion takes the frame and keeps it dormant. -/
def Gran.promote (g : Gran) (frame : Nat) : Gran :=
  { g with tier := if g.dormant then .fast else .promoting, lines := [], pulled := [], frame := some frame }

/-- PULL of a line, within its granule (R69). -/
def Gran.pull (g : Gran) (line : Nat) : Gran :=
  if g.lines.contains line || g.pulled.contains line then g else { g with pulled := g.pulled ++ [line] }

/-- An access to a line of a granule that holds a frame, at its home slice (R69, R70, R78): the granule after it. A write cancels a
demotion; a first write to a dormant granule starts its zero fill. -/
def Gran.access (g : Gran) (line : Nat) (writes : Bool) : Gran :=
  match g.tier with
  | .fast => if writes && g.dormant then { g with filling := true } else g
  | .promoting => g.pull line
  | .demoting => if writes then { g with tier := .fast, lines := [], filling := g.dormant, loc := none } else g
  | .deep => g

/-- Can the home slice serve this access now (R69, R78)? -/
def Gran.servable (g : Gran) (line : Nat) (writes : Bool) : Bool :=
  match g.tier with
  | .fast => !g.filling && !(writes && g.dormant)
  | .promoting => g.lines.contains line
  | .demoting => !writes
  | .deep => false

/-- The line's arrival: its bit is set, and the last line's arrival commits the promotion (R70). The flag says that it did. -/
def Gran.arrive (g : Gran) (line : Nat) : Gran × Bool :=
  let ls := if g.lines.contains line then g.lines else g.lines ++ [line]
  if ls.length = 256 then ({ g with tier := .fast, lines := [], pulled := [] }, true)
  else ({ g with lines := ls, pulled := g.pulled.filter fun l => l != line }, false)

/-- Is the access served at once (R69)? -/
def State.servable (s : State) (ua : Nat) (writes : Bool) : Bool :=
  match s.m.gran (granuleOf ua) with
  | none => true
  | some e => e.servable (lineOf ua % 256) writes

/-- Is the granule dormant, so that reads return zero (R78)? -/
def Store.dormant (m : Store) (ua : Nat) : Bool :=
  match m.gran (granuleOf ua) with
  | none => false
  | some e => e.dormant

/-- Is the page of a unified address tolerant, and with which SUBST (R65, R75)? -/
def Store.tolerance (m : Store) (ua : Nat) : Option Nat :=
  ((m.maps.find? fun p => p.ua ≤ ua && ua < p.ua + p.len).bind fun p => if p.tolerant then some p.subst else none)

/-- The unified address of the page that holds one: its mapping's page size counts from the mapping's start (R64, R75). -/
def Store.pageOf (m : Store) (ua : Nat) : Nat :=
  match m.maps.find? fun p => p.ua ≤ ua && ua < p.ua + p.len with
  | some p => p.ua + (ua - p.ua) / p.page * p.page
  | none => ua / 65536 * 65536

/-- The 32 bytes of a substitution value (R75). -/
def substBytes (sub : Nat) : List Byte :=
  match sub with
  | 0 => List.replicate 32 0x00
  | 1 => List.replicate 32 0x80
  | 2 => (List.replicate 16 [0xC0, 0x7F]).flatten
  | _ => (List.replicate 8 [0x00, 0x00, 0xC0, 0x7F]).flatten

/-- The 32-byte ECC words that `n` bytes at `ua` touch (R74). -/
def eccWords (ua n : Nat) : List Nat := (List.range ((ua + n - 1) / 32 - ua / 32 + 1)).map fun i => ua / 32 + i

/-- A read meets the uncorrectable word `w`: substituted on a tolerant page, poisoned on another (R74 to R76). -/
def Store.meet (m : Store) (w : Nat) : Store :=
  if m.latent.contains w && !m.dormant (w * 32) then
    let m := { m with latent := m.latent.filter fun x => x != w }
    match m.tolerance (w * 32) with
    | some sub =>
      let p := m.pageOf (w * 32)
      { m with mem := Table.setList 0 m.mem (w * 32) (substBytes sub),
               substs := Table.set 0 m.substs p (min 0xFFFF (Table.get 0 m.substs p + 1)) }
    | none => { m with poison := w :: m.poison }
  else m

/-- Do `n` bytes at `ua` touch a poisoned word (R76)? -/
def Store.poisoned (m : Store) (ua n : Nat) : Bool := !m.dormant ua && (eccWords ua n).any fun w => m.poison.contains w

/-- The bytes in memory at a unified address; a dormant granule reads zero (R78). -/
def Store.peek (m : Store) (ua n : Nat) : List Byte :=
  if m.dormant ua then List.replicate n 0 else Table.getList 0 m.mem ua n

/-- Read `n` bytes at `ua`: the store after the read, and the bytes or, where a word is poisoned, none (R74 to R78). -/
def Store.read (m : Store) (ua n : Nat) : Store × Option (List Byte) :=
  let m := (eccWords ua n).foldl Store.meet m
  if m.poisoned ua n then (m, none) else (m, some (m.peek ua n))

/-- The words that `n` bytes at `ua` cover whole (R76). -/
def coveredWords (ua n : Nat) : List Nat := (eccWords ua n).filter fun w => ua ≤ w * 32 && w * 32 + 32 ≤ ua + n

/-- Put bytes at `ua`, clearing the marks of the words `whole` (R76). -/
def Store.put (m : Store) (ua : Nat) (b : List Byte) (whole : List Nat) : Store :=
  { m with mem := Table.setList 0 m.mem ua b,
           poison := m.poison.filter fun w => !whole.contains w,
           latent := m.latent.filter fun w => !whole.contains w }

/-- Write bytes at `ua`; `whole` are the words that the whole store instruction covers. None where a word that it covers in part is
poisoned: a partial store is not performed (R75, R76). DEDUCED, unsafe (log 21). -/
def Store.write (m : Store) (ua : Nat) (b : List Byte) (whole : List Nat) : Store × Bool :=
  let part := (eccWords ua b.length).filter fun w => !whole.contains w
  let m := part.foldl Store.meet m
  if part.any fun w => m.poison.contains w then (m, false) else (m.put ua b whole, true)

/-- Write bytes that carry the poison mark with them (R76). -/
def Store.putPoisoned (m : Store) (ua n : Nat) : Store :=
  { m with poison := (eccWords ua n).foldl (fun p w => if p.contains w then p else w :: p) m.poison }

/-- The zero fill of a dormant granule completes: every byte zero with good ECC, the granule live (R78). -/
def Store.zeroFill (m : Store) (g : Nat) : Store :=
  let lo := g * 65536
  let m := { m with mem := Table.clear m.mem lo 65536,
                    poison := m.poison.filter fun w => w * 32 < lo || lo + 65536 ≤ w * 32,
                    latent := m.latent.filter fun w => w * 32 < lo || lo + 65536 ≤ w * 32 }
  m.onGran g fun e => { e with dormant := false, filling := false }

/-- The granules that `n` bytes at `ua` touch. -/
def granulesAt (ua n : Nat) : List Nat :=
  if n = 0 then [] else (List.range ((ua + n - 1) / 65536 + 1 - ua / 65536)).map fun i => ua / 65536 + i

/-- Dormant granules that a write reaches become live (R78). -/
def Store.enliven (m : Store) (ua n : Nat) : Store :=
  (granulesAt ua n).foldl (fun (m : Store) g => if m.dormant (g * 65536) then m.zeroFill g else m) m

/-- The device writes a run of 64-byte pieces, each at its own page (R238); an unmapped piece is dropped. -/
def Store.deviceWriteRun (m : Store) (part va : Nat) (b : List Byte) : Store :=
  (List.range ((b.length + 63) / 64)).foldl (fun (m : Store) i =>
    let piece := (b.drop (64 * i)).take 64
    match m.translate part (va + 64 * i) with
    | none => m
    | some ua => (m.enliven ua piece.length).put ua piece (coveredWords ua piece.length)) m

/-- A range of unified addresses loses what was written there. The count of substitutions of a page stays with its address when a new
mapping takes it. DESIGN CHOICE, unsafe (log 117). -/
def Store.wipe (m : Store) (ua len : Nat) : Store :=
  let out := fun (w : Nat) => w * 32 + 32 ≤ ua || ua + len ≤ w * 32
  { m with mem := Table.clear m.mem ua len, poison := m.poison.filter out, latent := m.latent.filter out }

/-- The device writes an image of `len` bytes, given by the bytes that are not zero, at a virtual address of one mapping (R195). -/
def Store.deviceImage (m : Store) (part va len : Nat) (cells : Sparse Byte) : Store :=
  match m.translate part va with
  | none => m
  | some ua =>
    let inside := cells.filter fun e => e.1 < len
    let m := m.wipe ua len
    { m with mem := inside.foldl (fun (x : Memory) e => Table.set 0 x (ua + e.1) e.2) m.mem }

/-- The device writes bytes at a virtual address of a partition; an unmapped one drops them. -/
def Store.deviceWrite (m : Store) (part va : Nat) (b : List Byte) : Store :=
  match m.translate part va with
  | none => m
  | some ua => (m.enliven ua b.length).put ua b (coveredWords ua b.length)

/-- The parts of a range, as (address, length), each within one 64 KiB page. -/
def pageSpans (va n : Nat) : List (Nat × Nat) :=
  if n = 0 then []
  else (List.range ((va + n - 1) / 65536 + 1 - va / 65536)).map fun i =>
    let lo := max va ((va / 65536 + i) * 65536)
    (lo, min (va + n) ((va / 65536 + i + 1) * 65536) - lo)

/-- A read by the device of a range of a partition's space meets its uncorrectable words (R74). -/
def Store.meetRange (m : Store) (part va n : Nat) : Store :=
  (pageSpans va n).foldl (fun (m : Store) p => match m.translate part p.1 with
    | some ua => (eccWords ua p.2).foldl Store.meet m
    | none => m) m

/-- The device reads bytes at a virtual address of a partition; an unmapped one reads zero. DEDUCED, safe (log 100). -/
def Store.deviceRead (m : Store) (part va n : Nat) : List Byte :=
  match m.translate part va with
  | none => List.replicate n 0
  | some ua => m.peek ua n

/-- The right bits of R65. -/
def rightRead : Nat := 0
def rightWrite : Nat := 1
def rightAtomic : Nat := 2

/-- Does a rights field hold this bit? -/
def hasRight (rights bit : Nat) : Bool := rights.testBit bit

/-- The check of one global address of `n` bytes (R62, R65, R351): why it fails, as (cause, REASON). `windows` says that the
instruction may touch a remote window (R348); `area` that it may reach a team area (R196). -/
def State.globalFault (s : State) (part ea n right : Nat) (windows area : Bool) : Option (Nat × Nat) :=
  if 2 ^ 56 ≤ ea then some (0x0A, 2)
  else if ea % n ≠ 0 then some (0x0A, 1)
  else match s.window part ea with
    | some w =>
      if !windows then some (0x09, 5)
      else if !hasRight w.rights right then some (0x09, 4)
      else if w.va + w.len < ea + n then some (0x09, 6)
      else none
    | none =>
      match s.m.mapping part ea with
      | none => some (0x08, 3)
      | some p => if !hasRight p.rights right || (p.area && !area) then some (0x09, 4) else none

/-- The place of a move's source, if it is one. -/
def Move.from? (m : Move) : Option Loc :=
  match m.src with
  | .at l => some l
  | _ => none

/-- The global accesses of a move that translation checks: address and right (R65, R360). -/
def Move.global (m : Move) : List (Nat × Nat) :=
  (match m.from? with
   | some l => if l.space = 3 && m.dst.isSome then [(l.addr, rightRead)] else []
   | none => []) ++
  (match m.dst with
   | some l => if l.space = 3 then [(l.addr, rightWrite)] else []
   | none => [])

/-- The accesses of a pending operation to this device's global memory that are still to be performed, each with its unified address and
whether it writes: of an engine operation those of its translated units; one whose bytes a peer is to send still writes them (R16, R69). -/
def Op.homes (o : Op) : List (Nat × Bool) :=
  let of := fun (writes : Bool) (acc : List LaneAcc) => (acc.filter fun a => !a.done && a.win.isNone).map fun a => (a.ua, writes)
  if o.done || o.parked then []
  else match o.work with
    | .load _ _ _ acc => of false acc
    | .store 3 _ acc => of true acc
    | .atomic 3 _ _ _ _ _ acc => of true acc
    | .engine units _ true _ => ((units.filter fun u => !u.settled).map fun u =>
        ((u.moves.map Move.global).flatten.map fun h => (h.1, decide (h.2 = rightWrite))).filter fun h => u.tag.isNone || h.2).flatten
    | .texture _ _ ls => (ls.map fun l => l.2.map fun p => (p.2.1, false)).flatten
    | _ => []

/-- Is an access in flight to this granule? Its demotion does not commit before. DEDUCED, safe (log 19). -/
def State.inUse (s : State) (g : Nat) : Bool := s.trains.any fun t => t.c.ops.any fun o => o.homes.any fun h => granuleOf h.1 = g

/-- TRAPINFO of the memory causes (R63). -/
def memInfo (reason space addr : Nat) : Dword := BitVec.ofNat 64 (reason % 16 * 2 ^ 60 + space % 16 * 2 ^ 56 + addr % 2 ^ 56)

/-- One lane's failed check. -/
structure LaneFault where
  lane   : Nat
  cause  : Nat
  reason : Nat
  addr   : Nat
  deriving DecidableEq, Repr

/-- The trap of a whole instruction from its lanes' failed checks: cause, TRAPLANES and TRAPINFO (R62, R63). -/
def worstFault (space : Nat) (fs : List LaneFault) : Option (Nat × Mask × Dword) :=
  let top := fun c => fs.filter fun f => f.cause = c
  let pick := fun (l : List LaneFault) => match l with
    | [] => none
    | f :: _ => some (f.cause, maskOf (l.map LaneFault.lane) fun _ => true, memInfo f.reason space f.addr)
  pick (top 0x0A) <|> pick (top 0x08) <|> pick (top 0x09)

end Sys2Proof.Machine
end

