-- ==== Sys2Proof/Machine/Resid.lean ====
section
/-! DEFINITION. Migration commits, and the residency of object nodes: paths, walks, commits, requests and evictions
(R69 to R71, R78, R80 to R98). -/
namespace Sys2Proof.Machine

/-- The issue epoch increases by 1 (R80). -/
def Store.advance (m : Store) : Store := { m with epoch := m.epoch + 1 }

/-- A promotion commits: the deep location passes to the quarantine queue with the event's epoch (R70, R80, R81). -/
def Store.promotionCommit (m : Store) (part g : Nat) : Store :=
  let loc := ((m.gran g).bind Gran.loc).getD 0
  Store.advance { m.onGran g (fun e => { e with loc := none }) with
    quarantine := m.quarantine ++ [⟨2, part, loc, 65536, m.epoch⟩] }

/-- A demotion commits: the frame passes to the quarantine queue (R70, R80, R81). -/
def Store.demotionCommit (m : Store) (part g : Nat) : Store :=
  let frame := ((m.gran g).bind Gran.frame).getD 0
  Store.advance { m.onGran g (fun e => { e with frame := none }) with
    quarantine := m.quarantine ++ [⟨1, part, frame, 65536, m.epoch⟩] }

/-- START_PROMOTION of a deep granule; that of a dormant one commits at once (R69, R78). -/
def Store.promote (m : Store) (g : Nat) : Store :=
  match m.gran g with
  | none => m
  | some e =>
    let m := m.onGran g fun e => e.promote ((leastFree 1 m.framesHeld).headD 0)
    if e.dormant then m.promotionCommit e.part g else m

/-- The start of a demotion; a dormant granule demotes at once, with no copy (R70, R78). -/
def Store.demote (m : Store) (g : Nat) : Store :=
  match m.gran g with
  | none => m
  | some e =>
    let loc := (leastFree 1 m.locsHeld).head?
    if e.dormant then (m.onGran g fun e => { e with tier := .deep, lines := [], filling := false, loc := loc }).demotionCommit e.part g
    else m.onGran g fun e => { e with tier := .demoting, lines := [], loc := loc }

/-- A demotion is cancelled: the partial deep copy is discarded (R70). -/
def Store.cancel (m : Store) (g : Nat) : Store := m.onGran g fun e => { e with tier := .fast, lines := [], loc := none }

/-- The tier state of a granule. -/
def Store.tierOf (m : Store) (g : Nat) : Option Tier := (m.gran g).map Gran.tier

/-- The object of a partition's directory (R82). -/
def State.object (s : State) (part handle : Nat) : Option Object := s.o.objects.find? fun o => o.part = part && o.handle = handle

/-- Change an object. -/
def State.onObject (s : State) (part handle : Nat) (f : Object → Object) : State :=
  { s with o := { s.o with objects := s.o.objects.map fun o => if o.part = part && o.handle = handle then f o else o } }

/-- A node of an object; one that does not exist reads as an empty record. -/
def Object.node (o : Object) (n : Nat) : Node := o.nodes.getD n ⟨0, 0, 1, [], .absent, 0⟩

/-- Change a node. -/
def Object.onNode (o : Object) (n : Nat) (f : Node → Node) : Object :=
  { o with nodes := o.nodes.zipIdx.map fun (x, i) => if i = n then f x else x }

/-- The granules of a node's payload (R83). -/
def Store.payload (m : Store) (part : Nat) (n : Node) : List Nat :=
  (List.range n.granules).filterMap fun i => (m.translate part (n.payload + 65536 * i)).map granuleOf

/-- Digit j of a key (R86). -/
def digit (key : Word) (j : Nat) : Nat := natBits key.toNat (2 * j) 2

/-- The path of a key below node `n` at depth `j`, at most `fuel` nodes long (R86). -/
def Object.pathFrom (o : Object) (key : Word) : Nat → Nat → Nat → List Nat
  | 0, _, _ => []
  | fuel + 1, n, j =>
    let child := (o.node n).children.getD (digit key j) 0
    if j < 16 && child != 0 then n :: o.pathFrom key fuel child (j + 1) else [n]

/-- PATH: the path of a key, root first (R86). -/
def Object.path (o : Object) (key : Word) : List Nat := o.pathFrom key 17 0 0

/-- Is a node's error within a tolerance? A NaN fails (R87). -/
def Object.within (o : Object) (tol : Word) (n : Nat) : Bool :=
  let x := decodeF f32 (o.node n).error.toNat
  let y := decodeF f32 tol.toNat
  ltF x y || eqF x y

/-- Is a node resident (R93)? -/
def Object.resident (o : Object) (n : Nat) : Bool := (o.node n).state = .resident

/-- A walk: the node returned, its depth, and whether it falls short (R87). -/
def Object.walk (o : Object) (p : List Nat) (tol : Word) : Nat × Nat × Bool :=
  let q := p.zipIdx
  match q.find? fun x => o.resident x.1 && o.within tol x.1 with
  | some (n, j) => (n, j, false)
  | none => match q.reverse.find? fun x => o.resident x.1 with
    | some (n, j) => (n, j, true)
    | none => (0, 0, true)

/-- The target of a refinement below depth `j` (R89). -/
def Object.target (o : Object) (p : List Nat) (j : Nat) (tol : Word) : Option Nat :=
  let below_ := p.drop (j + 1)
  (below_.find? fun n => o.within tol n) <|> below_.getLast?

/-- What waits for an outcome at a node receives it: with the generation given, or with the one that its own walk observed (R92). -/
def Work.answer (part handle node : Nat) (evict : Bool) (opPart status : Nat) (gen : Option Nat) : Work → Work
  | .request d ws => .request d (ws.map fun w =>
      if opPart = part && w.handle = handle && w.node = node && w.evict = evict && w.outcome.isNone then
        { w with outcome := some (status, gen.getD w.gen) } else w)
  | w => w

/-- Every `oreq` lane that waits at a node receives its status and generation (R92). -/
def State.answerAt (s : State) (part handle node : Nat) (evict : Bool) (status : Nat) (gen : Option Nat) : State :=
  s.mapTrains (fun _ => true) fun t =>
    { t with c := { t.c with ops := t.c.ops.map fun o =>
      { o with work := o.work.answer part handle node evict t.i.part status gen } } }

/-- Does some `oreq` lane wait at a node? -/
def State.waitsAt (s : State) (part handle node : Nat) (evict : Bool) : Bool :=
  s.trains.any fun t => t.i.part = part && t.c.ops.any fun o => match o.work with
    | .request _ ws => ws.any fun w => w.handle = handle && w.node = node && w.evict = evict && w.outcome.isNone
    | _ => false

/-- A commit: the node's state changes and GEN increases by 1 (R94). -/
def State.commitNode (s : State) (part handle node : Nat) (st : Residency) : State :=
  s.onObject part handle fun o => { (o.onNode node fun n => { n with state := st }) with gen := o.gen + 1 }

/-- Evicting ends: every payload granule has been demoted or its demotion cancelled (R93). -/
def State.evictEnd (s : State) (part handle node : Nat) : State :=
  match s.object part handle with
  | none => s
  | some o =>
    let n := o.node node
    if n.state = .evicting && !((s.m.payload part n).any fun g => s.m.tierOf g == some .demoting) then
      s.onObject part handle fun o => o.onNode node fun n => { n with state := .absent }
    else s

/-- Can a granule be demoted: is there a deep location for it, and are the spare blocks enough (R30, R73)? -/
def State.canDemote (s : State) (part : Nat) : Bool := !s.k.flashFull && 0 < s.deepRoom part

/-- A resident node starts to be evicted: the commit, then its granules' demotions (R93, R98). A granule with no deep location stays
fast, as one whose demotion was cancelled; so does a dormant one, which would demote at once, while an access to it is in flight. DEDUCED,
safe (log 32). -/
def State.evictNode (s : State) (part handle node : Nat) : State :=
  match s.object part handle with
  | none => s
  | some o =>
    let s := s.commitNode part handle node .evicting
    let gs := s.m.payload part (o.node node)
    let s := gs.foldl (fun (u : State) g => if u.canDemote part && u.m.tierOf g == some .fast && !(u.m.dormant (g * 65536) && u.inUse g) then { u with m := u.m.demote g } else u) s
    s.evictEnd part handle node

/-- `oreq.evict` is evaluated at a node that is not promoting: its status and generation, and the state after it (R92, R93). The root is
refused with status 3 even while it is pinned, where status 2 fits it too. DESIGN CHOICE, unsafe (log 118). -/
def State.evictNow (s : State) (part handle node : Nat) : State × Option (Nat × Nat) :=
  match s.object part handle with
  | none => (s, some (1, 0))
  | some o =>
    if node = 0 then (s, some (3, o.gen))
    else match (o.node node).state with
      | .promoting => (s, none)
      | .resident => if (o.node node).pins = 0 then (s.evictNode part handle node, some (0, o.gen + 1)) else (s, some (2, o.gen))
      | _ => (s, some (1, o.gen))

/-- A promoting node commits once every payload granule is fast; merged requests complete, and a waiting `oreq.evict` is evaluated
again (R93). -/
def State.promoteEnd (s : State) (part handle node : Nat) : State :=
  match s.object part handle with
  | none => s
  | some o =>
    let n := o.node node
    if n.state = .promoting && (s.m.payload part n).all fun g => s.m.tierOf g == some .fast then
      let s := s.commitNode part handle node .resident
      let s := s.answerAt part handle node false 0 (some (o.gen + 1))
      if s.waitsAt part handle node true then
        match s.evictNow part handle node with
        | (s, some (st, gen)) => s.answerAt part handle node true st (some gen)
        | (s, none) => s
      else s
    else s

/-- The node that owns a granule, as (handle, node). -/
def State.ownerOf (s : State) (part g : Nat) : Option (Nat × Nat) :=
  s.o.objects.findSome? fun o =>
    if o.part = part then
      (o.nodes.zipIdx.find? fun (n, _) => (s.m.payload part n).contains g).map fun (_, i) => (o.handle, i)
    else none

/-- After a granule's tier state has changed, its node may commit or end its eviction (R93). -/
def State.settleNode (s : State) (part g : Nat) : State :=
  match s.ownerOf part g with
  | none => s
  | some (h, n) => (s.promoteEnd part h n).evictEnd part h n

/-- An access by a partition to the line of unified address `ua` meets the tier map (R69): the state after it, or none where the
granule is deep and no frame is free, the parking failure of R66. -/
def State.homeAccess (s : State) (ua : Nat) (writes : Bool) : Option State :=
  let g := granuleOf ua
  let line := lineOf ua % 256
  let meet := fun (s : State) => { s with m := s.m.onGran g fun e => e.access line writes }
  match s.m.gran g with
  | none => some s
  | some e =>
    match e.tier with
    | .deep => if s.frameFree e.part then some (meet { s with m := s.m.promote g }) else none
    | .demoting => if writes then some ((meet s).settleNode e.part g) else some s
    | _ => some (meet s)

/-- The places of an access meet the tier map one after another (R69); the flag says that none found a deep granule and no free frame. -/
def State.meetPlaces (s : State) : List (Nat × Bool) → State × Bool
  | [] => (s, true)
  | (ua, w) :: ps => match s.homeAccess ua w with
    | none => (s, false)
    | some u => u.meetPlaces ps

/-- Does an access to this line need a pull: its granule is deep, or promoting with the line still to come (R69)? -/
def Store.needsPull (m : Store) (ua : Nat) : Bool :=
  match m.gran (granuleOf ua) with
  | some e => e.tier = .deep || (e.tier = .promoting && !e.lines.contains (lineOf ua % 256))
  | none => false

/-- May a granule be chosen as a victim: unpinned, fast, and not of a pinned or promoting node or of a root (R71, R98)? -/
def State.evictable (s : State) (part g : Nat) : Bool :=
  match s.m.gran g with
  | none => false
  | some e =>
    e.part = part && e.tier = .fast && !e.filling && !e.pinned && s.canDemote part && !(e.dormant && s.inUse g) &&
    (match s.ownerOf part g with
     | none => true
     | some (h, n) => match s.object part h with
       | none => true
       | some o => n != 0 && (o.node n).pins = 0 && (o.node n).state != .promoting)

/-- Has a partition a candidate for eviction (R98)? -/
def State.anyEvictable (s : State) (part : Nat) : Bool := s.m.tier.any fun e => s.evictable part e.1

/-- REFINE posts a request, by `ldo` or by `oreq`: it merges with one for a node promoting, resident or queued; a full queue drops and
counts it (R89). The flag says that it was not dropped. -/
def State.postRefine (s : State) (part handle node : Nat) (ldo : Bool) : State × Bool :=
  match s.part part, s.object part handle with
  | some p, some o =>
    let st := (o.node node).state
    let same := fun (r : Nat × Nat × Bool) => r.1 = handle && r.2.1 = node
    if st = .promoting || st = .resident then (s, true)
    else if p.refine.any same then
      (s.onPart part fun p => { p with refine := p.refine.map fun r => if same r then (handle, node, r.2.2 || ldo) else r }, true)
    else if 4096 ≤ p.refine.length then (s.onPart part fun p => { p with drops := p.drops + 1 }, false)
    else (s.onPart part fun p => { p with refine := p.refine ++ [(handle, node, ldo)] }, true)
  | _, _ => (s, false)

/-- A refinement request leaves its queue. -/
def State.dequeue (s : State) (part : Nat) : State := s.onPart part fun p => { p with refine := p.refine.drop 1 }

/-- The promotion of a node starts: every payload granule becomes fast (R70, R93). -/
def State.promoteNode (s : State) (part handle node : Nat) (gs : List Nat) : State :=
  let s := s.onObject part handle fun o => o.onNode node fun n => { n with state := .promoting }
  let s := gs.foldl (fun (u : State) g => match u.m.tierOf g with
    | some .deep => { u with m := u.m.promote g }
    | some .demoting => { u with m := u.m.cancel g }
    | _ => u) s
  s.promoteEnd part handle node

/-- The shunter serves the first request of a partition's refinement queue by promoting its target (R89, R93). An evicting target
waits for its demotion; with no free frame it waits for an eviction while there is a candidate, and is refused when there is none: status
4 to `oreq`, with the generation observed, and one that an `ldo` posted or merged with is dropped and counted (R92, R98). Subject:
partition. DEDUCED, safe (log 33). -/
def execRefineServe (s : State) : Host.Outcome State Fault Refusal :=
  let part := s.subject.a
  match s.part part with
  | some p =>
    match p.refine with
    | (h, n, ldo) :: _ =>
      match s.object part h with
      | some o =>
        match (o.node n).state with
        | .absent =>
          let gs := s.m.payload part (o.node n)
          let need := (gs.filter fun g => s.m.tierOf g == some .deep).length
          if s.m.framesUsed part + need ≤ s.frames part then .next ((s.dequeue part).promoteNode part h n gs)
          else if s.anyEvictable part then .next s
          else
            let s := s.dequeue part
            let s := if ldo then s.onPart part fun p => { p with drops := p.drops + 1 } else s
            .next (s.answerAt part h n false 4 none)
        | .evicting => .next s
        | .promoting => .next (s.dequeue part)
        | .resident => .next ((s.dequeue part).answerAt part h n false 0 (some o.gen))
      | none => .next (s.dequeue part)
    | [] => .next s
  | none => .next s

end Sys2Proof.Machine
end

