-- ==== Sys2Proof/Machine/Alloc.lean ====
section
/-! DEFINITION. Giving out and taking back addresses, frames and pages (R54, R59, R64, R70, R71, R80, R81, R196, R367). -/
namespace Sys2Proof.Machine

/-- The next multiple of `a` at or above `n`. -/
def alignUp (n a : Nat) : Nat := (n + a - 1) / a * a

/-- The granules that hold `n` bytes from a granule's start. -/
def granulesFor (n : Nat) : Nat := alignUp n 65536 / 65536

/-- A free range of unified addresses of this length and alignment: one that has left the quarantine queue, wiped, or the next never
used. The flag says that released pages are reused (R80, R81). -/
def Store.takeUa (m : Store) (len align : Nat) : Store × Nat × Bool :=
  match m.freeUa.findIdx? fun e => alignUp e.1 align + len ≤ e.1 + e.2 with
  | some i =>
    let e := m.freeUa.getD i (0, 0)
    let ua := alignUp e.1 align
    let rest := [(e.1, ua - e.1), (ua + len, e.1 + e.2 - (ua + len))].filter fun r => r.2 != 0
    ({ m with freeUa := m.freeUa.eraseIdx i ++ rest }.wipe ua len, ua, true)
  | none =>
    let ua := alignUp m.nextUa align
    ({ m with nextUa := ua + len }, ua, false)

/-- The taken ranges of a partition's global space: pages and remote windows. -/
def State.taken (s : State) (part : Nat) : List (Nat × Nat) :=
  ((s.m.maps.filter fun p => p.part = part).map fun p => (p.va, p.len)) ++
  ((s.k.windows.filter fun w => w.part = part).map fun w => (w.va, w.len))

/-- Does a range meet none of these? -/
def clearOf (rs : List (Nat × Nat)) (va len : Nat) : Bool := rs.all fun e => va + len ≤ e.1 || e.1 + e.2 ≤ va

/-- The lowest free place of this length and alignment for what the device places in a partition's global space (R54). DESIGN CHOICE, safe (log 16). -/
def State.freshVa (s : State) (part len align : Nat) : Nat :=
  let rs := s.taken part
  let starts := (Config.deviceBase :: rs.map fun e => max Config.deviceBase (e.1 + e.2)).map fun v => alignUp v align
  (starts.filter fun v => clearOf rs v len).foldl min (2 ^ 64)

/-- Granules in their order, each with the next of these frames, or of these deep-tier locations when it starts deep (R68). -/
def placeGrans : List Gran → List Nat → List Nat → List Gran
  | [], _, _ => []
  | e :: es, fs, ls =>
    if e.tier = .deep then { e with loc := ls.head? } :: placeGrans es fs (ls.drop 1)
    else { e with frame := fs.head? } :: placeGrans es (fs.drop 1) ls

/-- Granules `g`, `g + 1`, … of a partition enter the tier map with these records (R68). -/
def Store.addGrans (m : Store) (g : Nat) (gs : List Gran) : Store :=
  let placed := placeGrans gs (leastFree gs.length m.framesHeld) (leastFree gs.length m.locsHeld)
  { m with tier := m.tier ++ placed.zipIdx.map fun (e, i) => (g + i, e) }

/-- A granule of a partition as it enters the tier map, before it has its frame or location. -/
def Gran.start (part : Nat) (tier : Tier) (dormant pinned : Bool) : Gran := ⟨part, tier, [], [], dormant, false, pinned, none, none⟩

/-- A pinned fast granule (R59). -/
def Gran.held (part : Nat) : Gran := Gran.start part .fast false true

/-- `n` pinned granules of a partition with fresh unified addresses from `align` on; their bytes read zero (R59, R136). -/
def State.takePinned (s : State) (part n align : Nat) : State × Nat × Bool :=
  let (m, ua, reused) := s.m.takeUa (n * 65536) align
  ({ s with m := m.addGrans (granuleOf ua) (List.replicate n (Gran.held part)) }, ua, reused)

/-- Map `bytes` at `va` as held pages of 64 KiB with these rights (R54, R59). -/
def State.holdPages (s : State) (part va bytes rights : Nat) (area : Bool) : State × Bool :=
  if bytes = 0 then (s, false)
  else
    let n := granulesFor bytes
    let (s, ua, reused) := s.takePinned part n 65536
    ({ s with m := { s.m with maps := s.m.maps ++ [⟨part, va, n * 65536, ua, 65536, rights, false, 0, true, area, true⟩] } }, reused)

/-- The frames of a partition that nothing holds. -/
def State.freeFrames (s : State) (part : Nat) : Nat := s.frames part - s.m.framesUsed part

/-- Is a granule pinned by its page, by a pin of its node, or as a root's payload (R71)? -/
def State.pinned (s : State) (part g : Nat) : Bool :=
  match s.m.gran g with
  | none => false
  | some e => e.pinned || (match s.ownerOf part g with
    | none => false
    | some (h, n) => match s.object part h with
      | none => false
      | some o => n = 0 || (o.node n).pins != 0)

/-- Can the partition pin `n` more granules: do they fit the HBM5 share with those pinned already, and can the deep-tier share take
what would have to be evicted (R367)? A granule that is being demoted has its place there already. -/
def State.pinsFit (s : State) (part n : Nat) : Bool :=
  let mine := s.m.tier.filter fun e => e.2.part = part
  let fast := (mine.filter fun e => e.2.tier != .deep && e.2.tier != .demoting).length
  let need := fast + n - s.frames part
  (mine.filter fun e => s.pinned part e.1).length + n ≤ s.frames part && (need = 0 || (!s.k.flashFull && need ≤ s.deepRoom part))

/-- A partition's deep-tier share in granules (R30). -/
def State.deepShare (s : State) (part : Nat) : Nat := ((s.part part).map fun p => p.deep * 1048576).getD 0

/-- Do `n` more granules fit the partition's shares together (R71)? -/
def State.sharesFit (s : State) (part n : Nat) : Bool :=
  (s.m.tier.filter fun e => e.2.part = part).length + n ≤ s.frames part + s.deepShare part

/-- What a granule passes to the quarantine queue when its page is freed (R70, R81). -/
def Gran.freed (e : Gran) (epoch : Nat) : List Quarantined :=
  (if e.tier = .deep then [] else [⟨1, e.part, e.frame.getD 0, 65536, epoch⟩]) ++
  (if e.tier = .fast then [] else [⟨2, e.part, e.loc.getD 0, 65536, epoch⟩])

/-- The pages of a range of unified addresses are freed at the current epoch (R70, R81). -/
def Store.release (m : Store) (part ua len : Nat) : Store :=
  let inside := fun (e : Nat × Gran) => ua ≤ e.1 * 65536 && e.1 * 65536 < ua + len
  let out := m.tier.filter inside
  { m with tier := m.tier.filter fun e => !inside e,
           quarantine := m.quarantine ++ ⟨0, part, ua, len, m.epoch⟩ :: (out.map fun e => e.2.freed m.epoch).flatten }

/-- What is left of a mapping without a range of its addresses. -/
def Mapping.without (p : Mapping) (va len : Nat) : List Mapping :=
  if p.va + p.len ≤ va || va + len ≤ p.va then [p]
  else
    (if p.va < va then [{ p with len := va - p.va }] else []) ++
    (if va + len < p.va + p.len then [{ p with va := va + len, ua := p.ua + (va + len - p.va), len := p.va + p.len - (va + len) }] else [])

/-- A range is unmapped: its pages are freed at this event's epoch, and the epoch increases (R64, R80, R81). -/
def Store.unmapRange (m : Store) (part va len : Nat) : Store :=
  let cut := m.maps.filter fun p => p.part = part && p.va < va + len && va < p.va + p.len
  let m := cut.foldl (fun (m : Store) p =>
    let lo := max va p.va
    let hi := min (va + len) (p.va + p.len)
    m.release part (p.ua + (lo - p.va)) (hi - lo)) m
  Store.advance { m with maps := (m.maps.map fun p => if p.part = part then p.without va len else [p]).flatten }

/-- Bytes of a team area (R196). -/
def areaBytes : Nat := 0x6F0000

/-- A team gives back its area and its private pages (R143, R196). -/
def State.releaseTeam (s : State) (grid idx : Nat) : State :=
  match s.team grid idx, s.grid grid with
  | some m, some g =>
    if m.area = 0 && m.frames.isEmpty then s
    else
      let st := m.frames.foldl (fun (x : Store) f => x.release g.part (f * 65536) 65536) s.m
      let st := if m.area = 0 then st.advance else st.unmapRange g.part m.area areaBytes
      { s with m := st }.onTeam grid idx fun m => { m with area := 0, frames := [] }
  | _, _ => s

/-- Device-held granules outside the global space, `n` of them, with their numbers (R59, R201, R249). -/
def State.takeHidden (s : State) (part n : Nat) : State × List Nat :=
  let (s, ua, _) := s.takePinned part n 65536
  (s, (List.range n).map fun i => granuleOf ua + i)

/-- They are given back. -/
def State.giveHidden (s : State) (part : Nat) (gs : List Nat) : State :=
  if gs.isEmpty then s else { s with m := (gs.foldl (fun (x : Store) f => x.release part (f * 65536) 65536) s.m).advance }

/-- Is an operation an access in flight? An engine operation is one once it has been translated; an access that is parked has left
(R66, R80). -/
def Op.inFlight (o : Op) : Bool :=
  !o.done && !o.parked && (match o.work with
    | .engine _ _ translated _ => translated
    | .load .. => true
    | .store space _ _ => space = 3
    | .atomic space .. => space = 3
    | .texture .. => true
    | _ => false)

/-- The quiescence counter: the smallest epoch of any access in flight, or E (R80). -/
def State.quiescence (s : State) : Nat :=
  (s.trains.map fun t => (t.c.ops.filter Op.inFlight).map Op.epoch).flatten.foldl min s.m.epoch

/-- A lane's access as issued: translated, or as an offset in its remote window (R80). DESIGN CHOICE, safe (log 17). -/
def State.laneAcc (s : State) (ea x y lane : Nat) : LaneAcc :=
  match s.window s.t.i.part ea with
  | some w => ⟨lane, ea, ea - w.va, x, y, some w.uid, none, false⟩
  | none => ⟨lane, ea, (s.m.translate s.t.i.part ea).getD 0, x, y, none, none, false⟩

/-- A late record of an operation: its cause in these lanes (R181). -/
def Op.record (o : Op) (cause : Nat) (m : Mask) (info : Dword) : Rec :=
  ⟨BitVec.ofNat 8 cause, m, info, o.pc, o.region, o.count, o.age, true⟩

/-- A lane's access that issues again, translated again (R80); one already performed, or sent to a peer, stays. -/
def State.reissueLane (s : State) (a : LaneAcc) : LaneAcc := if a.done || a.tag.isSome then a else s.laneAcc a.va a.x a.y a.lane

/-- Why the lanes of a global access that issues again fail now: pages unmapped or without the right (R80). -/
def State.reissueFaults (s : State) (o : Op) (n right : Nat) (acc : List LaneAcc) : Option (Nat × Mask × Dword) :=
  worstFault 3 ((acc.filter fun a => !a.done && a.tag.isNone).filterMap fun a =>
    (s.globalFault s.t.i.part a.va n right (right = rightAtomic) o.prv).map fun f => ⟨a.lane, f.1, f.2, a.va⟩)

/-- An access of the train on the issue stage issues again, under the epoch of now: a store of the store-buffer image (R199), or an access
that was parked (R66). One whose page is no longer mapped is not performed and raises its record (R80). -/
def State.reissue (s : State) (o : Op) : Op :=
  let o := { o with epoch := s.m.epoch, parked := false }
  let failed := fun (f : Nat × Mask × Dword) => { o with done := true, stop := some (o.record f.1 f.2.1 f.2.2) }
  match o.work with
  | .load n signed d acc => match s.reissueFaults o n rightRead acc with
    | some f => failed f
    | none => { o with work := .load n signed d (acc.map s.reissueLane) }
  | .store 3 n acc => match s.reissueFaults o n rightWrite acc with
    | some f => failed f
    | none => { o with work := .store 3 n (acc.map s.reissueLane) }
  | .atomic 3 wide cas ret aop d acc => match s.reissueFaults o (if wide then 8 else 4) rightAtomic acc with
    | some f => failed f
    | none => { o with work := .atomic 3 wide cas ret aop d (acc.map s.reissueLane) }
  | .texture format d ls => match s.reissueFaults o 1 rightRead (ls.map fun l => l.2.map fun p => s.laneAcc p.1 0 0 l.1).flatten with
    | some f => failed f
    | none => { o with work := .texture format d (ls.map fun l =>
        (l.1, l.2.map fun p => (p.1, (s.m.translate s.t.i.part p.1).getD 0, p.2.2))) }
  | _ => o

/-- The same, its granules met with every lane still to be performed: with a deep one and no free frame none of them is, and the operation
parks whole (R66, R69). -/
def State.reissueMet (s : State) (o : Op) : State × Op :=
  let o := s.reissue o
  if o.done then (s, o)
  else
    let o := { o with pulled := o.pulled || o.homes.any fun h => s.m.needsPull h.1 }
    match s.meetPlaces o.homes with
    | (u, true) => (u, o)
    | (u, false) => (u, { o with parked := true })

/-- Operations issue again in their order. -/
def State.reissueAll (s : State) : List Op → State × List Op
  | [] => (s, [])
  | o :: os =>
    let (s, o) := s.reissueMet o
    let (s, os) := s.reissueAll os
    (s, o :: os)

/-- Is an operation pending that needed a pull (R72)? -/
def Train.pulling (t : Train) : Bool := t.c.ops.any fun o => o.pulled && !o.done

/-- Is a train of the core stalled now: parked, or held at its last attempt to issue while an operation of it waits for a pull (R72)? -/
def State.stalled (s : State) (core : Nat) : Bool :=
  s.trains.any fun t => t.core = core && t.life = .running &&
    (t.d.slot0.parked.isSome || t.d.slot1.parked.isSome || t.c.ops.any Op.parked || (t.pulling && (s.core core).blocked.contains t.i.id))

/-- A core's tier-stall counter moves on when a train of it has been stalled since it was last read; by how many cycles is open (R72).
DESIGN CHOICE, safe (log 62). -/
def State.countStall (s : State) (core : Nat) : State :=
  if (s.core core).pulls then
    s.onCore core fun c => { c with stall := c.stall + Config.stallGap core s.tick, pulls := s.stalled core }
  else s

/-- A core's load latency counter moves on between two readings; by how much is open (R79). DESIGN CHOICE, safe (log 62). -/
def State.countLatency (s : State) (core : Nat) : State :=
  s.onCore core fun c => { c with latency := c.latency + Config.latencyGap core s.tick }

/-- A train of the core is stalled (R72). -/
def State.notePull (s : State) (core : Nat) : State :=
  if (s.core core).pulls then s else s.onCore core fun c => { c with pulls := true }

/-- The same where a train of the core is stalled now. -/
def State.noteStall (s : State) (core : Nat) : State := if s.stalled core then s.notePull core else s

end Sys2Proof.Machine
end

