-- ==== Sys2Proof/Machine/Flight.lean ====
section
/-! DEFINITION. Rays in flight and how they leave it (R249, R253, R257). -/
namespace Sys2Proof.Machine

/-- The batch that the yard launched a grid for. -/
def State.batchOf (s : State) (g : Grid) : Option Batch := if g.parent.isNone then none else s.y.batches.find? fun b => b.num = g.batch

/-- Is this the ray of a set, in a partition, with this index? -/
def Ray.is (r : Ray) (set part index : Nat) : Bool := r.set.addr = set && r.set.part = part && r.index = index

/-- The ray in flight of a set with this index. -/
def State.ray (s : State) (set part index : Nat) : Option Ray := s.y.rays.find? fun r => r.is set part index

/-- Change a ray in flight. -/
def State.onRay (s : State) (set part index : Nat) (f : Ray → Ray) : State :=
  { s with y := { s.y with rays := s.y.rays.map fun r => if r.is set part index then f r else r } }

/-- The rays that the lanes of a yard train take, as (lane, ray index, slot or KIND) (R253). -/
def batchLanes (b : Batch) (train width : Nat) : List (Nat × Nat × Nat) :=
  ((b.members.drop (train * width)).take width).zipIdx.map fun (m, l) => (l, m.1, m.2)

/-- Does some ray of a scene remain in flight (R249)? -/
def State.sceneBusy (s : State) (part scene : Nat) : Bool := s.y.rays.any fun r => r.set.part = part && r.set.scene = scene

/-- An open batch without a ray. -/
def Batch.without (b : Batch) (r : Ray) : Batch :=
  if b.launched.isNone && b.set.addr = r.set.addr && b.set.part = r.set.part then
    { b with members := b.members.filter fun m => m.1 != r.index }
  else b

/-- The scene slots in use, without a scene's. -/
def Yard.freeScene (y : Yard) (part scene : Nat) : Yard :=
  { y with scenes := y.scenes.filter fun e => !(e.2.1 = part && e.2.2 = scene) }

/-- A ray leaves flight: no open batch keeps it; its scene's slot is free when it was the last, and so is its set's platform space
(R249, R257). -/
def State.leaveFlight (s : State) (r : Ray) : State :=
  let s := { s with y := { s.y with
    rays := s.y.rays.filter fun o => !o.is r.set.addr r.set.part r.index,
    batches := s.y.batches.map fun b => b.without r } }
  let s : State := if s.sceneBusy r.set.part r.set.scene then s else { s with y := s.y.freeScene r.set.part r.set.scene }
  if s.y.rays.any fun o => o.set.addr = r.set.addr && o.set.part = r.set.part && o.place != .offered then s
  else
    let mine := fun (e : Nat × Nat × List Nat) => e.1 = r.set.part && e.2.1 = r.set.addr
    let gs := (s.y.space.filter mine).map fun e => e.2.2
    State.giveHidden { s with y := { s.y with space := s.y.space.filter fun e => !mine e } } r.set.part gs.flatten

/-- The end of a hit or miss train takes its rays out of flight (R257). -/
def State.trainRays (s : State) (t : Train) : State :=
  match (s.grid t.i.grid).bind s.batchOf with
  | none => s
  | some b =>
    if b.kind = 1 then s
    else (batchLanes b t.i.num t.i.width).foldl (fun (u : State) x => match u.ray b.set.addr b.set.part x.2.1 with
      | some r => if r.batches.contains b.num then u.leaveFlight r else u
      | none => u) s

end Sys2Proof.Machine
end

