-- ==== Sys2Proof/Machine/Trap.lean ====
section
/-! DEFINITION. Raising a trap, its delivery, the end of a train, the return from a handler and the vacating of a team
(R116, R143, R157, R181 to R199). -/
namespace Sys2Proof.Machine

/-- Do something with another train on the issue stage, then bring the first one back. -/
def State.withTrain (s : State) (id : Nat) (f : State → State) : State := (f (s.stage id)).stage s.t.i.id

/-- The numbers of a team's trains. -/
def State.teamTrains (s : State) (grid idx : Nat) : List Nat :=
  (s.trains.filter fun t => t.i.grid = grid && t.i.team = idx && t.life != .ended && t.i.id != 0).map fun t => t.i.id

/-- A pin of a node is released (R90). -/
def State.unpin (s : State) (part : Nat) (pin : Nat × Nat) : State :=
  let f := fun (o : Object) =>
    if o.part = part && o.handle = pin.1 then
      { o with nodes := o.nodes.zipIdx.map fun (n, i) => if i = pin.2 then { n with pins := n.pins - 1 } else n }
    else o
  { s with o := { s.o with objects := s.o.objects.map f } }

/-- Every pin of the train on the issue stage is released, in its partition and in those that its grid has left (R90). -/
def State.releasePins (s : State) : State :=
  let u := s.t.kept.foldl (fun (u : State) p => u.unpin p.1 p.2) s
  (s.t.pins.foldl (fun u p => u.unpin s.t.i.part p) u).onT fun t => { t with pins := [], kept := [] }

/-- The train record's address (R196). -/
def Team.record (m : Team) (num : Nat) : Nat := m.area + 0x10000 + 0x10000 * num

/-- The team header's 256 bits (R197). -/
def headerBits (m : Team) (status cause trains reason : Nat) : Nat :=
  m.grid % 2 ^ 64 * 2 ^ 192 + m.idx % 2 ^ 32 * 2 ^ 160 + m.matrixGen.toNat * 2 ^ 128 + Config.saveVersion * 2 ^ 112 +
  status * 2 ^ 104 + cause * 2 ^ 96 + trains % 256 * 2 ^ 88 + reason * 2 ^ 64 + m.rank % 2 ^ 32 * 2 ^ 32

/-- The device writes a team's header (R197). -/
def State.writeHeader (s : State) (part grid idx status cause reason : Nat) : State :=
  match s.team grid idx with
  | none => s
  | some m =>
    if m.area = 0 then s
    else
      let n := match s.grid grid with
        | some g => g.launch.trains
        | none => 0
      { s with m := s.m.deviceWrite part m.area (bytesOfNat 32 (headerBits m status cause n reason)) }

/-- Put a number into a rising list, once. -/
def insertNat (n : Nat) : List Nat → List Nat
  | [] => [n]
  | m :: ms => if n = m then m :: ms else if n < m then n :: m :: ms else m :: insertNat n ms

/-- A cluster none of whose teams is placed any more, and of which some are vacated, returns to the head of its grid's distribution
order (R142). -/
def State.clusterBack (s : State) (grid cluster : Nat) : State :=
  let ms := s.d.teams.filter fun m => m.grid = grid && m.cluster = cluster
  if (ms.any fun m => m.life = .vacated) && ms.all fun m => m.life != .placed then
    s.onGrid grid fun g => { g with back := insertNat cluster g.back }
  else s

/-- The 512 bits of a context descriptor (R201). -/
def Desc.bits (d : Desc) : Nat :=
  d.seq % 2 ^ 64 * 2 ^ 448 + d.record % 2 ^ 56 * 2 ^ 392 + d.areas % 2 ^ 56 * 2 ^ 328 + d.bytes % 2 ^ 64 * 2 ^ 256 +
    d.teams.length % 2 ^ 32 * 2 ^ 224 + d.version * 2 ^ 208 + d.state * 2 ^ 200 + d.part * 2 ^ 196

/-- The device writes bytes at a unified address of what it holds for itself. -/
def State.putHeld (s : State) (at_ : Nat) (b : List Byte) : State := { s with m := s.m.put at_ b (coveredWords at_ b.length) }

/-- The device writes a context descriptor's 64-byte record (R201). -/
def State.putRecord (s : State) (d : Desc) : State := s.putHeld d.addr (bytesOfNat 64 d.bits)

/-- The device writes a context descriptor's record, its copy of the launch record, whose bits are `launch`, and its array of team areas into what
it holds for it (R121, R201). -/
def State.writeDesc (s : State) (d : Desc) (launch : Nat) : State :=
  ((s.putRecord d).putHeld d.record (bytesOfNat 160 launch)).putHeld d.areas (d.teams.map fun t => bytesOfNat 8 t.2).flatten

/-- The descriptors that `p` names take another STATE, in their records too (R201). -/
def State.setDescs (s : State) (p : Desc → Bool) (st : Nat) : State :=
  let hit := (s.q.descs.filter p).map fun d => { d with state := st }
  hit.foldl (fun (u : State) d => u.putRecord d)
    { s with q := { s.q with descs := s.q.descs.map fun d => if p d then { d with state := st } else d } }

/-- Insert a saved team by its index. -/
def insertTeam (m : Team) : List Team → List Team
  | [] => [m]
  | o :: os => if m.idx < o.idx then m :: o :: os else o :: insertTeam m os

/-- Granules that a grid's context descriptor takes, with its array of team areas (R201). -/
def Grid.descGranules (g : Grid) : Nat := granulesFor (0x200 + 8 * (g.launch.gx * g.launch.gy * g.launch.gz))

/-- Has every team of the grid that was dealt been vacated, none placed, and none left to place for a resume already accepted (R201)? -/
def State.wholeVacated (s : State) (g : Grid) : Bool :=
  let ms := s.d.teams.filter fun m => m.grid = g.seq
  g.life = .started && !g.resumed && (ms.any fun m => m.life = .vacated) && !(ms.any fun m => m.life = .placed)

/-- Does the grid wait for frames for its context descriptor (R367)? -/
def State.descWanted (s : State) (g : Grid) : Bool :=
  s.wholeVacated g && !(s.q.descs.any fun d => d.seq = g.seq && d.part = g.part && d.state != 2)

/-- The grid's context descriptor once every team dealt has been vacated and none is placed (R201): written afresh when a frame is free, or
brought up to date. DEDUCED, safe (log 57). -/
def State.describe (s : State) (seq : Nat) : State :=
  match s.grid seq with
  | none => s
  | some g =>
    let ms := s.d.teams.filter fun m => m.grid = seq
    if !s.wholeVacated g then s
    else
      let saved := ((ms.filter fun m => m.life = .vacated).foldl (fun acc m => insertTeam m acc) []).map fun m => (m.idx, m.area)
      let bytes := ms.foldl (fun n m => n + (if m.area = 0 then 0 else areaBytes) + 65536 * m.frames.length) 0
      match s.q.descs.find? fun d => d.seq = seq && d.part = g.part && d.state != 2 with
      | some d =>
        let d' := { d with state := 1, bytes := bytes, teams := saved }
        State.writeDesc { s with q := { s.q with descs := s.q.descs.map fun e => if e.addr = d.addr then d' else e } } d' g.launch.bits
      | none =>
        let n := g.descGranules
        if s.freeFrames g.part < n then s
        else
          let (s, gs) := s.takeHidden g.part n
          let at_ := (gs.headD 0) * 65536
          let d : Desc := ⟨at_, seq, at_ + 0x100, at_ + 0x200, Config.saveVersion, g.part, 1, bytes, saved, gs⟩
          State.writeDesc { s with q := { s.q with descs := s.q.descs ++ [d] } } d g.launch.bits

/-- The bytes of a train's tiles in the accumulator image: its tiles of WIDTH rows of 128 bytes, after those of the trains before it
(R129, R195). -/
def Train.tileImage (t : Train) : Sparse Byte :=
  let bytes := t.i.width * 128
  let at_ := fun (k : Nat) => (t.i.num * t.i.ztiles + k / 2048) * bytes + k % 2048 * 4
  t.m.z.foldl (fun (acc : Sparse Byte) e => Table.setList 0 acc (at_ e.1) (bytesOfNat 4 e.2.toNat)) []

/-- What the device writes of a vacated team into its area: its barriers, and in the rank-0 team's its cluster's, in a layout of its own;
the operand buffer image and the accumulator image (R178, R195, R196). DEDUCED, safe (log 45). -/
def State.saveParts (s : State) (part grid idx : Nat) : State :=
  match s.team grid idx with
  | none => s
  | some m =>
    if m.area = 0 then s
    else
      let own := (List.range 512).map fun i => Config.imageByte s.tick (0x100000 + i)
      let shared := if m.rank = 0 then (List.range 256).map fun i => Config.imageByte s.tick (0x200000 + i) else []
      let tiles := ((s.trains.filter fun t => t.i.grid = grid && t.i.team = idx && t.i.id != 0).map Train.tileImage).flatten
      let st := (s.m.deviceWriteRun part (m.area + 0x100) own).deviceWriteRun part (m.area + 0x300) shared
      { s with m := (st.deviceImage part (m.area + 0x270000) 0x40000 m.obuf).deviceImage part (m.area + 0x2B0000) 0x40000 tiles }

/-- The team whose trains are all vacated or ended is vacated: the device's parts of its area are written, STATUS is 1, its core resources
are released, its cluster is back at the head (R142, R195). A team that has been stopped is not. -/
def State.teamVacated (s : State) (part grid idx : Nat) : State :=
  let ids := s.teamTrains grid idx
  if !((s.team grid idx).any Team.stopped) && !ids.isEmpty && ids.all fun id => match s.train id with
      | some t => t.life = .vacated
      | none => true
  then
    let s := ((s.saveParts part grid idx).writeHeader part grid idx 1 0 0).onTeam grid idx fun m =>
      { m with life := .vacated, scratch := [], savedGen := m.matrixGen }
    let s := s.clusterBack grid (((s.team grid idx).map Team.cluster).getD idx)
    s.describe grid
  else s

/-- A team is done when all its trains have ended: it gives back its pages (R143). A stopped team keeps its area, and its header, until its
grid completes. DEDUCED, safe (log 26). -/
def State.teamDone (s : State) (part grid idx : Nat) : State :=
  if (s.teamTrains grid idx).isEmpty then
    let s := s.onTeam grid idx fun m => { m with life := .done }
    match s.team grid idx with
    | some m => (if m.stopped then s else s.releaseTeam grid idx).clusterBack grid m.cluster
    | none => s
  else s.teamVacated part grid idx

/-- A grid takes an error, with what query reports (R143, R185). -/
def State.gridError (s : State) (cause : Nat) (info pc : Dword) : State :=
  s.onGrid s.t.i.grid fun g =>
    { g with error := true, causes := g.causes ++ [(s.t.i.team, s.t.i.num, cause, info, pc)] }

/-- The stores of the store-buffer image of a train that ends issue again: its end waits for them too (R116, R194). One whose page is no longer
mapped ends in its record, which no lane is left to take (R80, R181). -/
def State.restoreStores (s : State) : State :=
  if s.t.life = .ending && !s.t.x.stores.isEmpty then
    let (s, again) := s.reissueAll s.t.x.stores
    let s := again.foldl (fun (u : State) o => match o.stop with
      | some r => if o.done then u.gridError r.cause.toNat r.info r.pc else u
      | none => u) s
    s.onT fun t => { t with c := { t.c with ops := t.c.ops ++ again.filter fun o => !o.done }, x := { t.x with stores := [] } }
  else s

/-- The end of the train on the issue stage takes place once its lanes have exited and its counters have retired: its barriers take
the end, its pins are released, a hit or miss train's rays leave flight (R90, R116, R157, R171, R257). -/
def State.tryEnd (s : State) : State :=
  let s := s.restoreStores
  if s.t.life = .ending && s.t.c.ops.isEmpty then
    let s := ((s.endAtBars s.t).releasePins).trainRays s.t
    let s := s.onT fun t => { t with life := .ended }
    s.teamDone s.t.i.part s.t.i.grid s.t.i.team
  else s

/-- The train's lanes end as though they had exited (R143, R157, R185). -/
def Train.endLanes (t : Train) : Train :=
  { t with life := .ending, w := ⟨false⟩, group := none,
           d := { t.d with slot0 := Split.empty, slot1 := Split.empty, exited := t.all, depth := 0, siding := [] } }

/-- A trap ends the train on the issue stage, with no handler (R143, R185). -/
def State.kill (s : State) (cause : Nat) (info pc : Dword) : State :=
  ((s.gridError cause info pc).onT Train.endLanes).tryEnd

/-- Every train of a team stops at once, with no handler, and the team is never placed again (R194, R195, R238). -/
def State.stopTeam (s : State) (status cause reason : Nat) (info pc : Dword) : State :=
  let i := s.t.i
  let s := s.writeHeader i.part i.grid i.team status cause reason
  let s := s.onTeam i.grid i.team fun m => { m with stopped := true }
  let s := s.gridError cause info pc
  (s.teamTrains i.grid i.team).foldl (fun u id => u.withTrain id fun w => (w.onT Train.endLanes).tryEnd) s

/-- TRAPINFO of 0x24, *handler return refused* (R185). -/
def refusedInfo (reason : Nat) (pc : Dword) : Dword := BitVec.ofNat 64 (reason * 2 ^ 60 + pc.toNat % 2 ^ 56)

/-- The address for traps of the word under way: its own, or its group's (R267). -/
def Train.pc (t : Train) : Dword :=
  match t.group with
  | none => t.split.pc
  | some g => g.first

/-- A synchronous record is attached to the split (R181). -/
def Train.attach (t : Train) (cause : Nat) (m : Mask) (info pc : Dword) : Train :=
  let sp := t.split
  t.setSplit { sp with recs := sp.recs ++
    [⟨BitVec.ofNat 8 cause, m, info, pc, sp.region, sp.count, t.c.issued, false⟩] }

/-- An instruction of the split raises a trap (R181); in privileged mode it ends the train at once (R185). The words of a group
leave that to the group (R267). -/
def State.raise (s : State) (cause : Nat) (m : Mask) (info : Dword) : State :=
  match s.t.group with
  | some _ => s.onT fun t => t.attach cause m info t.pc
  | none =>
    if s.t.x.priv then s.kill cause info s.t.pc
    else s.onT fun t => (t.attach cause m info t.pc).settle

/-- A refused return or `crest` ends the train, or raises for its whole group first (R185, R267). -/
def State.refuse (s : State) (reason : Nat) : State := s.raise 0x24 s.t.split.mask (refusedInfo reason s.t.pc)

/-- Attach a late record to a split. -/
def Split.attach (sp : Split) (r : Rec) : Split := { sp with recs := sp.recs ++ [r] }

/-- Does the split hold this lane? -/
def Split.has (sp : Split) (lane : Nat) : Bool := sp.mask.getLsbD lane

/-- Attach a record to the first split that satisfies `here` in the order of R182: the given slots, then the siding entries below `depth`
from the top; none where no split does. -/
def Train.attachFirst (t : Train) (slot0 slot1 : Split) (depth : Nat) (r : Rec) (here : Split → Bool) : Option (Split × Split × Train) :=
  if slot0.mask != 0 && here slot0 then some (slot0.attach r, slot1, t)
  else if slot1.mask != 0 && here slot1 then some (slot0, slot1.attach r, t)
  else
    let found := (List.range depth).reverse.find? fun i => match t.entry i with
      | .split sp => sp.mask &&& ~~~t.d.exited != 0 && here sp
      | .frame _ => false
    found.map fun i => (slot0, slot1, t.setSide { t.side i with recs := (t.side i).recs ++ [r] })

/-- Attach a late record: to the split that issued the operation, which holds all that is left of its lanes, `issuer`; where that has
divided, to the split that holds the lowest lane concerned that has not exited; and where those have all exited, or the lane waits in a join
frame, to the first split of all in the order of R182 (R181). DEDUCED, safe (log 119). -/
def Train.attachAt (t : Train) (slot0 slot1 : Split) (depth : Nat) (issuer : Mask) (divided : Bool) (r : Rec) : Split × Split × Train :=
  let left := issuer &&& t.live
  let lane := lowest (r.lanes &&& t.live)
  let try_ := t.attachFirst slot0 slot1 depth r
  ((if !divided && left != 0 then try_ fun sp => left &&& ~~~sp.mask == 0 else none) <|>
    (if lane < 64 then try_ fun sp => sp.has lane else none) <|> try_ fun _ => true).getD (slot0, slot1, t)

/-- The last element of the frozen states, the user's, with its slots replaced. -/
def setLastFrozen (f : Frozen → Frozen) : List Frozen → List Frozen
  | [] => []
  | [x] => [f x]
  | x :: xs => x :: setLastFrozen f xs

/-- A late record of an operation of the train on the issue stage, which the lanes `issuer` issued, `divided` since or not, in a handler when
`prv` (R181); there it ends the train (R185). -/
def State.late (s : State) (r : Rec) (prv : Bool) (issuer : Mask) (divided : Bool) : State :=
  if s.t.life != .running && s.t.life != .vacated then s.gridError r.cause.toNat r.info r.pc
  else if s.t.x.priv && prv then s.kill r.cause.toNat r.info r.pc
  else
    match (if s.t.x.priv then s.t.x.frozen.getLast? else none) with
    | some f =>
      let (a, b, t) := s.t.attachAt f.slot0 f.slot1 f.depth issuer divided r
      { s with t := { t with x := { t.x with frozen := setLastFrozen (fun f => { f with slot0 := a, slot1 := b }) t.x.frozen } } }
    | none =>
      let (a, b, t) := s.t.attachAt s.t.d.slot0 s.t.d.slot1 s.t.d.depth issuer divided r
      { s with t := Train.turn { t with d := { t.d with slot0 := a, slot1 := b } } }

/-- The oldest record of a list, and the others (R182). -/
def oldest : List Rec → Option (Rec × List Rec)
  | [] => none
  | r :: rs =>
    match oldest rs with
    | none => some (r, [])
    | some (q, qs) => if r.age ≤ q.age then some (r, q :: qs) else some (q, r :: qs)

/-- A record chosen for delivery, its SOURCE and SIDX, and the train without it. -/
structure Pick where
  r      : Rec
  source : Nat
  sidx   : Nat
  t      : Train

/-- The record of the first siding entry, from the top down, that holds one (R182). -/
def Train.pickSiding (t : Train) : Nat → Option Pick
  | 0 => none
  | i + 1 =>
    match oldest (t.side i).recs with
    | some (r, rs) => some ⟨r, 2, i, t.setSide { t.side i with recs := rs }⟩
    | none => t.pickSiding i

/-- The oldest record of slot 0's split, otherwise of slot 1's (R182). -/
def Train.pickSlots (t : Train) : Option Pick :=
  match oldest t.d.slot0.recs with
  | some (r, rs) => some ⟨r, 0, 0, t.setSlot false { t.d.slot0 with recs := rs }⟩
  | none => (oldest t.d.slot1.recs).map fun x => ⟨x.1, 1, 0, t.setSlot true { t.d.slot1 with recs := x.2 }⟩

/-- The record chosen by R182 among those attached to splits; in a handler only its own slots' count, which *coupling conflict* alone
leaves there (R160, R185). -/
def Train.pickRecord (t : Train) : Option Pick := t.pickSlots <|> if t.x.priv then none else t.pickSiding t.d.depth

/-- The pre-emption record of the train: TRAPINFO of R194, PC and COUNT of slot 0's split or of slot 1's (R183). Operations in the
array freeze (R193); a parked split switched out has REGION as its PC (R192). TRAPREGION is that split's REGION. DESIGN CHOICE, unsafe (log
147). -/
def Train.pickPreempt (t : Train) (reason : Nat) (matrix : Bool) : Pick :=
  let m := { t.m with ice := t.m.ice ++ t.m.mat, mat := [] }
  let info := BitVec.ofNat 64 ((if matrix then 2 else 0) + (if m.ice.isEmpty then 0 else 1))
  let back := fun (sp : Split) => if sp.parked.isSome && reason = 1 then { sp with pc := sp.region, half := none } else sp
  let t : Train := { t with d := { t.d with slot0 := back t.d.slot0, slot1 := back t.d.slot1 } }
  let sp := if t.d.slot0.mask = 0 then t.d.slot1 else t.d.slot0
  let x := { t.x with preempt := none, graceRun := none, info := info }
  ⟨⟨0x22, t.live, info + BitVec.ofNat 64 (reason * 2 ^ 60), sp.pc, sp.region, sp.count, 0, false⟩, 3, 0, { t with m := m, x := x }⟩

/-- Is the train in a NESTED entry: does its handler stand above another one's (R186, R193)? -/
def Train.nested (t : Train) : Bool := (t.x.frozen.head?.map Frozen.priv).getD false

/-- The record that the train delivers at this issue boundary (R182, R183, R193). A pre-emption that a handler holds off leaves the record of a stuck handler to end the train (R160, R185). -/
def Train.pick (t : Train) (matrix : Bool) : Option Pick :=
  match t.x.preempt with
  | some reason => if t.x.priv && t.x.now.mask then t.pickRecord else some (t.pickPreempt reason matrix)
  | none => t.pickRecord

/-- The state word of the trap frame (R187). -/
def Train.frameWord (t : Train) : Nat :=
  let b := fun (x : Bool) (i : Nat) => if x then 2 ^ i else 0
  let a := t.d.slot0
  let c := t.d.slot1
  t.r.g1.toNat * 2 ^ 24 + t.r.g0.toNat * 2 ^ 16 + b (c.sync.any fun q => q.getLsbD 0) 14 + b (a.sync.any fun q => q.getLsbD 0) 13 + b c.sync.isSome 12 +
    b a.sync.isSome 11 + b (c.mask != 0 && c.held) 10 + b (a.mask != 0 && a.held) 9 + b t.d.cur 8 + t.d.depth % 256

/-- The trap frame, at private offsets 0xF000 to 0xF0FF of lane 0 (R187). -/
def Train.writeFrame (t : Train) : Train :=
  t.setPriv 0 0xF000 (bytesOfNat 32 (packSplit t.d.slot0) ++ bytesOfNat 32 (packSplit t.d.slot1) ++ bytesOfNat 8 t.frameWord ++
    bytesOfNat 8 t.d.exited.toNat ++ List.replicate 176 0)

/-- FROZEN (R183); a suspension ends, its instruction issues again (R187). A group that waits for the accesses of its own first words goes on
after the return with the others. DESIGN CHOICE, safe (log 9). -/
def Train.freeze (t : Train) : Frozen :=
  let f := fun (sp : Split) => { sp with asleep := false, asked := none, answer := none, parked := none }
  ⟨f t.d.slot0, f t.d.slot1, t.d.depth, t.d.cur, t.r.g0, t.r.g1, t.r.fpflags,
    t.x.priv, t.x.now.mask, t.x.now, t.x.entry, t.r.bank, t.x.saved, t.x.resume, t.x.restored⟩

/-- TRAPCAUSE (R186). -/
def causeWord (r : Rec) (source sidx : Nat) (nested : Bool) : Dword :=
  BitVec.ofNat 64 (r.count.toNat * 2 ^ 32 + sidx * 2 ^ 24 + source * 2 ^ 16 + (if r.late then 2 ^ 9 else 0) +
    (if nested then 2 ^ 8 else 0) + r.cause.toNat)

/-- The bank at a trap entry: zero but for s56, the train record's address, and s57, the team area's (R183). -/
def entryBank (record area : Nat) : Bank :=
  ⟨[], Table.set 0 (Table.set 0 [] 56 (BitVec.ofNat 64 record)) 57 (BitVec.ofNat 64 area), []⟩

/-- The train enters its handler with these trap registers; that is a join of all its lanes (R104, R183). -/
def Train.enter (t : Train) (now : TrapRegs) (resume : Bool) (record area : Nat) : Train :=
  Train.noteJoin { t with
    r := { t.r with bank := entryBank record area, g0 := 0, g1 := 0, fpflags := 0 },
    d := { t.d with slot0 := Split.fresh t.i.handler t.live t.i.handler 0 0, slot1 := Split.empty, cur := false,
                    used := 0, limit := t.d.quantum },
    x := { t.x with priv := true, now := now, entry := now, saved := false, resume := resume, restored := false, zsaved := false },
    w := ⟨false⟩ } t.all

/-- From the delivery of *matrix lost* on, the train's tiles exist again with contents +0 (R203). -/
def Train.found (t : Train) (cause : BitVec 8) : Train := if cause = 0x18 then { t with m := { t.m with z := [], lost := none } } else t

/-- TRAP_ENTRY of the record picked, by the train on the issue stage (R183); with HANDLER 0, and in a handler for any record but a
pre-emption, it ends the train (R143, R185). -/
def State.trapEnter (s : State) (p : Pick) : State :=
  let s := { s with t := p.t.found p.r.cause }
  if s.t.i.handler = 0 || (s.t.x.priv && p.source != 3) then s.kill p.r.cause.toNat p.r.info p.r.pc
  else
    let f := s.t.freeze
    let (record, area) := match s.myTeam with
      | some m => (m.record s.t.i.num, m.area)
      | none => (0, 0)
    let now : TrapRegs := ⟨causeWord p.r p.source p.sidx s.t.x.priv, p.r.lanes, p.r.region &&& 0xFF_FFFF_FFFF_FFFF,
      p.r.pc &&& 0xFF_FFFF_FFFF_FFFF, p.r.info, true⟩
    s.onT fun t => Train.enter { t.writeFrame with x := { t.x with frozen := f :: t.x.frozen } } now false record area

/-- Has the team of a train tiles or reservations (R194)? -/
def State.matrixBit (s : State) : Bool :=
  s.t.i.ztiles != 0 || (match s.myTeam with
    | some m => !m.resv.isEmpty
    | none => false)

/-- TRAP_ENTRY at an issue boundary: the record chosen by R182 is delivered; with none nothing happens. -/
def State.trapEntry (s : State) : State :=
  match s.t.pick s.matrixBit with
  | none => s
  | some p => s.trapEnter p

/-- A restored split without the lanes that ended in a handler (R157). -/
def Split.prune (sp : Split) (exited : Mask) : Split :=
  let m := sp.mask &&& ~~~exited
  if m = 0 && sp.recs.isEmpty then Split.empty else { sp with mask := m }

/-- The siding's entries below `n` without the lanes that ended in a handler (R157). One whose lanes have all ended keeps its place, with
MASK 0, until it is popped. DESIGN CHOICE, unsafe (log 131). -/
def Train.pruneSiding (t : Train) : Nat → Train
  | 0 => t
  | n + 1 =>
    let u := t.pruneSiding n
    match u.entry n with
    | .split sp => if sp.mask &&& u.d.exited = 0 then u else u.putEntry n (packEntry { sp with mask := sp.mask &&& ~~~u.d.exited })
    | .frame f => if f.mask &&& u.d.exited = 0 then u else u.putEntry n (packFrame { f with mask := f.mask &&& ~~~u.d.exited })

/-- Restore FROZEN (R188). -/
def Train.thaw (t : Train) (f : Frozen) (rest : List Frozen) : Train :=
  let t := t.pruneSiding f.depth
  let t := { t with
    r := { t.r with g0 := f.g0, g1 := f.g1, fpflags := f.fpflags, bank := if f.priv then f.bank else t.r.bank },
    d := { t.d with slot0 := f.slot0.prune t.d.exited, slot1 := f.slot1.prune t.d.exited, cur := f.cur, used := 0, limit := t.d.quantum },
    x := { t.x with priv := f.priv, frozen := rest, resume := f.resume, restored := f.restored,
                    now := if f.priv then f.trap else { t.x.now with mask := f.mask }, entry := if f.priv then f.entry else t.x.entry,
                    saved := if f.priv then f.saved else false } }
  t

/-- The split named by SOURCE and SIDX is set to a PC, and its wait is over (R188). -/
def Train.redirect (t : Train) (source sidx : Nat) (pc : Dword) : Train :=
  let f := fun (sp : Split) => if sp.mask = 0 then sp else { sp with pc := pc, sync := none, held := false, half := none, parked := none }
  match source with
  | 0 => t.setSlot false (f t.d.slot0)
  | 1 => t.setSlot true (f t.d.slot1)
  | 2 => match t.entry sidx with
    | .split sp => t.putEntry sidx (packEntry (f sp))
    | .frame _ => t
  | _ => t

/-- COUNT of the split named by SOURCE and SIDX in FROZEN (R188). -/
def Train.frozenCount (t : Train) (f : Frozen) (source sidx : Nat) : Word :=
  match source with
  | 0 => f.slot0.count
  | 1 => f.slot1.count
  | _ => match t.entry sidx with
    | .split sp => sp.count
    | .frame _ => 0

/-- A header of 64 bytes with VERSION, LENGTH and ENTRIES (R368). -/
def saveHeader (length entries : Nat) : List Byte :=
  bytesOfNat 64 (Config.saveVersion + length * 2 ^ 16 + entries * 2 ^ 48)

/-- LENGTH of a csave image: 64 to 8,192 (R368). DESIGN CHOICE, safe (log 41). -/
def csaveLength : Nat := 64 + Config.saveLength 0 % 8129
/-- LENGTH of a store-buffer image: 64 to 131,072 (R368). -/
def storesLength (entries : Nat) : Nat := 64 + Config.saveLength (entries + 1) % 131009

/-- Is this operation a store not yet performed (R195)? -/
def Op.pendingStore (o : Op) : Bool := o.isStore && !o.done

/-- The vacating `eret` (R195): the stores not yet performed go to the store-buffer image, whose entries, in the implementation's own layout, are
free values (R196), and the train leaves the core. The entry that restores them is a join of all lanes (R104, R120). DEDUCED, safe (log 45). -/
def State.vacate (s : State) : State :=
  let left := (s.t.c.ops.filter Op.pendingStore).map fun o => { o with reached := s.t.all }
  let n := storesLength left.length
  let body := (List.range (n - 64)).map fun i => Config.imageByte s.tick (0x300000 + i)
  let s := match s.myTeam with
    | some m => { s with m := s.m.deviceWriteRun s.t.i.part (m.area + 0x2F0000 + 0x20000 * s.t.i.num)
                            (saveHeader n left.length ++ body) }
    | none => s
  let s := s.onT fun t => { t with life := .vacated, group := none, x := { t.x with stores := left }, c := { t.c with ops := [] } }
  s.teamVacated s.t.i.part s.t.i.grid s.t.i.team

/-- Has this access sent a request to a peer whose reply has not come? -/
def LaneAcc.sent (a : LaneAcc) : Bool := a.tag.isSome && !a.done

/-- Can this operation not go into a store-buffer image: it is no store, part of it has been sent to a peer, or a later access has overtaken
it (R103, R195)? -/
def Op.staysOut (o : Op) : Bool :=
  o.owed != 0 || match o.work with
  | .store _ _ acc => acc.any LaneAcc.sent
  | .atomic _ _ _ _ _ _ acc => acc.any LaneAcc.sent
  | _ => true

/-- Must `eret` wait: a resume entry's returns once every train of the team has completed `crest`; an ended train counts (R199). The
vacating one waits for what cannot be saved (R178, R195). DEDUCED, safe (log 47). -/
def State.eretWaits (s : State) : Bool :=
  (s.t.x.resume && s.t.x.restored &&
    (s.teamTrains s.t.i.grid s.t.i.team).any fun id => match s.train id with
      | some t => t.life = .running && t.x.priv && t.x.resume && !t.x.restored
      | none => false) ||
  (natBits s.t.x.now.cause.toNat 0 8 = 0x22 && s.t.x.saved && s.t.c.ops.any Op.staysOut)

/-- Does the entry's return vacate the core (R188, R195)? -/
def Train.vacating (t : Train) : Bool := natBits t.x.now.cause.toNat 0 8 = 0x22 && t.x.saved

/-- The REASON for which a return is refused, if any (R185, R188): 3 stops the team (R195). -/
def State.eretRefusal (s : State) (replay : Bool) : Option Nat :=
  match s.t.x.frozen with
  | [] => some 5
  | f :: _ =>
    let cause := s.t.x.now.cause
    let source := natBits cause.toNat 16 2
    if s.t.d.depth ≠ f.depth then some 0
    else if s.t.x.resume && !s.t.x.restored then some 5
    else if s.t.vacating then (if !s.t.m.ice.isEmpty && !s.t.x.zsaved then some 3 else none)
    else if replay && (source = 3 || s.t.frozenCount f source (natBits cause.toNat 24 8) != BitVec.ofNat 32 (natBits cause.toNat 32 32)) then
      some 1
    else none

/-- `eret` and `eret.replay` of the train on the issue stage once nothing refuses them (R188); a pre-emption's frozen matrix operations go
on (R199). An entry of a pre-emption left before `csave` has the request taken again (R195). DEDUCED, unsafe (log 46). -/
def State.eret (s : State) (replay : Bool) : State :=
  match s.t.x.frozen with
  | [] => s
  | f :: rest =>
    if s.t.vacating then s.vacate
    else s.onT fun t =>
      let now := t.x.now
      let source := natBits now.cause.toNat 16 2
      let sidx := natBits now.cause.toNat 24 8
      let preempted := natBits now.cause.toNat 0 8 = 0x22
      let t := if preempted then { t with m := { t.m with mat := t.m.ice ++ t.m.mat, ice := [] } } else t
      let again := preempted && !(t.x.resume && t.x.restored)
      let t := { t.thaw f rest with group := none, c := { t.c with issued := t.c.issued + 1 } }
      let t := if again then { t with x := { t.x with preempt := some (natBits now.info.toNat 60 4) } } else t
      let t :=
        if replay then t.redirect source sidx now.region
        else if !now.cause.getLsbD 9 && source ≠ 3 then t.redirect source sidx now.pc
        else t
      t.settle

end Sys2Proof.Machine
end

