-- ==== Sys2Proof/Machine/Ops.lean ====
section
/-! DEFINITION. What every word shares: its checks, its holds, its departure, and the group it stands in (R146, R150, R159, R267,
R273). -/
namespace Sys2Proof.Machine

/-- A register or tile that a word names, for the budget check: `n` and the `k` that follow it (R137, R269). -/
inductive Need where
  | v (n k : Nat)
  | s (n k : Nat)
  | p (n : Nat)
  | z (n : Nat)
  deriving DecidableEq, Repr

/-- Is this name within the role's budget, or banked in privileged mode (R137)? -/
def Train.inBudget (t : Train) : Need → Bool
  | .v n k => (List.range (k + 1)).all fun i => n + i < t.i.regs || (t.x.priv && 120 ≤ n + i)
  | .s n k => (List.range (k + 1)).all fun i => n + i < t.i.uregs || (t.x.priv && 56 ≤ n + i)
  | .p n => n < t.i.preds || (t.x.priv && 120 ≤ n)
  | .z n => n < t.i.ztiles

/-- Does a load of a scratchpad still have to write this register, before a later word of its split may read or write it (R147)? -/
def Train.awaited (t : Train) : Need → Bool
  | .v n k => t.c.ops.any fun o => !o.done && t.before o && (match o.work with
    | .localLoad size _ d _ => d.toNat ≤ n + k && n < d.toNat + max 1 (size / 4)
    | _ => false)
  | _ => false

/-- TRAPINFO of the causes 0x01 to 0x04, 0x20 and 0x21: the raising word (R186). -/
def wordInfo (i : Instr) : Dword := (wordOf i).zeroExtend 64

/-- The lanes concerned in a check of the word itself: SPLIT (R181). -/
def Train.splitLanes (t : Train) : Mask := t.split.mask

/-- The train does not issue its word: the reason is noted, and the turn passes to the other slot if that can issue (R66, R150,
R159, R175). -/
def Train.applyHold (t : Train) : Hold → Train
  | .wait => if t.canIssue (!t.d.cur) then { t with d := t.d.take (!t.d.cur) } else t
  | .couple => (t.setSplit { t.split with held := true }).settle
  | .park g => Train.turn (t.setSplit { t.split with parked := some g })
  | .asleep svc => Train.turn (t.setSplit { t.split with asleep := true, asked := svc, answer := none })

/-- A word or group does not issue; a parking failure counts for the core's tier-stall counter (R72). -/
def State.applyHold (s : State) (h : Hold) : State :=
  match h with
  | .park g => (s.onT fun t => t.applyHold (.park g)).notePull s.t.core
  | h => s.onT fun t => t.applyHold h

/-- A word does not issue; in a chained group that holds the whole group (R267). -/
def State.hold (s : State) (h : Hold) : State :=
  match s.t.group with
  | some g => s.onT fun t => { t with group := some { g with held := g.held <|> some h } }
  | none => s.applyHold h

/-- A word under way: it needs a running train on the issue stage; then the checks of R273 in their order: a privileged word in user
mode (0x03), a register outside budget (0x04), and the word's own, which `body` makes. An ill-formed word is an illegal
instruction (0x01) first. A group that is only probed stops there (R159). A word then waits for the registers that scratchpad loads of its
split are to write (R147). DEDUCED, safe (log 8). -/
def word (i : Instr) (privileged : Bool) (needs : List Need) (body : State → State) (s : State) :
    Host.Outcome State Fault Refusal :=
  if s.t.life ≠ .running then .fault .noTrain
  else if !i.wellFormed then .next (s.raise 0x01 s.t.splitLanes (wordInfo i))
  else if privileged && !s.t.x.priv then .next (s.raise 0x03 s.t.splitLanes (wordInfo i))
  else if !(needs.all s.t.inBudget) then .next (s.raise 0x04 s.t.splitLanes (wordInfo i))
  else if s.t.group.any Group.probe then .next s
  else if needs.any s.t.awaited then .next (s.hold .wait)
  else .next (body s)

/-- Has the word or group issued whole, so that it counts? Only the wait half of a `bar.sync` is still to come (R150, R187). -/
def Leave.whole : Leave → Bool
  | .stay => false
  | _ => true

/-- The train after its word or group has issued: the split goes where `leave` says, `n` words are counted in the turn, and merges
and pops follow (R150, R154). -/
def Train.finish (t : Train) (first next : Dword) (leave : Leave) (ends idem yields : Bool) (n : Nat) : Train :=
  let t := t.depart first next leave ends idem
  let t := { t with d := { t.d with used := t.d.used + if leave.whole then n else 0 },
                    c := { t.c with issued := t.c.issued + if leave.whole then 1 else 0 }, group := none }
  let t := t.settle
  if yields && t.canIssue (!t.d.cur) then { t with d := t.d.take (!t.d.cur) } else t

/-- When the last lane has exited the train ends (R116, R157). -/
def State.endIfExited (s : State) : State :=
  if s.t.live = 0 && s.t.life = .running then (s.onT fun t => { t with life := .ending }).tryEnd else s

/-- A lane of an any-hit train that executes `exit` in user mode without a verdict counts as accept (R255). -/
def Train.exitVerdicts (t : Train) (m : Mask) : Train :=
  if t.y.kind = 1 && !t.x.priv then
    let new := (lanes (m &&& t.split.mask)).filter fun l => !(t.y.verdicts.any fun v => v.1 = l)
    { t with y := { t.y with verdicts := t.y.verdicts ++ new.map fun l => (l, 1) } }
  else t

/-- The end of a word's or a group's issue. -/
def State.finish (s : State) (first next : Dword) (leave : Leave) (ends idem yields : Bool) (n : Nat) : State :=
  match leave with
  | .eret replay => s.eret replay
  | .exits m => (s.onT fun t => (t.exitVerdicts m).finish first next leave ends idem yields n).endIfExited
  | _ => (s.onT fun t => t.finish first next leave ends idem yields n).endIfExited

/-- A word has had its effect and leaves: at once, or with its group (R266, R267). `len` is 8 for a word that takes a literal. -/
def State.conclude (s : State) (leave : Leave) (ends idem yields : Bool) (len : Dword) : State :=
  match s.t.group with
  | some g => s.onT fun t => { t with group := some { g with
      leave := match leave with
        | .on => g.leave
        | l => l,
      ends := g.ends || ends, idem := g.idem || idem, turn := g.turn || yields } }
  | none => s.finish s.t.split.pc (s.t.split.pc + len) leave ends idem yields 1

/-- The word goes on at the next word. -/
def State.done (s : State) : State := s.conclude .on false false false 4
/-- The same for a word that takes a literal. -/
def State.doneLit (s : State) : State := s.conclude .on false false false 8
/-- The word ends its idempotent region and goes on (R189). -/
def State.doneEnding (s : State) (len : Dword) : State := s.conclude .on true false false len

/-- OR the flags of a word's lanes into FPFLAGS, or into its group's (R206, R212, R320). -/
def Train.orFlags (t : Train) (w : Word) : Train :=
  match t.group with
  | none => t.withR { t.r with fpflags := t.r.fpflags ||| w }
  | some g => { t with group := some { g with flags := g.flags ||| w } }

/-- A coupling word: it waits, HELD, until its split holds every lane of the train (R159). -/
def coupled (body : State → State) (s : State) : State :=
  if s.t.whole s.t.split then body s else s.hold .couple

/-- The trap of a failed check, if any, before the effect (R62, R273). -/
def State.orRaise (s : State) (f : Option (Nat × Mask × Dword)) (body : State → State) : State :=
  match f with
  | some (cause, m, info) => s.raise cause m info
  | none => body s

end Sys2Proof.Machine
end

