-- ==== Sys2Proof/Machine/Fetch.lean ====
section
/-! DEFINITION. Fetching a packet, its checks, its chained groups, and the issue of one group (R265 to R273). -/
namespace Sys2Proof.Machine

/-- Some meaning of an instruction: what `exec` is. -/
abbrev Meaning := Instr → State → Host.Outcome State Fault Refusal

/-- The base of the text that holds an address of a partition (R54, R266). -/
def State.textBase (s : State) (part pc : Nat) : Option Nat :=
  (s.q.images.find? fun i => i.part = part && i.text ≤ pc && pc < i.text + i.textLen).map Image.text

/-- The packet that holds a text address (R266). -/
def packetOf (base pc : Nat) : Nat := pc - (pc - base) % 12

/-- Is this a packet address inside the text of the partition's images (R329, R330)? -/
def State.isPacket (s : State) (part pc : Nat) : Bool :=
  match s.textBase part pc with
  | some base => (pc - base) % 12 == 0
  | none => false

/-- The three words of the packet at an address (R266). -/
def State.packet (s : State) (part p : Nat) : Word × Word × Word :=
  let w := fun k => wordOfBytes (s.m.deviceRead part (p + 4 * k) 4)
  (w 0, w 1, w 2)

/-- The fetch of a packet meets its uncorrectable words; a poisoned one is then read as it stands (R74). DESIGN CHOICE, unsafe (log 149). -/
def State.meetPacket (s : State) (part p : Nat) : State := { s with m := s.m.meetRange part p 12 }

/-- Does a word carry K (R265)? -/
def chained (w : Word) : Bool := w.getLsbD 31
/-- Is the next slot this word's literal (R266)? -/
def literalWord (w : Word) : Bool := takesLiteralOp (fld w 21 8).toNat

/-- Is this packet illegal (R271)? -/
def packetBad (a b c : Word) : Bool :=
  if literalWord a then chained a || literalWord c || chained c
  else if chained a then
    literalWord b || (if chained b then literalWord c || chained c || samePipe a b || samePipe a c || samePipe b c
                      else samePipe a b || literalWord c || chained c)
  else if literalWord b then chained b
  else literalWord c || chained c || (chained b && samePipe b c)

/-- A group as fetched: its words, each with its literal, and the number of slots from its first to the one after it (R267). -/
structure Fetched where
  words : List (Word × Word)
  slots : Nat
  deriving DecidableEq, Repr

/-- The group whose first word stands in slot `i` of a legal packet; a literal slot, which is never decoded, holds none (R266, R267). -/
def groupAt (a b c : Word) (i : Nat) : Fetched :=
  match i with
  | 0 =>
    if literalWord a then ⟨[(a, b)], 2⟩
    else if chained a then (if chained b then ⟨[(a, 0), (b, 0), (c, 0)], 3⟩ else ⟨[(a, 0), (b, 0)], 2⟩)
    else ⟨[(a, 0)], 1⟩
  | 1 =>
    if literalWord a then ⟨[], 1⟩
    else if literalWord b then ⟨[(b, c)], 2⟩
    else if chained b then ⟨[(b, 0), (c, 0)], 2⟩
    else ⟨[(b, 0)], 1⟩
  | _ => if literalWord b && !literalWord a then ⟨[], 1⟩ else ⟨[(c, 0)], 1⟩

/-- The group that the split's PC fetches, when it lies in text and its packet is legal. -/
def State.fetched (s : State) (part : Nat) (pc : Dword) : Option Fetched :=
  match s.textBase part pc.toNat with
  | none => none
  | some base =>
    let p := packetOf base pc.toNat
    let (a, b, c) := s.packet part p
    if packetBad a b c then none else some (groupAt a b c ((pc.toNat - p) / 4))

/-- The address after the group at the split's PC. -/
def State.afterGroup (s : State) (part : Nat) (pc : Dword) : Dword :=
  match s.fetched part pc with
  | some g => pc + BitVec.ofNat 64 (4 * g.slots)
  | none => pc + 4

/-- Does the PC hold a word that is a group by itself? -/
def State.alone (s : State) (part : Nat) (pc : Dword) : Bool :=
  match s.fetched part pc with
  | some g => g.words.length ≤ 1
  | none => true

/-- One word of a group, on the state that the words before it left: a word that does not decode is illegal (R272). -/
def groupWord (m : Meaning) (w : (Word × Word) × Nat) (s : State) : Host.Outcome State Fault Refusal :=
  let s := s.onT fun t => { t with group := t.group.map fun g => { g with slot := w.2 } }
  match decode w.1.1 w.1.2 with
  | none => .next (s.raise 0x01 s.t.splitLanes (w.1.1.zeroExtend 64))
  | some i => m i s

/-- The words of a group in slot order, until one raises a trap, ends the train or has to wait (R267, R273). `k` is how many records the split
held before. -/
def groupWords (m : Meaning) (k : Nat) : List ((Word × Word) × Nat) → State → Host.Outcome State Fault Refusal
  | [], s => .next s
  | w :: ws, s =>
    match groupWord m w s with
    | .next s' => if k < s'.t.split.recs.length || s'.t.life != .running || (s'.t.group.bind Group.held).isSome then .next s' else groupWords m k ws s'
    | o => o

/-- The record that the words of a group have raised: the split held `k` before. -/
def Train.raised (t : Train) (k : Nat) : Option Rec := (t.split.recs.drop k).getLast?

/-- Does the record come of an error mark that a word meets when it completes, and of no check (R170, R179)? -/
def Rec.integrity (r : Rec) : Bool := r.cause == 0x0E

/-- A group's trap, on the state that is to stand: the group is over, and the trap is its own (R267). -/
def State.raiseGroup (s : State) (r : Rec) : State :=
  (s.onT fun t => { t.setSplit { t.split with half := none } with group := none }).raise r.cause.toNat r.lanes r.info

/-- A group all of whose words have had their effect goes on (R146, R189). -/
def State.endGroup (s : State) (g : Group) (n : Nat) : State :=
  let fp := (g.fpset.getD s.t.r.fpflags) ||| g.flags
  let s := s.onT fun t => { t with group := none, r := { t.r with fpflags := fp } }
  s.finish g.first g.next g.leave g.ends g.idem g.turn n

/-- A word that completes and then raises 0x0E keeps its own effect in a group too (R170, R179): only the group's other words have
none. `v` is the state after that word alone. -/
def settleIntegrity (v : State) (k : Nat) : State :=
  match v.t.raised k with
  | none => v.onT fun t => { t with group := none }
  | some r => (v.onT fun t => t.setSplit { t.split with recs := t.split.recs.take k }).raiseGroup r

/-- The opcodes of the coupling words (R159). -/
def couplingOp (op : Nat) : Bool := (0xB6 ≤ op && op ≤ 0xBB) || [0xE0, 0xE1, 0xE2, 0xE3, 0xE4, 0xE5, 0xE8, 0xEE].contains op

/-- A fetched word's opcode. -/
def opOf (w : Word × Word) : Nat := (fld w.1 21 8).toNat

/-- A word that waits has met the tier map, as `u` shows, before its group is held (R66, R69, R72). -/
def State.having (s u : State) : State := { s with m := u.m, o := u.o, d := { s.d with cores := u.d.cores } }

/-- Before a group begins: what its word `w`, run alone as `v` shows, makes of the whole group, if it is not to begin: a failed check's trap,
with no word's effect; the end of the train; or a hold (R267, R273). -/
def State.unready (s v : State) (k : Nat) : Option State :=
  if v.t.life != .running then some v
  else match v.t.raised k, v.t.group.bind Group.held with
    | some r, _ => if r.integrity then none else some (s.raiseGroup r)
    | none, some h => some ((s.having v).applyHold h)
    | none, none => none

/-- The first word in slot order that does not let its group begin, and what it makes of it; each is run alone, since none sees what another
does (R146, R273). -/
def State.begins (run : List ((Word × Word) × Nat) → Host.Outcome State Fault Refusal) (k : Nat) (s : State) :
    List ((Word × Word) × Nat) → Option (Host.Outcome State Fault Refusal)
  | [] => none
  | w :: ws =>
    match run [w] with
    | .next v => match s.unready v k with
      | some u => some (.next u)
      | none => s.begins run k ws
    | o => some o

/-- The words before slot `g.slot` have had their effect, and the others are still to come (R146, R338). -/
def State.startHalf (x : State) (g : Group) (ws : List ((Word × Word) × Nat)) : State :=
  let left := (ws.map Prod.snd).filter fun i => g.slot ≤ i
  (x.onT fun t => { t.setSplit { t.split with half := some ⟨left, { g with held := none }⟩ } with group := none }).applyHold .wait

/-- What the words `ws` of a group come to, run in slot order from `s` as `u` shows: all of them have had their effect (R146); one completes
with an error mark, `alone` being what it does alone; or one has to wait: where it is the first of them nothing has been done, and otherwise it
waits for the accesses of those before it, which have had their effect (R338). -/
def settleGroup (s u : State) (k n : Nat) (ws : List ((Word × Word) × Nat)) (alone : Nat → State) : State :=
  match u.t.raised k, u.t.group with
  | some r, g => if r.integrity then settleIntegrity (alone ((g.map Group.slot).getD 0)) k else s.raiseGroup r
  | none, none => u
  | none, some g =>
    match g.held with
    | none => u.endGroup g n
    | some h => if (ws.head?.any fun w => w.2 = g.slot) then (s.having u).applyHold h else u.startHalf g ws

/-- The words of a group that are to have their effect now, with their places: all of them; in the wait half of a `bar.sync` that word
(R187); and of a group some of whose words have had theirs, the others. -/
def Split.wordsOf (sp : Split) (f : Fetched) : List ((Word × Word) × Nat) :=
  let ws := f.words.zipIdx
  if sp.sync.isSome then ws.filter fun w => opOf w.1 = 0xB8
  else match sp.half with
    | none => ws
    | some h => ws.filter fun w => h.left.contains w.2

/-- The group of the split's words as it stands when they begin (R146). -/
def State.groupNow (s : State) (f : Fetched) : Group :=
  match s.t.split.half with
  | some h => h.group
  | none => ⟨s.t.pc, 0, s.t.pc + BitVec.ofNat 64 (4 * f.slots), s.t.r, s.t.priv, s.t.privBad, 0, none, .on, false, false, false, none, false⟩

/-- A chained group of two or three words (R146, R267). A group with a coupling word is held until the split is the whole train, after the
checks of steps 1 to 3 of its words (R159). Otherwise the checks of all words come first, then the effects in slot order. Where a word waits for
accesses that the words before it have started, those before it have had their effect, and it and the words after it come later, on the
registers that the group found (R146, R338). DESIGN CHOICE, safe (log 9). -/
def runGroup (m : Meaning) (f : Fetched) (s : State) : Host.Outcome State Fault Refusal :=
  let sp := s.t.split
  let k := sp.recs.length
  let ws := sp.wordsOf f
  let n := f.words.length
  let run := fun (probe : Bool) (ws : List ((Word × Word) × Nat)) =>
    groupWords m k ws (s.onT fun t => { t with group := some { s.groupNow f with probe := probe } })
  let alone := fun (i : Nat) => match run false (ws.filter fun w => w.2 = i) with
    | .next v => v
    | _ => s
  let begun := if sp.half.isSome then none else s.begins (run false) k ws
  if !s.t.whole sp && ws.any fun w => couplingOp (opOf w.1) then
    match run true ws with
    | .next u => match u.t.raised k with
      | some r => .next (s.raiseGroup r)
      | none => .next (s.applyHold .couple)
    | o => o
  else match begun with
    | some o => o
    | none => match run false ws with
      | .next u => .next (if u.t.life != .running then u else settleGroup s u k n ws alone)
      | o => o

/-- The issue of one packet group by the current slot of the train on the issue stage (R266, R267, R271, R272). A PC at a literal slot,
which only a handler can set, finds no word there: *illegal instruction*. DESIGN CHOICE, safe (log 120). -/
def issueGroup (m : Meaning) (s : State) : Host.Outcome State Fault Refusal :=
  let pc := s.t.split.pc
  match s.textBase s.t.i.part pc.toNat with
  | none => .next (s.raise 0x0A s.t.splitLanes (memInfo 0 3 pc.toNat))
  | some base =>
    let p := packetOf base pc.toNat
    let s := s.meetPacket s.t.i.part p
    let (a, b, c) := s.packet s.t.i.part p
    if packetBad a b c then m (.illegalInstruction true a) s
    else
      let f := groupAt a b c ((pc.toNat - p) / 4)
      match f.words with
      | [] => m (.illegalInstruction false (if pc.toNat - p = 4 then b else c)) s
      | [w] => match decode w.1 w.2 with
        | none => m (.illegalInstruction false w.1) s
        | some i => m i s
      | _ => runGroup m f s

/-- Has the current slot's turn run out while the other slot can issue (R150)? QUANTUM 0 stands for 256. What the slot issued while the other
was empty or could not issue counts in its turn, and no turn runs out inside a group. DEDUCED, safe (log 10). -/
def Train.turnOver (t : Train) : Bool :=
  let q := t.d.limit.toNat % 256
  t.split.half.isNone && (if q = 0 then 256 else q) ≤ t.d.used && t.canIssue t.d.cur && t.canIssue (!t.d.cur)

/-- The current slot issues one group, when it can. -/
def issueSlot (m : Meaning) (s : State) : Host.Outcome State Fault Refusal :=
  if s.t.canIssue s.t.d.cur then issueGroup m s else .next s

/-- Has the current slot of `t` issued, as `u` shows the train afterwards (R138)? It has where a group is counted, an operation is queued, a
part of a group is done, the split is suspended or traps, or the train ends; it has not where it is held. -/
def Train.went (t u : Train) : Bool :=
  let a := t.split
  let b := u.slot t.d.cur
  u.life != t.life || u.c.issued != t.c.issued || u.c.next != t.c.next || u.m.mat.length != t.m.mat.length || b.sync != a.sync ||
    b.half != a.half || (b.asleep && !a.asleep) || (b.recs.drop a.recs.length).any fun r => r.cause != 0x12 || 2 ^ 60 ≤ r.info.toNat

/-- The next issue boundary of a train (R138, R150, R182), and the split that issues at it, if one does: a record or a pending pre-emption
is delivered first; then the turn changes when it is over; then the current slot, or the other when only that can, issues one group. -/
def issueTry (m : Meaning) (id : Nat) (s : State) : Host.Outcome State Fault Refusal × Option Split :=
  let s := s.stage id
  if s.t.i.id ≠ id || s.t.life ≠ .running then (.next s, none)
  else if (s.t.pick s.matrixBit).isSome then (m .trapEntry { s with subject := ⟨id, 0, 0⟩ }, none)
  else match (if s.t.turnOver then m .quantumExpiry { s with subject := ⟨id, 0, 0⟩ } else .next s) with
    | .next s =>
      let s := s.onT Train.turn
      match issueSlot m s with
      | .next u =>
        if s.t.went u.t then (.next u, some s.t.split)
        else if u.t.d.cur = s.t.d.cur then (.next u, none)
        else match issueSlot m u with
          | .next v => (.next v, if u.t.went v.t then some u.t.split else none)
          | o => (o, some u.t.split)
      | o => (o, some s.t.split)
    | o => (o, none)

end Sys2Proof.Machine
end

