-- ==== Sys2Proof/Machine/Acts.lean ====
section
/-! DEFINITION. What may move next of itself. An act listed here that is not due leaves the state as it is; requests, packets, power,
temperature, hardware failures, refreshes and power requests come through the agenda. -/
namespace Sys2Proof.Machine

/-- An event about up to three things. -/
def due (i : Instr) (a b c : Nat) : Act := .event i ⟨a, b, c⟩

/-- The lanes of a counted access that wait for its performance, and all of them at once. DESIGN CHOICE, safe (log 5). -/
def laneActs (i : Instr) (train op : Nat) (acc : List LaneAcc) : List Act :=
  due i train op 64 :: ((acc.filter fun a => !a.done).map fun a => due i train op a.lane)

/-- The accesses of these lanes at their home slices; kind 1 writes (R69). -/
def homeActs (train kind : Nat) (acc : List LaneAcc) : List Act :=
  (acc.filter fun a => !a.done && a.win.isNone).map fun a => due .homeSliceAccess (a.ua / 256) kind train

/-- The accesses of an engine's units at their home slices. -/
def unitActs (train : Nat) (us : List EUnit) : List Act :=
  let ms := ((us.filter fun u => !u.settled).map EUnit.moves).flatten
  (ms.filterMap fun m => match m.src with
    | .at l => if l.space = 3 then some (due .homeSliceAccess (l.addr / 256) 0 train) else none
    | _ => none) ++
  ms.filterMap fun m => m.dst.bind fun l => if l.space = 3 then some (due .homeSliceAccess (l.addr / 256) 1 train) else none

/-- What may come next of a counted operation (R111, R173, R249, R360). -/
def Op.acts (o : Op) (train : Nat) : List Act :=
  if o.parked then [due .parkResume train 2 o.id]
  else match o.work with
  | .load _ _ _ acc => laneActs .loadReply train o.id acc ++ homeActs train 0 acc
  | .localLoad _ _ _ acc => laneActs .loadReply train o.id acc
  | .store space _ acc => laneActs .storePerformed train o.id acc ++ (if space = 3 then homeActs train 1 acc else [])
  | .atomic space _ _ _ _ _ acc => laneActs .atomicPerform train o.id acc ++ (if space = 3 then homeActs train 1 acc else [])
  | .engine us _ translated _ =>
    if translated then (us.zipIdx.map fun p => due .engineUnitSettle train o.id p.2) ++ unitActs train us
    else [due .engineTranslate train o.id 0]
  | .texture _ _ ls => due .loadReply train o.id 64 :: ((ls.map Prod.snd).flatten.map fun p => due .homeSliceAccess (p.2.1 / 256) 0 train)
  | .rays _ ls => ls.map fun l => due .rayAccept train o.id l.1
  | _ => [due .loadReply train o.id 64]

/-- How far a train's slot stands behind its quarter's rotating pointer (R138). -/
def State.seatBehind (s : State) (t : Train) : Nat := (t.seat + 32 - (s.core t.core).pointers.getD t.quarter 0) % 32

/-- The other running trains of a train's quarter, in slot order after it (R139). -/
def State.mates (s : State) (t : Train) : List Train :=
  let others := s.trains.filter fun u => u.life = .running && u.core = t.core && u.quarter = t.quarter && u.i.id != t.i.id
  ((List.range 32).map fun k => others.filter fun u => u.seat = (t.seat + k) % 32).flatten

/-- Does a core withhold its issue slots, its grant not raised yet (R23)? -/
def State.withheld (s : State) (core : Nat) : Bool := (s.k.power.waiting.any fun w => w.1 = core) && Config.withholds core s.tick

/-- The split of an eligible train that issues in this cycle (R138). -/
def State.issuing (m : Meaning) (s : State) (t : Train) : Option Split := if s.withheld t.core then none else (issueTry m t.i.id s).2

/-- The car positions that a split occupies (R139). -/
def Split.cars (sp : Split) : Nat := ((List.range 8).filter fun k => sp.mask.extractLsb' (8 * k) 8 != 0).length

/-- A train whose split `sp` is about to issue, as the packer sees it (R139). -/
def Split.packed (sp : Split) (id : Nat) : Packed := ⟨id, sp.pc, sp.half.map Half.left, sp.sync.isSome, sp.cars⟩

/-- Does a split issue the same group as another, which stands at one PC with it (R139)? -/
def Packed.same (a b : Packed) : Bool := a.pc == b.pc && a.left == b.left && a.sync == b.sync

/-- The trains packed into the present issue cycle of a train's quarter that have not issued yet. One whose issuing split is no longer the one
that was packed, because it has trapped, say, is packed no more (R139). -/
def State.pack (m : Meaning) (s : State) (t : Train) : List Packed :=
  ((s.core t.core).packs.getD t.quarter []).filter fun e =>
    (s.train e.id).any fun u => u.life = .running && u.core = t.core && u.quarter = t.quarter &&
      (s.issuing m u).any fun sp => (sp.packed e.id).same e && sp.cars ≤ e.cars

/-- Is it an eligible train's turn: as one that is packed, or, when nothing packed is left, as the lead, no eligible train standing between
its quarter's pointer and it (R138, R139)? -/
def State.inTurn (m : Meaning) (s : State) (t : Train) : Bool :=
  if (s.pack m t).isEmpty then
    !s.withheld t.core && !(s.mates t).any fun u => s.seatBehind u < s.seatBehind t && (s.issuing m u).isSome
  else (s.pack m t).any fun e => e.id = t.i.id

/-- The trains that are packed beside a lead whose split `sp` issues: each eligible one of its grid whose split issues the same group, while
the cars fit among the 8 positions (R139). -/
def State.packBeside (m : Meaning) (s : State) (t : Train) (sp : Split) : List Packed :=
  ((s.mates t).foldl (fun (x : List Packed × Nat) u =>
    match s.issuing m u with
    | some v =>
      if u.i.grid = t.i.grid && (v.packed u.i.id).same (sp.packed t.i.id) && x.2 + v.cars ≤ 8 then (x.1 ++ [v.packed u.i.id], x.2 + v.cars)
      else x
    | none => x) ([], sp.cars)).1

/-- The core's figures after a train has issued `sp` in its turn: as a packed one, or as the lead, with the pointer on the slot after it and
the trains packed beside it; one more group is counted (R138, R139). -/
def State.countIssue (m : Meaning) (s : State) (t : Train) (sp : Split) (c : CoreSt) : CoreSt :=
  let c := { c with issues := c.issues + 1, blocked := c.blocked.filter fun id => id != t.i.id }
  if (s.pack m t).isEmpty then
    { c with pointers := c.pointers.set t.quarter ((t.seat + 1) % 32), packs := c.packs.set t.quarter (s.packBeside m t sp) }
  else { c with packed := c.packed + 1, packs := c.packs.set t.quarter ((s.pack m t).filter fun e => e.id != t.i.id) }

/-- The core's figures after a train's attempt to issue has been held: it leaves the pack that it stood in, and is blocked (R72). -/
def State.noteHeld (s : State) (t : Train) : State :=
  (s.onCore t.core fun c =>
    { c with blocked := (c.blocked.filter fun id => id != t.i.id) ++ [t.i.id],
             packs := c.packs.set t.quarter ((c.packs.getD t.quarter []).filter fun e => e.id != t.i.id) }).noteStall t.core

/-- A train's issue boundary as its core's quarter makes it (R138, R139): an eligible train issues in its turn alone; what does not issue
takes no turn. DESIGN CHOICE, safe (log 116). -/
def issueTurn (m : Meaning) (id : Nat) (s : State) : Host.Outcome State Fault Refusal :=
  let x := s.stage id
  match issueTry m id s with
  | (.next u, some sp) => if s.inTurn m x.t then .next (u.onCore x.t.core fun c => s.countIssue m x.t sp c) else .next s
  | (.next u, none) =>
    if x.t.i.id = id && x.t.life = .running && (x.t.pick x.matrixBit).isNone then .next (u.noteHeld x.t) else .next u
  | (o, _) => o

/-- The issue boundaries that may come next: of the trains that issue, those whose turn it is; of the others, each (R138, R139). -/
def State.issueActs (m : Meaning) (s : State) : List Act :=
  (s.trains.filter fun t => t.life = .running && ((issueTry m t.i.id s).2.isNone || s.inTurn m t)).map fun t => .issue t.i.id

/-- What may come next of a train beside its issue: what its operations, waits and limits bring. -/
def Train.acts (t : Train) : List Act :=
  let id := t.i.id
  (t.c.ops.map fun o => o.acts id).flatten ++
  (t.m.mat.map fun o => due .mmaCommit id o.id 0) ++
  (if t.m.mat.isEmpty then [] else [due .matrixHang t.core 0 0]) ++
  (if t.d.slot0.asleep || t.d.slot1.asleep then
    [due .barTryTimeout id 0 0, due .svcReply id 0 0, due .svcReply id 1 0] else []) ++
  (if t.x.graceRun.isSome then [due .graceExpiry id 0 0] else []) ++
  (if t.d.slot0.parked.isSome then [due .parkResume id 0 0, due .switchOut id 0 0] else []) ++
  if t.d.slot1.parked.isSome then [due .parkResume id 1 0, due .switchOut id 1 0] else []

/-- The lines of a granule as events about them. -/
def lineActs (i : Instr) (g : Nat) (gone : List Nat) : List Act :=
  ((List.range 256).filter fun l => !gone.contains l).map fun l => due i (g * 256 + l) 0 0

/-- What may come next of the tiers (R68 to R71, R78, R81). -/
def Store.acts (m : Store) : List Act :=
  (m.tier.map fun e =>
    (match e.2.tier with
     | .promoting => lineActs .lineArrival e.1 e.2.lines
     | .demoting => lineActs .demotionLineWritten e.1 e.2.lines
     | .fast => [due .evictionRequest e.2.part e.1 0]
     | .deep => []) ++ (if e.2.filling then [due .dormantZeroFill e.1 0 0] else [])).flatten ++
  m.quarantine.zipIdx.map fun q => due .quarantineRelease q.2 0 0

/-- What may come next of the service's own work (R28, R89, R366, R367). -/
def Desk.acts (q : Desk) : List Act :=
  q.pending ++
  (q.waiting.map fun w => due .waitTimeLimit w.reqid.toNat w.endpoint 0) ++
  (q.copies.map fun c => (c.left.map fun k => due .copyPerform c.seq k 0) ++ if c.left.isEmpty then [due .copyPerform c.seq 0 0] else []).flatten ++
  (q.parts.map fun p => (if p.refine.isEmpty then [] else [due .refineServe p.num 0 0]) ++ [due .teamDeal p.num 0 0]).flatten

/-- What may come next of the distributor's grids, teams and cores (R141 to R143, R198, R202). -/
def Dist.acts (d : Dist) : List Act :=
  ((d.grids.filter fun g => g.life = .started).map fun g => due .gridComplete g.seq 0 0) ++
  (d.teams.map fun m => match m.life with
    | .placed => [due .preemptRequest m.grid m.idx 0]
    | .vacated => [due .teamReplace m.grid m.idx 0]
    | .done => []).flatten ++
  (d.cores.filter fun c => c.2.hung).map fun c => due .arrayReset c.1 0 0

/-- What may come next of the yard (R249 to R257). -/
def State.yardActs (s : State) : List Act :=
  (s.y.calls.map fun c => due .callEnd c.core 0 0) ++
  (if s.y.rays.isEmpty then [] else (s.q.parts.map fun p => p.cores.map fun c => due .stationCall c 0 0).flatten) ++
  (s.y.rays.map fun r => [due .rayRecordLost r.set.addr r.index r.set.part, due .verdictApply r.set.addr r.index r.set.part]).flatten ++
  (s.y.batches.filter fun b => b.launched.isNone).map fun b => due (if b.kind = 1 then .anyhitBatchLaunch else .hitBatchLaunch) b.num 0 0

/-- What may come next of power and of transfers to peers (R17, R23). -/
def Package.acts (k : Package) : List Act :=
  (k.power.reclaimed.map fun c => due .reclaimReturn c 0 0) ++ k.transfers.map fun x => due .messageAbandon x.tag.toNat x.offset 0

/-- The acts that may come next when nothing stands in the agenda. -/
def State.acts (m : Meaning) (s : State) : List Act :=
  match s.k.phase with
  | .comingUp => [.event (.bringUp Config.selfTest) ⟨0, 0, 0⟩]
  | .accepting => s.issueActs m ++ (s.trains.map Train.acts).flatten ++ s.m.acts ++ s.q.acts ++ s.d.acts ++ s.yardActs ++ s.k.acts
  | _ => []

end Sys2Proof.Machine
end

