-- ==== Sys2Proof/Machine/Bench.lean ====
section
/-! DEFINITION. The bench: a partition, an image, a grid, a team and one train that runs, so that one instruction placed in its
text runs next. It stands for a load and a launch. -/
namespace Sys2Proof.Machine

/-- Where the bench's text stands in the global space. -/
def benchText : Nat := 0x1_0000_0000

/-- The bench's launch record: one team of one train of width 8 with full budgets, 4 tiles, scratchpad, operand buffer and every
barrier declared with one member. -/
def benchRecord : LaunchRec :=
  { after := [], gbar := [1, 1, 1, 1], cbar := List.replicate 8 1, tbar := List.replicate 16 1, roles := [⟨1, 128, 64, 128⟩],
    obuf := 65536, scratch := 65536, ztiles := 4, prio := 0, clh := 1, clw := 1, trains := 1, width := 8, constLen := 0,
    gz := 1, gy := 1, gx := 1, const := 0, handler := 0, entry := benchText, bits := 0 }

/-- The bench's train: user mode, 8 lanes at the start of the text, the budgets of its role. -/
def benchTrain (id part grid : Nat) : Train :=
  { Train.vacant with
    i := ⟨id, part, grid, 0, 0, 0, 8, 128, 64, 128, 4, 0⟩, life := .running,
    d := { Div.reset with slot0 := Split.fresh (BitVec.ofNat 64 benchText) 0xFF (BitVec.ofNat 64 benchText) 0 0 } }

/-- Place the bytes of an instruction at the bench's text and let its train issue next. DESIGN CHOICE, safe (log 3). -/
def State.onBench (s : State) (b : List Byte) : State :=
  let id := s.nextTrain
  let seq := s.q.nextSeq
  let part := 15
  let ua := 0x10000
  { s with
    t := benchTrain id part seq,
    nextTrain := id + 1,
    agenda := [.issue id],
    m := { s.m with mem := Table.setList 0 s.m.mem ua b,
                    maps := ⟨part, benchText, 65536, ua, 65536, 1, false, 0, true, false, true⟩ :: s.m.maps,
                    tier := (1, ⟨part, .fast, [], [], false, false, true, some 0, none⟩) :: s.m.tier },
    q := { s.q with parts := [⟨part, 0, 0, 16, 16, 512, 256, 1024, [], [1, 2, 3], none, 64, [], 0, [3, 7, 11, 15]⟩],
                    images := [⟨1, part, 0, benchText, 12, [(benchText, 0)], benchText, 0, [], [], [], []⟩],
                    nextSeq := seq + 1 },
    d := { s.d with
      grids := [⟨seq, part, 0, 1, benchRecord, .started, 1, 1, [], false, false, [], none, 0, false⟩],
      teams := [⟨seq, 0, .placed, 0, 0, 0, [], [], [], [], 0, 0, 0, false, [], [], 0⟩],
      bars := (List.range 16).map (fun n => Bar.start ⟨0, seq, 0, n⟩ 1) ++ (List.range 8).map (fun n => Bar.start ⟨1, seq, 0, n⟩ 1) ++
        (List.range 4).map fun n => Bar.start ⟨2, seq, 0, n⟩ 1 },
    k := { s.k with phase := .accepting } }

end Sys2Proof.Machine
end

