-- ==== Sys2Proof/Machine/Operands.lean ====
section
/-! DEFINITION. The operand forms: lane words, uniform words, predicate words, constants and pending operations
(R4, R286, R296, R301, R347). -/
namespace Sys2Proof.Machine

/-- A lane word: in each taking-part lane, vd gets `f` of the operands as read (R286). -/
def lane (c : Ctl) (d : Fld) (f : Train → Nat → Word) (s : State) : State :=
  (s.onT fun t => t.putV d.toNat (t.act c) (f t)).done

/-- The same for a word that takes a literal. -/
def laneLit (c : Ctl) (d : Fld) (f : Train → Nat → Word) (s : State) : State :=
  (s.onT fun t => t.putV d.toNat (t.act c) (f t)).doneLit

/-- A lane word that writes a pair (R292). -/
def lanePair (c : Ctl) (d : Fld) (f : Train → Nat → Dword) (s : State) : State :=
  (s.onT fun t => t.putVV d.toNat (t.act c) (f t)).done

/-- A compare: in each taking-part lane, pd gets the relation (R295). -/
def compare (c : Ctl) (pd : Fld) (f : Train → Nat → Bool) (s : State) : State :=
  (s.onT fun t => let e := t.act c; t.putP pd.toNat (maskOf (lanes e) (f t)) e).done

/-- A predicate word: in the taking-part lanes, pd gets a mask (R301). -/
def predicate (c : Ctl) (pd : Fld) (f : Train → Mask) (s : State) : State :=
  (s.onT fun t => t.putP pd.toNat (f t) (t.act c)).done

/-- Does the word take effect once: is its guard true in some lane of SPLIT (R296)? -/
def Train.once (t : Train) (c : Ctl) : Bool := t.act c != 0

/-- A uniform word: sd gets `f` when the guard is true in some lane of SPLIT (R296). -/
def uniform (c : Ctl) (d : Fld) (f : Train → Dword) (s : State) : State :=
  (s.onT fun t => if t.once c then t.putS d.toNat (f t) else t).done

/-- The same for a word that takes a literal. -/
def uniformLit (c : Ctl) (d : Fld) (f : Train → Dword) (s : State) : State :=
  (s.onT fun t => if t.once c then t.putS d.toNat (f t) else t).doneLit

/-- A signed 7-bit immediate (R289). -/
def imm7 (n : Fld) : Word := n.signExtend 32
/-- An unsigned 7-bit immediate (R289). -/
def imm7u (n : Fld) : Word := n.zeroExtend 32

/-- Bits [31:0] of a uniform register: operand b of an S form (R287). -/
def Train.sw (t : Train) (n : Fld) : Word := (t.s n).extractLsb' 0 32

/-- The needs of a T-format lane word. -/
def needs3 (d a b : Fld) : List Need := [.v d.toNat 0, .v a.toNat 0, .v b.toNat 0]
/-- The needs of its S form. -/
def needs3S (d a b : Fld) : List Need := [.v d.toNat 0, .v a.toNat 0, .s b.toNat 0]
/-- The needs of a word with one source. -/
def needs2 (d a : Fld) : List Need := [.v d.toNat 0, .v a.toNat 0]
/-- The needs of a word over lane pairs. -/
def needsPair (d a b : Fld) : List Need := [.v d.toNat 1, .v a.toNat 1, .v b.toNat 1]
/-- The needs of a compare. -/
def needsCmp (d a b : Fld) : List Need := [.p d.toNat, .v a.toNat 0, .v b.toNat 0]
/-- The needs of its S form. -/
def needsCmpS (d a b : Fld) : List Need := [.p d.toNat, .v a.toNat 0, .s b.toNat 0]
/-- The needs of a uniform word. -/
def needsU (d a b : Fld) : List Need := [.s d.toNat 0, .s a.toNat 0, .s b.toNat 0]
/-- The needs of a predicate word. -/
def needsP (d a b : Fld) : List Need := [.p d.toNat, .p a.toNat, .p b.toNat]

/-- Read `n` bytes of a global address on behalf of the device's own pages (constant blocks, tables): a poisoned word gives none;
an address that is not mapped reads zero. -/
def State.readVa (s : State) (part va n : Nat) : State × Option (List Byte) :=
  match s.m.translate part va with
  | none => (s, some (List.replicate n 0))
  | some ua => let (m, b) := s.m.read ua n; ({ s with m := m }, b)

/-- Read `n` bytes of the constant space of the train's grid; bytes past the block read zero (R58, R60). DEDUCED, safe (log 103). -/
def State.readConst (s : State) (off n : Nat) : State × Option (List Byte) :=
  let r := s.recOf s.t
  let k := min n (r.constLen - off)
  if k = 0 then (s, some (List.replicate n 0))
  else
    let (s, b) := s.readVa s.t.i.part (r.const + off) k
    (s, b.map fun b => b ++ List.replicate (n - k) 0)

/-- Append a pending operation of the current split (R111, R181). -/
def Train.enqueue (t : Train) (o : Op) : Train :=
  { t with c := { t.c with ops := t.c.ops ++ [o], next := t.c.next + 1 } }

/-- A pending operation of the current split, issued now (R80, R111, R181). -/
def State.newOp (s : State) (work : Work) (counter : Nat) (m : Mask) (deps : List Nat) (blocks isStore : Bool) (stop : Option Rec) :
    Op :=
  ⟨s.t.c.next, work, counter, m, s.t.split.mask, s.t.pc, s.t.split.region, s.t.split.count, s.t.c.issued, s.m.epoch, deps, blocks,
    isStore, s.t.x.priv, false, false, stop, 0, 0, 0, false, false, false, [], 0, 0, false⟩

/-- A late record of the current split's word (R181). -/
def State.lateRec (s : State) (cause : Nat) (m : Mask) (info : Dword) : Rec :=
  ⟨BitVec.ofNat 8 cause, m, info, s.t.pc, s.t.split.region, s.t.split.count, s.t.c.issued, true⟩

/-- The reply of an uncounted load met poison in the lanes `m`: its record is raised when the reply arrives (R76, R349). -/
def State.poisonReply (s : State) (m : Mask) (info : Dword) : State :=
  if m = 0 then s
  else s.onT fun t => t.enqueue (s.newOp .reply 16 m [] false false (some (s.lateRec 0x0B m info)))

/-- Bits of a size code (R279): the bytes of the access, and whether a load extends the sign. -/
def accessSize (w : BitVec 3) : Nat × Bool :=
  match w.toNat with
  | 0 => (1, false)
  | 1 => (1, true)
  | 2 => (2, false)
  | 3 => (2, true)
  | 4 => (4, false)
  | 5 => (8, false)
  | _ => (16, false)

/-- The number of registers of an access beyond the first (R279). -/
def extraRegs (n : Nat) : Nat := if n ≤ 4 then 0 else n / 4 - 1

/-- Widen a loaded value of `n` bytes to `bits` bits (R279, R299). -/
def widen (bits n : Nat) (signed : Bool) (v : Nat) : BitVec bits :=
  if signed && v.testBit (8 * n - 1) then BitVec.ofInt bits ((v : Int) - 2 ^ (8 * n)) else BitVec.ofNat bits v

end Sys2Proof.Machine
end

