-- ==== Sys2Proof/Machine/Control.lean ====
section
/-! DEFINITION. Transfers of control, divergence, traps and turns (R151 to R157, R327 to R335). -/
namespace Sys2Proof.Machine

/-- The packet address of the word under way (R266). -/
def State.packetAddr (s : State) : Dword :=
  match s.textBase s.t.i.part s.t.pc.toNat with
  | some base => BitVec.ofNat 64 (packetOf base s.t.pc.toNat)
  | none => s.t.pc

/-- The target of a B-format word: P + 12 × SEXT(off21) (R266). -/
def State.target (s : State) (off : BitVec 21) : Dword := s.packetAddr + 12 * off.signExtend 64

/-- The sequential successor of the word or group under way (R266). -/
def Train.nextPc (t : Train) : Dword :=
  match t.group with
  | some g => g.next
  | none => t.split.pc + 4

/-- The siding case of 0x30: every lane of SPLIT, TRAPINFO 0 (R151, R331). -/
def State.sidingFault (s : State) : State := s.raise 0x30 s.t.splitLanes 0

/-- A transfer of lanes to addresses, which may divide the split (R151, R327). -/
def transfer (targets : List (Dword × Mask)) (ends : Bool) (s : State) : State :=
  let n := (splitGroups s.t.nextPc s.t.split.mask targets).length
  if s.t.overfull (s.t.pushes n) then s.sidingFault else s.conclude (.go targets) ends false false 4

/-- `bra` (R327). -/
def execBra (c : Ctl) (off : BitVec 21) (s : State) : Host.Outcome State Fault Refusal :=
  word (.bra c off) false [] (fun s => transfer [(s.target off, s.t.act c)] false s) s

/-- The private space that a word reads: in a chained group, as it stood before it (R146). -/
def Train.oldPriv (t : Train) : Sparse Byte :=
  match t.group with
  | some g => g.priv
  | none => t.priv

/-- A lane's return-stack depth word (R328). -/
def Train.depthOf (t : Train) (l : Nat) : Nat := natOfBytes (Table.getList 0 t.oldPriv (privKey l 0xDFF8) 4)
/-- Entry i of a lane's return stack (R328). -/
def Train.returnAt (t : Train) (l i : Nat) : Nat := natOfBytes (Table.getList 0 t.oldPriv (privKey l (0xDF00 + 8 * i)) 8) % 2 ^ 56

/-- Does a word of a lane's private space that this access touches hold the poison mark, in a chained group as before it (R146, R328,
R349)? -/
def Train.privPoisoned (t : Train) (l off n : Nat) : Bool :=
  let bad := match t.group with
    | some g => g.bad
    | none => t.privBad
  (eccWords (privKey l off) n).any fun w => bad.contains w

/-- TRAPINFO of 0x30 (R331). -/
def stackInfo (reason depth : Nat) : Dword := BitVec.ofNat 64 (reason * 2 ^ 60 + depth % 2 ^ 32)

/-- The lanes of a list that satisfy a test, as a mask, when there are any. -/
def failing (e : Mask) (f : Nat → Bool) : Option Mask :=
  let m := maskOf (lanes e) f
  if m = 0 then none else some m

/-- Poison in the words that `call` or `ret` reads, at offset `off l` of lane l (R328, R329). -/
def Train.stackPoison (t : Train) (e : Mask) (n : Nat) (off : Nat → Nat) : Option (Nat × Mask × Dword) :=
  (failing e fun l => t.privPoisoned l (off l) n).map fun m => (0x0B, m, memInfo 8 0 (off (lowest m)))

/-- `call` (R328). -/
def execCall (c : Ctl) (off : BitVec 21) (s : State) : Host.Outcome State Fault Refusal :=
  word (.call c off) false []
    (fun s =>
      let e := s.t.act c
      let ret := (s.packetAddr + 12).toNat
      let target := s.target off
      let full := (failing e fun l => 31 ≤ s.t.depthOf l).map fun m => (0x30, m, stackInfo 1 (s.t.depthOf (lowest m)))
      s.orRaise (s.t.stackPoison e 4 (fun _ => 0xDFF8) <|> full <|> s.t.stackPoison e 8 fun l => 0xDF00 + 8 * s.t.depthOf l) fun s =>
        let n := (splitGroups s.t.nextPc s.t.split.mask [(target, e)]).length
        if s.t.overfull (s.t.pushes n) then s.sidingFault
        else
          let s := s.onT fun t => (lanes e).foldl (fun (u : Train) l =>
            let d := t.depthOf l
            (u.setPriv l (0xDF00 + 8 * d) (bytesOfNat 8 ret)).setPriv l 0xDFF8 (bytesOfNat 4 (d + 1))) t
          s.conclude (.go [(target, e)]) true false false 4) s

/-- `ret` (R329). -/
def execRet (c : Ctl) (s : State) : Host.Outcome State Fault Refusal :=
  word (.ret c) false []
    (fun s =>
      let t := s.t
      let e := t.act c
      let dest := fun l => t.returnAt l (t.depthOf l - 1)
      let empty := (failing e fun l => t.depthOf l = 0 || 31 < t.depthOf l).map fun m =>
        (0x30, m, stackInfo 2 (t.depthOf (lowest m)))
      let bad := (failing e fun l => !s.isPacket t.i.part (dest l)).map fun m => (0x02, m, wordInfo (.ret c))
      s.orRaise (t.stackPoison e 4 (fun _ => 0xDFF8) <|> empty <|> t.stackPoison e 8 (fun l => 0xDF00 + 8 * (t.depthOf l - 1)) <|>
          bad) fun s =>
        let targets := (lanes e).map fun l => (BitVec.ofNat 64 (dest l), laneBit l)
        let n := (splitGroups t.nextPc t.split.mask targets).length
        if t.overfull (t.pushes n) then s.sidingFault
        else
          let s := s.onT fun t => (lanes e).foldl (fun (u : Train) l =>
            u.setPriv l 0xDFF8 (bytesOfNat 4 (t.depthOf l - 1))) t
          s.conclude (.go targets) true false false 4) s

/-- `jmpi` (R330). -/
def execJmpi (c : Ctl) (a : Fld) (s : State) : Host.Outcome State Fault Refusal :=
  word (.jmpi c a) false [.s a.toNat 0]
    (fun s =>
      let e := s.t.act c
      let x := s.t.s a
      if e != 0 && !s.isPacket s.t.i.part x.toNat then s.raise 0x02 e (wordInfo (.jmpi c a))
      else transfer [(x, e)] false s) s

/-- `fork` (R155). -/
def execFork (k : Bool) (off : BitVec 21) (s : State) : Host.Outcome State Fault Refusal :=
  word (.fork k off) false []
    (fun s => if s.t.overfull 1 then s.sidingFault else s.conclude (.fork (s.target off)) true false false 4) s

/-- Why a `join` at address `j` faults: its split's innermost frame waits elsewhere (R156, R160). -/
def Train.joinFault (t : Train) (j : Dword) : Option Dword :=
  if t.split.frame = 0 then none
  else match t.entry (t.split.frame - 1) with
    | .frame f => if f.l = j then none else some f.l
    | .split _ => some 0

/-- The address of the word under way itself, in a group too (R156, R266). -/
def Train.wordPc (t : Train) : Dword :=
  match t.group with
  | some g => g.first + BitVec.ofNat 64 (4 * g.slot)
  | none => t.split.pc

/-- `join` (R156). -/
def execJoin (k : Bool) (s : State) : Host.Outcome State Fault Refusal :=
  word (.join k) false []
    (fun s =>
      match s.t.joinFault s.t.wordPc with
      | some l => s.raise 0x12 s.t.splitLanes (BitVec.ofNat 64 (2 ^ 60 + l.toNat % 2 ^ 56))
      | none => s.conclude .join false false false 4) s

/-- `exit` (R157, R332). -/
def execExit (c : Ctl) (s : State) : Host.Outcome State Fault Refusal :=
  word (.exit c) false []
    (fun s => s.conclude (if s.t.act c = 0 then .on else .exits (s.t.act c)) false false false 4) s

/-- `idem` (R333). -/
def execIdem (k : Bool) (s : State) : Host.Outcome State Fault Refusal :=
  word (.idem k) false [] (fun s => s.conclude .on false true false 4) s

/-- `trap` (R334). -/
def execTrap (c : Ctl) (n : BitVec 14) (s : State) : Host.Outcome State Fault Refusal :=
  word (.trap c n) false []
    (fun s => if s.t.act c = 0 then s.done else s.raise 0x20 (s.t.act c) (wordInfo (.trap c n))) s

/-- `brk` (R334). -/
def execBrk (c : Ctl) (n : BitVec 14) (s : State) : Host.Outcome State Fault Refusal :=
  word (.brk c n) false []
    (fun s => if s.t.act c = 0 then s.done else s.raise 0x21 (s.t.act c) (wordInfo (.brk c n))) s

/-- `yield` (R150, R335). -/
def execYield (c : Ctl) (s : State) : Host.Outcome State Fault Refusal :=
  word (.yield c) false [] (fun s => s.conclude .on false false (s.t.act c != 0) 4) s

/-- *illegal instruction* or *illegal packet* at issue, before any effect: TRAPPC is the word's address, or the packet's with slot
0's word as TRAPINFO (R271, R272, R186). -/
def execIllegalInstruction (packet : Bool) (w : Word) (s : State) : Host.Outcome State Fault Refusal :=
  if s.t.life ≠ .running then .fault .noTrain
  else if packet then
    let p := s.packetAddr
    if s.t.x.priv then .next (s.kill 0x02 (w.zeroExtend 64) p)
    else .next (s.onT fun t => (t.attach 0x02 t.splitLanes (w.zeroExtend 64) p).settle)
  else .next (s.raise 0x01 s.t.splitLanes (w.zeroExtend 64))

/-- The turn of the current slot is over: the train switches to its other live slot (R150). -/
def execQuantumExpiry (s : State) : Host.Outcome State Fault Refusal :=
  let s := s.stage s.subject.a
  if s.t.turnOver then .next (s.onT fun t => { t with d := t.d.take (!t.d.cur) }) else .next s

/-- TRAP_ENTRY of the subject train, when it has a record to deliver (R182, R183). -/
def execTrapEntry (s : State) : Host.Outcome State Fault Refusal :=
  let s := s.stage s.subject.a
  if s.t.life = .running then .next s.trapEntry else .next s

end Sys2Proof.Machine
end

