-- ==== Sys2Proof/Machine/Order.lean ====
section
/-! DEFINITION. The order of a train's accesses: scopes, releases, acquires and fences, and what other observers may see of it (R99 to
R120). -/
namespace Sys2Proof.Machine

/-- Is this a load, store or atomic of the train itself, or a release's ordering, not an engine's operation (R102, R107, R108)? -/
def Op.own (o : Op) : Bool :=
  match o.work with
  | .order => true
  | .load .. => true
  | .localLoad .. => true
  | .store .. => true
  | .atomic .. => true
  | _ => false

/-- Is it still to be performed or, where it is an acquire that others could observe, to retire (R352, R355)? -/
def Op.pending (o : Op) : Bool := !o.done || o.acq != 0

/-- The split's own earlier accesses that have not been performed; an acquire counts until it retires. -/
def Train.unperformed (t : Train) : List Op := t.c.ops.filter fun o => o.own && o.pending && t.before o

/-- Is an acquire at system scope of the split outstanding, so that no later access may be performed (R107, R352)? -/
def Train.acquiring (t : Train) : Bool := t.c.ops.any fun o => o.blocks && t.before o

/-- Does the instance of a scope hold no train but this one: .train, and .team or .clus where the team or the cluster is one train (R103)?
Nobody but the train and its engines then observes what an ordering operation of that scope orders. -/
def State.scopeAlone (s : State) (sc : Nat) : Bool :=
  let r := s.recOf s.t
  sc = 0 || (sc = 1 && r.trains = 1) || (sc = 2 && r.trains = 1 && r.clw * r.clh = 1)

/-- Does the instance of a scope that holds train `a` hold train `b` too (R103)? -/
def State.sameScope (s : State) (sc : Nat) (a b : Train) : Bool :=
  match sc with
  | 0 => false
  | 1 => a.i.grid = b.i.grid && a.i.team = b.i.team
  | 2 => a.i.grid = b.i.grid && (s.rankOf a).2 = (s.rankOf b).2
  | _ => true

/-- How an access is ordered (R102, R103): the scope of its acquire and of its release ordering, 0 where it has none that another train could
observe, and whether later engine operations follow it. -/
structure Order where
  acqAt  : Nat
  relAt  : Nat
  fenced : Bool
  deriving DecidableEq, Repr

/-- The order of a plain access. -/
def Order.plain : Order := ⟨0, 0, false⟩

/-- The order of an access with acquire or release ordering at a scope. Where the scope holds the train alone it counts as plain; an acquire
of any scope stands before later engine operations (R103, R109). -/
def State.order (s : State) (acquire release : Bool) (sc : Nat) : Order :=
  if s.scopeAlone sc then ⟨0, 0, acquire⟩ else ⟨if acquire then sc else 0, if release then sc else 0, acquire⟩

/-- Does every later access wait for it: an acquire at system scope (R107)? -/
def Order.acquire (k : Order) : Bool := 4 ≤ k.acqAt

/-- The widest scope whose observers must see an earlier access `o` of the split before an access of order `k`: that of its release, that of
the earlier one's acquire or of a fence between them, and, of a release and an acquire, the narrower scope (R108 note 3, R110). -/
def Order.sees (k : Order) (o : Op) : Nat := max (max k.relAt o.acq) (max o.fence (min o.rel k.acqAt))

/-- Of the split's earlier accesses, those that an access of order `k` follows at system scope: it is not performed before them. -/
def Train.strictly (t : Train) (k : Order) : List Op := t.unperformed.filter fun o => 4 ≤ k.sees o

/-- Those that it follows at a narrower scope, each with that scope: it may be performed before them, as long as nobody in the scope sees
that (R103). -/
def Train.after (t : Train) (k : Order) : List (Nat × Nat) :=
  (t.unperformed.filter fun o => 0 < k.sees o && k.sees o < 4).map fun o => (o.id, k.sees o)

/-- May the operation be performed as far as its own train goes: is it not parked, and has every operation that it must follow been
performed (R66, R105, R109, R110)? -/
def Train.ready (t : Train) (o : Op) : Bool :=
  !o.done && !o.parked && o.deps.all fun i => t.c.ops.all fun p => p.id != i || p.done

/-- The places of an operation's lanes. -/
def Op.accesses (o : Op) : List LaneAcc :=
  match o.work with
  | .load _ _ _ acc => acc
  | .localLoad _ _ _ acc => acc
  | .store _ _ acc => acc
  | .atomic _ _ _ _ _ _ acc => acc
  | _ => []

/-- Does a lane's access reach into a remote window and is still to be performed there? -/
def Op.abroad (o : Op) : Bool := o.accesses.any fun a => a.win.isSome && !a.done

/-- Is every one of these operations over, or does it satisfy `p`? -/
def Train.allDone (t : Train) (after : List (Nat × Nat)) (p : Op → Bool) : Bool :=
  after.all fun e => t.c.ops.all fun q => q.id != e.1 || !q.pending || p q

/-- The operations on an operation's counter that have to complete before it retires (R111). -/
def Train.olderOn (t : Train) (o : Op) : List Op :=
  (t.c.ops.takeWhile fun q => q.id != o.id).filter fun q => q.counter = o.counter && o.counter != 16 && !q.done

/-- Could an access of the train on the issue stage be performed whole at this step, and retire where it is an acquire, once those that it
follows, at most `n` deep, have been (R69, R103)? -/
def State.payable (s : State) : Nat → Op → Bool
  | 0, _ => false
  | n + 1, o =>
    (o.done || (s.t.ready o && !o.abroad && (o.homes.all fun h => s.servable h.1 h.2) && s.t.allDone o.after (s.payable n))) &&
      (o.acq = 0 || (s.t.olderOn o).all (s.payable n))

/-- May an access of the train on the issue stage be performed before those of `after` that are still pending: each of them can be performed
right after it (R103)? -/
def State.admits (s : State) (after : List (Nat × Nat)) : Bool := s.t.allDone after (s.payable s.t.c.ops.length)

/-- Is train `t` in a scope in which another train's access has been overtaken, so that it observes nothing, and nothing of it is observed,
until that access is over: within the scope the two are then seen in their order, and only those outside it can tell
(R103, R106). DESIGN CHOICE, unsafe (log 123). -/
def State.frozen (s : State) : Bool := s.rest.any fun u => u.c.ops.any fun p => p.owed != 0 && p.pending && s.sameScope p.owed u s.t

/-- The same of the yard, which is in every train's device scope (R103, R115). -/
def State.yardFrozen (s : State) : Bool := s.trains.any fun u => u.c.ops.any fun p => p.owed == 3 && p.pending

/-- May the operation be performed (R103 to R110)? One that reaches a peer, whose reply comes later, overtakes nothing. -/
def State.mayPerform (s : State) (o : Op) : Bool :=
  s.t.ready o && !s.frozen && (if o.abroad then s.t.allDone o.after fun _ => false else s.admits o.after)

/-- These operations have been overtaken by an access that is to be seen after them in the scopes given (R103). -/
def Train.owe (t : Train) (after : List (Nat × Nat)) : Train :=
  { t with c := { t.c with ops := t.c.ops.map fun o =>
    { o with owed := if o.pending then (after.filter fun e => e.1 = o.id).foldl (fun n e => max n e.2) o.owed else o.owed } } }

/-- May a word of order `k` read or write memory, or arrive, at its issue (R103, R107, R113)? -/
def State.mayAct (s : State) (k : Order) : Bool :=
  !s.t.acquiring && !s.frozen && (s.t.strictly k).isEmpty && s.admits (s.t.after k)

/-- It does so, and may by that overtake accesses of its split. -/
def State.act (s : State) (k : Order) : State := s.onT fun t => t.owe (t.after k)

/-- A fence at scope `sc` stands behind what the split has issued before now, for later accesses within that scope, and for engine
operations issued from now on (R103, R108 note 1). -/
def Train.fenceOps (t : Train) (sc : Nat) : Train :=
  { t with c := { t.c with ops := t.c.ops.map fun o => if o.own && t.before o then { o with fenced := true, fence := max o.fence sc } else o } }

/-- The operations that an engine operation follows: with `.rel` every earlier access of the split, otherwise acquires and those behind a
fence (R108 note 1, R109, R112); a `wait` alone puts a pending store, which no counter counts, before none of them. DEDUCED, safe (log
133). -/
def Train.engineDeps (t : Train) (rel : Bool) : List Nat := (t.unperformed.filter fun o => rel || o.fenced).map Op.id

/-- May an engine or the object walker read for the train at this step (R103, R109, R112)? -/
def State.mayFetch (s : State) (rel : Bool) : Bool := !s.t.acquiring && !s.frozen && (s.t.engineDeps rel).isEmpty

/-- The ordering effect of a release that is guarded off in every lane: an operation with no access, which follows the split's earlier ones
(R107). -/
def State.orderOnly (s : State) (k : Order) : State :=
  if k.relAt = 0 || s.t.unperformed.isEmpty then s
  else s.onT fun t => t.enqueue { s.newOp .order 16 0 ((t.strictly k).map Op.id) k.acquire false none with
    acq := k.acqAt, rel := k.relAt, fenced := k.fenced, after := t.after k }

end Sys2Proof.Machine
end

