-- ==== Sys2Proof/Machine/Sync.lean ====
section
/-! DEFINITION. Barriers, `wait`, `fence` (R107, R165 to R179, R336 to R338). -/
namespace Sys2Proof.Machine

/-- The train's lanes that have not exited: where a coupling word writes its predicate (R169). -/
def Train.writeParity (t : Train) (pd : Fld) (b : Bool) : Train := t.putP pd.toNat (if b then BitVec.allOnes 64 else 0) t.live

/-- A barrier word names the barrier BARID; an undeclared one raises 0x11, REASON 1 (R167). -/
def withBar (barid : BitVec 5) (body : Bar → State → State) (s : State) : State :=
  let k := s.barKey s.t barid.toNat
  match s.bar k with
  | none => s.raise 0x11 s.t.splitLanes (barInfo 1 k.level k.num 0)
  | some b => body b s

/-- The trap of a barrier word at a barrier (R176). -/
def State.barRaise (s : State) (b : Bar) (f : Nat × Nat) : State :=
  s.raise f.1 s.t.splitLanes (barInfo f.2 b.key.level b.key.num b.phase)

/-- An arrival: faults first; it is a release at its barrier's level, so that the trains of that level see what the split has issued before
(R103, R113, R168); then the barrier takes it and the train goes on as `go` says with the phase arrived at. -/
def arrival (drop : Bool) (go : Word → State → State) (b : Bar) (s : State) : State :=
  let m := s.member s.t b.key.level
  match b.arrivalFault m with
  | some f => s.barRaise b f
  | none =>
    let k := s.order false true (b.key.level + 1)
    if s.mayAct k then go b.phase ((s.act k).setBar (b.arrive m drop)) else s.hold .wait

/-- `bar.arrive` (R168, R169). -/
def execBarArrive (k : Bool) (pd : Fld) (bar : BitVec 5) (s : State) : Host.Outcome State Fault Refusal :=
  word (.barArrive k pd bar) false [.p pd.toNat]
    (coupled (withBar bar (arrival false fun q s => (s.onT fun t => t.writeParity pd (q.getLsbD 0)).doneEnding 4))) s

/-- `bar.drop` (R168, R169). -/
def execBarDrop (k : Bool) (pd : Fld) (bar : BitVec 5) (s : State) : Host.Outcome State Fault Refusal :=
  word (.barDrop k pd bar) false [.p pd.toNat]
    (coupled (withBar bar (arrival true fun q s => (s.onT fun t => t.writeParity pd (q.getLsbD 0)).doneEnding 4))) s

/-- The completion of a wait against the barrier's most recent phase: an acquire, behind which the train's engines follow its earlier
accesses; with LASTERR it then raises 0x0E (R109, R113, R170). -/
def State.waitDone (s : State) (b : Bar) : State :=
  let s := s.onT fun t => t.fenceOps 0
  if b.lastErr then s.barRaise b (0x0E, 0) else s.done

/-- The completion of a `bar.sync` against the phase that it arrived at (R109, R113, R170). -/
def State.syncDone (s : State) (b : Bar) (q : Word) : State :=
  let s := s.onT fun t => t.fenceOps 0
  if b.failed.contains q then s.barRaise b (0x0E, 0) else s.done

/-- `bar.sync`: the arrival, then, in its wait half, the wait against the phase arrived at (R169, R170, R187). -/
def execBarSync (k : Bool) (bar : BitVec 5) (s : State) : Host.Outcome State Fault Refusal :=
  word (.barSync k bar) false []
    (coupled (withBar bar fun b s =>
      match s.t.split.sync with
      | none => arrival false (fun q s =>
          (s.onT fun t => t.setSplit { t.split with sync := some q }).conclude .stay true false false 4) b s
      | some q =>
        if b.parity = q.getLsbD 0 then s.hold .wait
        else (s.onT fun t => t.setSplit { t.split with sync := none }).syncDone b q)) s

/-- A predicate as read in the lowest lane of the train that has not exited (R169). -/
def Train.lowestP (t : Train) (pa : Fld) : Bool := (t.p pa).getLsbD (lowest t.live)

/-- `bar.wait` (R169, R170). -/
def execBarWait (k : Bool) (pa : Fld) (bar : BitVec 5) (s : State) : Host.Outcome State Fault Refusal :=
  word (.barWait k pa bar) false [.p pa.toNat]
    (coupled (withBar bar fun b s => if b.parity = s.t.lowestP pa then s.hold .wait else s.waitDone b)) s

/-- `bar.expect` (R172). -/
def execBarExpect (k : Bool) (sb : Fld) (bar : BitVec 5) (s : State) : Host.Outcome State Fault Refusal :=
  word (.barExpect k sb bar) false [.s sb.toNat 0]
    (coupled (withBar bar fun b s =>
      let n := (s.t.s sb).toNat
      match b.expectFault (s.member s.t b.key.level) n with
      | some f => s.barRaise b f
      | none => (s.setBar (b.expectBytes n)).doneEnding 4)) s

/-- `bar.try` ends: pd from the parity now, and where the phase is past, the completion of R170 (R175). -/
def State.tryDone (s : State) (pd pa : Fld) (b : Bar) : State :=
  let past := b.parity != s.t.lowestP pa
  let s := s.onT fun t => { t.writeParity pd past with w := { t.w with ranOut := false } }
  if past then s.waitDone b else s.done

/-- `bar.try` (R175). -/
def execBarTry (k : Bool) (pd pa : Fld) (bar : BitVec 5) (sb : BitVec 2) (s : State) : Host.Outcome State Fault Refusal :=
  word (.barTry k pd pa bar sb) false [.p pd.toNat, .p pa.toNat, .s sb.toNat 0]
    (coupled (withBar bar fun b s =>
      if b.parity != s.t.lowestP pa || s.t.s (sb.zeroExtend 7) = 0 || s.t.w.ranOut then s.tryDone pd pa b
      else s.hold (.asleep none))) s

/-- The word that stands alone at an address: its instruction, when it decodes. -/
def State.instrAt (s : State) (part : Nat) (pc : Dword) : Option Instr :=
  match s.fetched part pc with
  | some ⟨[w], _⟩ => decode w.1 w.2
  | _ => none

/-- Wake the current slot's suspended split. -/
def Train.wake (t : Train) : Train := t.setSplit { t.split with asleep := false }

/-- The slot that holds a suspended split becomes the current one. -/
def Train.toAsleep (t : Train) : Train :=
  if t.d.slot0.asleep && t.d.slot0.mask != 0 then { t with d := { t.d with cur := false } }
  else if t.d.slot1.asleep && t.d.slot1.mask != 0 then { t with d := { t.d with cur := true } }
  else t

/-- A `bar.try` suspension of the subject train ends, by its phase or by its limit: pd is written from the parity now (R175). One in
a chained group lets its group issue. -/
def execBarTryTimeout (s : State) : Host.Outcome State Fault Refusal :=
  let s := s.stage s.subject.a
  let s := s.onT Train.toAsleep
  if s.t.life = .running && s.t.split.asleep && s.t.split.asked.isNone then
    match s.instrAt s.t.i.part s.t.split.pc with
    | some (.barTry _ pd pa bar _) =>
      match s.bar (s.barKey s.t bar.toNat) with
      | some b => .next ((s.onT Train.wake).tryDone pd pa b)
      | none => .next (s.onT Train.wake)
    | _ => .next (s.onT fun t => { t.wake with w := { t.w with ranOut := true } })
  else .next s

/-- The operations outstanding on a counter (R111). -/
def Train.outstanding (t : Train) (n : Nat) : Nat := (t.c.ops.filter fun o => o.counter = n).length

/-- `wait` (R111, R179, R337): it orders what its counter counts; other operations still pending stay unordered with what follows it (R109,
R112). DEDUCED, safe (log 133). -/
def execWait (k : Bool) (ac : BitVec 4) (lim : BitVec 8) (s : State) : Host.Outcome State Fault Refusal :=
  word (.wait k ac lim) false []
    (fun s =>
      if lim.toNat < s.t.outstanding ac.toNat then s.hold .wait
      else if s.t.c.err.getLsbD ac.toNat then
        (s.onT fun t => { t with c := { t.c with err := t.c.err &&& ~~~BitVec.ofNat 16 (2 ^ ac.toNat) } }).raise 0x0E s.t.splitLanes
          (barInfo 1 3 ac.toNat 0)
      else s.done) s

/-- `fence`, whatever its guard (R103, R107, R108, R338): at system scope it goes on once every earlier access of the split has been
performed; at a narrower scope it stands between those accesses and the later ones for the observers of that scope. In either case the
accesses stand before later engine operations. DESIGN CHOICE, safe (log 11). -/
def execFence (c : Ctl) (sc : BitVec 3) (s : State) : Host.Outcome State Fault Refusal :=
  word (.fence c sc) false []
    (fun s =>
      if s.t.unperformed.isEmpty then s.done
      else if 4 ≤ sc.toNat then s.hold .wait
      else (s.onT fun t => t.fenceOps (s.order false true sc.toNat).relAt).done) s

end Sys2Proof.Machine
end

