-- ==== Sys2Proof/Machine/Mem.lean ====
section
/-! DEFINITION. Loads and stores of every space, atomics and the migration hint (R57 to R67, R100 to R120, R347 to R355). -/
namespace Sys2Proof.Machine

/-- Write a loaded value of `n` bytes to a lane's register, pair or quad (R279, R349); `prv` says which names are banked (R184). -/
def Regs.putData (r : Regs) (prv : Bool) (d n : Nat) (signed : Bool) (lane v : Nat) : Regs :=
  if n ≤ 4 then r.setV prv d lane (widen 32 n signed v)
  else (List.range (n / 4)).foldl (fun (u : Regs) i => u.setV prv (d + i) lane (BitVec.ofNat 32 (natBits v (32 * i) 32))) r

/-- The data that a store takes from a lane's register, pair or quad: its low `n` bytes. -/
def Train.data (t : Train) (d : Fld) (n lane : Nat) : Nat :=
  if n ≤ 4 then (t.v d lane).toNat % 2 ^ (8 * n)
  else (List.range (n / 4)).foldl (fun acc i => acc + (t.vk d i lane).toNat * 2 ^ (32 * i)) 0

/-- The team of the train's cluster with this rank (R57). -/
def State.teamOfRank (s : State) (rank : Nat) : Option Team :=
  match s.myTeam with
  | none => none
  | some m => if m.rank = rank then some m else s.d.teams.find? fun o => o.grid = m.grid && o.cluster = m.cluster && o.rank = rank

/-- Read a team's scratchpad. -/
def State.scratchRead (s : State) (grid team off n : Nat) : List Byte :=
  match s.team grid team with
  | some m => Table.getList 0 m.scratch off n
  | none => List.replicate n 0

/-- Write a team's scratchpad. -/
def State.scratchWrite (s : State) (grid team off : Nat) (b : List Byte) : State :=
  s.onTeam grid team fun m => { m with scratch := Table.setList 0 m.scratch off b }

/-- The team and offset that a scratchpad or cluster-scratchpad address names (R57, R350). -/
def State.scratchPlace (s : State) (space ea : Nat) : Nat × Nat :=
  if space = 2 then
    match s.teamOfRank (ea / 2 ^ 25 % 128) with
    | some m => (m.idx, ea % 2 ^ 25)
    | none => (s.t.i.team, ea % 2 ^ 25)
  else (s.t.i.team, ea)

/-- The check of one address of a local space: private 0, scratchpad 1, cluster scratchpad 2, constant 4 (R58, R349, R350): the extent
first, then the alignment. `n` is the size that its alignment must match, `len` the bytes from it that must lie inside: 1 for an
access whose aligned address decides. -/
def State.localFault (s : State) (space ea n len : Nat) : Option Nat :=
  let r := s.recOf s.t
  let range : Option Nat :=
    if 2 ^ 32 ≤ ea then some 0
    else match space with
      | 0 => if 65536 < ea + len then some 0 else if !s.t.x.priv && 0xE000 < ea + len then some 7 else none
      | 1 => if r.scratch < ea + len then some 0 else none
      | 2 => if r.clw * r.clh ≤ ea / 2 ^ 25 || r.scratch < ea % 2 ^ 25 + len then some 0 else none
      | _ => if 65536 < ea + len then some 0 else none
  range <|> (if ea % n ≠ 0 then some 1 else none)

/-- The bytes of a lane's access, for the test of common locations. -/
def LaneAcc.meets (a : LaneAcc) (n : Nat) (b : LaneAcc) (k : Nat) : Bool :=
  a.win == b.win && decide (a.ua < b.ua + k) && decide (b.ua < a.ua + n)

/-- The space, lanes and size of an operation's accesses: global 3, scratchpad 1. -/
def Work.places : Work → Option (Nat × Nat × List LaneAcc)
  | .load n _ _ acc => some (3, n, acc)
  | .localLoad n _ _ acc => some (1, n, acc)
  | .store space n acc => some (space, n, acc)
  | .atomic space wide _ _ _ _ acc => some (space, if wide then 8 else 4, acc)
  | _ => none

/-- Do these accesses touch a location of an earlier operation (R105)? -/
def Op.common (o : Op) (space n : Nat) (acc : List LaneAcc) : Bool :=
  match o.work.places with
  | none => false
  | some (sp, k, old) => sp == space && acc.any fun a => old.any fun b => a.meets n b k

/-- The operations that a new access of the split must follow: those not yet performed that touch a common location, and those that it
follows at system scope (R105, R108 note 3, R109, R110, R352). DESIGN CHOICE, unsafe (log 104). -/
def Train.deps (t : Train) (space n : Nat) (acc : List LaneAcc) (k : Order) : List Nat :=
  (t.unperformed.filter fun o => 4 ≤ k.sees o || o.common space n acc).map Op.id

/-- Has the counter, or the store buffer, no room (R67, R351)? DESIGN CHOICE, unsafe (log 29). -/
def Train.noRoom (t : Train) (ac : Nat) (store : Bool) : Bool :=
  (ac < 16 && 255 ≤ t.outstanding ac) || (store && 64 ≤ (t.c.ops.filter Op.pendingStore).length)

/-- The 256-byte lines that an operation's outstanding requests name (R67). -/
def Op.lines (o : Op) : Nat :=
  let count := fun (acc : List LaneAcc) => ((acc.filter fun a => !a.done).map fun a => lineOf a.ua).eraseDups.length
  if o.done then 0
  else match o.work with
    | .load _ _ _ acc => count acc
    | .store 3 _ acc => count acc
    | .atomic 3 _ _ _ _ _ acc => count acc
    | .texture _ _ ls => ((ls.map Prod.snd).flatten.map fun p => lineOf p.2.1).eraseDups.length
    | _ => 0

/-- Has the core of the train on the issue stage no room for `n` more line requests (R67)? -/
def State.linesFull (s : State) (n : Nat) : Bool :=
  let mine := s.trains.filter fun t => t.core = s.t.core && t.life != .ended
  Config.lineRequests < (((mine.map fun t => t.c.ops.map Op.lines).flatten).foldl (· + ·) 0) + n

/-- The lines that new global accesses name. -/
def linesOf (acc : List LaneAcc) : Nat := (acc.map fun a => lineOf a.ua).eraseDups.length

/-- An access of the split as a pending operation, with its order (R72, R103, R107, R111). -/
def State.accessOp (s : State) (space n ac : Nat) (acc : List LaneAcc) (writes : Bool) (k : Order) (work : Work) (e : Mask) : Op :=
  { s.newOp work ac e (s.t.deps space n acc k) k.acquire writes none with
    acq := k.acqAt, rel := k.relAt, fenced := k.fenced, after := s.t.after k,
    pulled := space == 3 && acc.any fun a => a.win.isNone && s.m.needsPull a.ua }

/-- Put an access of the split into its pending operations (R103, R111). -/
def State.putAccess (s : State) (space n ac : Nat) (acc : List LaneAcc) (writes : Bool) (k : Order) (work : Work) (e : Mask) : State :=
  s.onT fun t => t.enqueue (s.accessOp space n ac acc writes k work e)

/-- Read `n` bytes of a local space for a lane; none where a word is poisoned (R349). -/
def State.readLocal (s : State) (space lane ea n : Nat) : State × Option (List Byte) :=
  match space with
  | 0 => (s, if s.t.privPoisoned lane ea n then none else some (Table.getList 0 s.t.oldPriv (privKey lane ea) n))
  | 4 => s.readConst ea n
  | _ => let (team, off) := s.scratchPlace space ea; (s, some (s.scratchRead s.t.i.grid team off n))

/-- The base plus the scaled offset of an N-format access, exact (R349). -/
def Train.localAddr (t : Train) (a : Fld) (off : BitVec 4) (n lane : Nat) : Nat := (t.v a lane).toNat + off.toNat * n

/-- The failed checks of an N-format access. TRAPINFO ADDR is the exact sum, also where it passes 32 bits. DESIGN CHOICE, unsafe
(log 122). -/
def State.localFaults (s : State) (e : Mask) (space : Nat) (a : Fld) (off : BitVec 4) (n : Nat) : List LaneFault :=
  (lanes e).filterMap fun l =>
    let ea := s.t.localAddr a off n l
    (s.localFault space ea n 1).map fun r => ⟨l, 0x0A, r, ea⟩

/-- An N-format load of one lane: the state after it, and the lane where poison kept its register unwritten. -/
def loadLane (t : Train) (space : Nat) (d a : Fld) (off : BitVec 4) (n : Nat) (signed : Bool) (acc : State × List Nat) (l : Nat) :
    State × List Nat :=
  let (s, bad) := acc
  match s.readLocal space l (t.localAddr a off n l) n with
  | (s, some b) => (s.onT fun u => u.withR (u.r.putData u.x.priv d.toNat n signed l (natOfBytes b)), bad)
  | (s, none) => (s, bad ++ [l])

/-- A lane's access to a scratchpad: the team and offset that its address names, as one place (R57). -/
def State.scratchAcc (s : State) (space ea x y lane : Nat) : LaneAcc :=
  let (team, off) := s.scratchPlace space ea
  ⟨lane, ea, team * 2 ^ 32 + off, x, y, none, none, false⟩

/-- Must a load of these scratchpad places wait for an earlier access of its split to a common location (R105)? -/
def State.scratchWaits (s : State) (n : Nat) (acc : List LaneAcc) : Bool := s.t.unperformed.any fun o => o.common 1 n acc

/-- The reads of an N-format load that are made at issue: those of the private and the constant space, and in a chained group those of a
scratchpad. -/
def readNow (space : Nat) (e : Mask) (d a : Fld) (off : BitVec 4) (n : Nat) (signed : Bool) (s : State) : State :=
  let t := s.t
  let (s, bad) := (lanes e).foldl (loadLane t space d a off n signed) (s, [])
  (s.poisonReply (maskOf bad fun _ => true) (memInfo 8 space (t.localAddr a off n (bad.headD 0)))).done

/-- An N-format load (R349, R350). One of a scratchpad reads the bank later, uncounted, and a later word of the split waits for its registers
(R110, R147); in a chained group it reads at issue. One of the private or the constant space reads at issue. DEDUCED, safe (log 132). -/
def loadLocal (space : Nat) (c : Ctl) (d a : Fld) (w : BitVec 3) (off : BitVec 4) (s : State) : State :=
  let e := s.t.act c
  let (n, signed) := accessSize w
  let banked := space = 1 || space = 2
  if e = 0 then s.done
  else s.orRaise (worstFault space (s.localFaults e space a off n)) fun s =>
    let acc := (lanes e).map fun l => s.scratchAcc space (s.t.localAddr a off n l) 0 0 l
    if banked && s.t.group.isNone then
      if s.t.acquiring then s.hold .wait else (s.putAccess 1 n 16 acc false Order.plain (.localLoad n signed d acc) e).done
    else if !s.mayAct Order.plain || (banked && s.scratchWaits n acc) then s.hold .wait
    else readNow space e d a off n signed (s.act Order.plain)

/-- A store of one lane to its private space; one that touches a poisoned word is not performed (R76). DESIGN CHOICE, unsafe (log 22). -/
def storeLane (t : Train) (d a : Fld) (off : BitVec 4) (n : Nat) (acc : State × List Nat) (l : Nat) : State × List Nat :=
  let (s, bad) := acc
  let ea := t.localAddr a off n l
  if t.privPoisoned l ea n then (s, bad ++ [l]) else (s.onT fun u => u.setPriv l ea (bytesOfNat n (t.data d n l)), bad)


/-- An N-format store (R100, R349). One to a scratchpad is performed later, in the bank, uncounted; one to the private space, which nothing
but its lane reads, at once. Either waits at issue while 64 stores are not yet performed (R351). DEDUCED, safe (log 124). -/
def storeLocal (space : Nat) (c : Ctl) (d a : Fld) (w : BitVec 3) (off : BitVec 4) (s : State) : State :=
  let e := s.t.act c
  let n := (accessSize w).1
  if e = 0 then s.done
  else s.orRaise (worstFault space (s.localFaults e space a off n)) fun s =>
    if s.t.acquiring || s.t.noRoom 16 true then s.hold .wait
    else
      let t := s.t
      if space = 0 then
        let (s, bad) := (lanes e).foldl (storeLane t d a off n) (s, [])
        (s.poisonReply (maskOf bad fun _ => true) (memInfo 8 space (t.localAddr a off n (bad.headD 0)))).done
      else
        let acc := (lanes e).map fun l => s.scratchAcc space (t.localAddr a off n l) (t.data d n l) 0 l
        (s.putAccess 1 n 16 acc true Order.plain (.store 1 n acc) e).done

/-- The needs of an N-format access. -/
def needsN (d a : Fld) (w : BitVec 3) : List Need := [.v d.toNat (extraRegs (accessSize w).1), .v a.toNat 0]

/-- `ldp` (R349). -/
def execLdp (c : Ctl) (d a : Fld) (w : BitVec 3) (off : BitVec 4) (s : State) : Host.Outcome State Fault Refusal :=
  word (.ldp c d a w off) false (needsN d a w) (loadLocal 0 c d a w off) s
/-- `stp` (R349). -/
def execStp (c : Ctl) (d a : Fld) (w : BitVec 3) (off : BitVec 4) (s : State) : Host.Outcome State Fault Refusal :=
  word (.stp c d a w off) false (needsN d a w) (storeLocal 0 c d a w off) s
/-- `lds` (R349). -/
def execLds (c : Ctl) (d a : Fld) (w : BitVec 3) (off : BitVec 4) (s : State) : Host.Outcome State Fault Refusal :=
  word (.lds c d a w off) false (needsN d a w) (loadLocal 1 c d a w off) s
/-- `sts` (R349). -/
def execSts (c : Ctl) (d a : Fld) (w : BitVec 3) (off : BitVec 4) (s : State) : Host.Outcome State Fault Refusal :=
  word (.sts c d a w off) false (needsN d a w) (storeLocal 1 c d a w off) s
/-- `ldc` (R349). -/
def execLdc (c : Ctl) (d a : Fld) (w : BitVec 3) (off : BitVec 4) (s : State) : Host.Outcome State Fault Refusal :=
  word (.ldc c d a w off) false (needsN d a w) (loadLocal 2 c d a w off) s
/-- `stc` (R349). -/
def execStc (c : Ctl) (d a : Fld) (w : BitVec 3) (off : BitVec 4) (s : State) : Host.Outcome State Fault Refusal :=
  word (.stc c d a w off) false (needsN d a w) (storeLocal 2 c d a w off) s
/-- `ldk` (R349). -/
def execLdk (c : Ctl) (d a : Fld) (w : BitVec 3) (off : BitVec 4) (s : State) : Host.Outcome State Fault Refusal :=
  word (.ldk c d a w off) false (needsN d a w) (loadLocal 4 c d a w off) s

/-- Size, sign and byte offset of a counted global access (R280). -/
def globalSize (sz : BitVec 2) (off : BitVec 4) : Nat × Bool × Nat :=
  match sz.toNat with
  | 0 => (4, false, 4 * off.toNat)
  | 1 => (8, false, 8 * off.toNat)
  | 2 => (16, false, 16 * off.toNat)
  | _ => match off.toNat with
    | 0 => (1, false, 0)
    | 1 => (1, true, 0)
    | 2 => (2, false, 0)
    | _ => (2, true, 0)

/-- The pair that P names (R280). -/
def pairReg (p : BitVec 6) : Fld := BitVec.ofNat 7 (2 * p.toNat)

/-- The address of a counted global access (R351). -/
def Train.globalAddr (t : Train) (p : Fld) (off lane : Nat) : Nat := ((t.vv p lane).toNat + off) % 2 ^ 64

/-- The lanes' accesses meet the tier map at issue, one after another (R69); the granule of the first that finds a deep granule and no
free frame. DEDUCED, safe (log 19). -/
def State.meetHomes (s : State) (writes : Bool) : List LaneAcc → State × Option Nat
  | [] => (s, none)
  | a :: as =>
    if a.win.isSome then s.meetHomes writes as
    else match s.homeAccess a.ua writes with
      | none => (s, some (granuleOf a.ua))
      | some u => u.meetHomes writes as

/-- An access that a word makes to these places at its issue meets the tier map: the state after it, and why the word has to wait, if it has: a
deep granule and no free frame, or a line that is still to come (R66, R69, R72). -/
def State.meetNow (s : State) (writes : Bool) (acc : List LaneAcc) : State × Option Hold :=
  match s.meetHomes writes acc with
  | (u, some g) => (u, some (.park g))
  | (u, none) =>
    if acc.all fun a => u.servable a.ua writes then (u, none)
    else (if acc.any fun a => s.m.needsPull a.ua then u.notePull s.t.core else u, some .wait)

/-- The 32-byte pieces of a global range. -/
def State.pieces (s : State) (va n : Nat) : List LaneAcc := (List.range ((n + 31) / 32)).map fun i => s.laneAcc (va + 32 * i) 0 0 0

/-- Read 32-byte words at a global address; none where one is poisoned, with its address (R76). -/
def State.readWords (s : State) (part va : Nat) : Nat → State × Except Nat (List Byte)
  | 0 => (s, .ok [])
  | n + 1 =>
    match s.readVa part va 32 with
    | (s, none) => (s, .error va)
    | (s, some b) =>
      match s.readWords part (va + 32) n with
      | (s, .ok bs) => (s, .ok (b ++ bs))
      | (s, .error a) => (s, .error a)

/-- A word that reads a record in global memory at its issue, its checks made: it waits until it may read, and for the record's lines
(R66, R69, R107); a poisoned word of it raises 0x0B in the lanes `e` (R76); otherwise `body` has its bytes. -/
def State.withRecord (s : State) (e : Mask) (va n : Nat) (body : List Byte → State → State) : State :=
  if !s.mayAct Order.plain then s.hold .wait
  else match s.meetNow false (s.pieces va n) with
    | (s, some h) => s.hold h
    | (s, none) => match (s.act Order.plain).readWords s.t.i.part va ((n + 31) / 32) with
      | (s, .error a) => s.raise 0x0B e (memInfo 8 3 a)
      | (s, .ok b) => body (b.take n) s

/-- The failed checks of a counted global access (R62, R351). -/
def State.globalFaults (s : State) (e : Mask) (n right : Nat) (windows area : Bool) (ea : Nat → Nat) : List LaneFault :=
  (lanes e).filterMap fun l =>
    (s.globalFault s.t.i.part (ea l) n right windows area).map fun f => ⟨l, f.1, f.2, ea l⟩

/-- Issue a counted access of the split: it waits while an acquire is outstanding or no room is left; it parks at a deep granule with
no frame; otherwise it is counted on its counter (R66, R67, R111, R351). -/
def State.issueAccess (s : State) (space n ac : Nat) (acc : List LaneAcc) (writes : Bool) (k : Order) (work : Work) (e : Mask)
    (go : State → State) : State :=
  if s.t.acquiring || s.t.noRoom ac writes || (space = 3 && s.linesFull (linesOf acc)) then s.hold .wait
  else match (if space = 3 then s.meetHomes writes acc else (s, none)) with
    | (s, some g) => s.hold (.park g)
    | (s, none) => go (s.putAccess space n ac acc writes k work e)

/-- An access guarded off in every lane goes on as `go`: an acquire first waits until the split's earlier releases have been performed, and
a release leaves its order (R103, R107). -/
def State.emptyAccess (s : State) (k : Order) (go : State → State) : State :=
  if k.acqAt != 0 && s.t.unperformed.any (fun o => o.rel != 0) then s.hold .wait else go (s.orderOnly k)

/-- The body of a counted global load (R351, R352). -/
def loadGlobal (c : Ctl) (d p : Fld) (n : Nat) (signed : Bool) (off ac : Nat) (k : Order) (s : State) : State :=
  let e := s.t.act c
  let ea := fun l => s.t.globalAddr p off l
  if e = 0 then s.emptyAccess k State.done
  else s.orRaise (worstFault 3 (s.globalFaults e n rightRead false s.t.x.priv ea)) fun s =>
    let acc := (lanes e).map fun l => s.laneAcc (ea l) 0 0 l
    s.issueAccess 3 n ac acc false k (.load n signed d acc) e State.done

/-- The body of a counted global store (R351, R352). -/
def storeGlobal (c : Ctl) (d p : Fld) (n off ac : Nat) (k : Order) (s : State) : State :=
  let e := s.t.act c
  let ea := fun l => s.t.globalAddr p off l
  if e = 0 then s.emptyAccess k State.done
  else s.orRaise (worstFault 3 (s.globalFaults e n rightWrite false s.t.x.priv ea)) fun s =>
    let acc := (lanes e).map fun l => s.laneAcc (ea l) (s.t.data d n l) 0 l
    s.issueAccess 3 n ac acc true k (.store 3 n acc) e State.done

/-- `ldg` (R351). -/
def execLdg (c : Ctl) (d : Fld) (p : BitVec 6) (off : BitVec 4) (ac sz : BitVec 2) (s : State) :
    Host.Outcome State Fault Refusal :=
  let (n, signed, o) := globalSize sz off
  word (.ldg c d p off ac sz) false [.v d.toNat (extraRegs n), .v (2 * p.toNat) 1]
    (loadGlobal c d (pairReg p) n signed o ac.toNat Order.plain) s

/-- `stg` (R351). -/
def execStg (c : Ctl) (d : Fld) (p : BitVec 6) (off : BitVec 4) (ac sz : BitVec 2) (s : State) :
    Host.Outcome State Fault Refusal :=
  let (n, _, o) := globalSize sz off
  word (.stg c d p off ac sz) false [.v d.toNat (extraRegs n), .v (2 * p.toNat) 1]
    (storeGlobal c d (pairReg p) n o ac.toNat Order.plain) s

/-- `ldg.acq` (R352). -/
def execLdgAcq (c : Ctl) (d : Fld) (p : BitVec 6) (sc : BitVec 3) (sz ac : BitVec 2) (s : State) :
    Host.Outcome State Fault Refusal :=
  let n := (globalSize sz 0).1
  word (.ldgAcq c d p sc sz ac) false [.v d.toNat (extraRegs n), .v (2 * p.toNat) 1]
    (fun s => loadGlobal c d (pairReg p) n false 0 ac.toNat (s.order true false sc.toNat) s) s

/-- `stg.rel` (R352). -/
def execStgRel (c : Ctl) (d : Fld) (p : BitVec 6) (sc : BitVec 3) (sz ac : BitVec 2) (s : State) :
    Host.Outcome State Fault Refusal :=
  let n := (globalSize sz 0).1
  word (.stgRel c d p sc sz ac) false [.v d.toNat (extraRegs n), .v (2 * p.toNat) 1]
    (fun s => storeGlobal c d (pairReg p) n 0 ac.toNat (s.order false true sc.toNat) s) s

/-- `pfg` on one usable address (R70, R353). -/
def State.prefetch (s : State) (part ea : Nat) : State :=
  if 2 ^ 56 ≤ ea || (s.window part ea).isSome then s
  else match s.m.translate part ea with
    | none => s
    | some ua =>
      let g := granuleOf ua
      match s.m.gran g with
      | none => s
      | some e =>
        match e.tier with
        | .deep => if s.frameFree e.part then { s with m := s.m.promote g } else s
        | .demoting => State.settleNode { s with m := s.m.cancel g } e.part g
        | _ => s

/-- `pfg` (R353). -/
def execPfg (c : Ctl) (a : Fld) (s : State) : Host.Outcome State Fault Refusal :=
  word (.pfg c a) false [.v a.toNat 1]
    (fun s => ((lanes (s.t.act c)).foldl (fun (u : State) l => u.prefetch s.t.i.part (s.t.vv a l).toNat) s).done) s

/-- The fields of an atomic's literal (R281). -/
structure AtomLit where
  ac    : Nat
  acq   : Bool
  rel   : Bool
  scope : Nat
  space : Nat
  wide  : Bool
  aop   : Nat
  deriving DecidableEq, Repr

/-- Read the literal (R281). SPACE 00 scratchpad is space 1, 01 cluster scratchpad 2, 10 global 3. -/
def atomLit (lit : Word) : AtomLit :=
  ⟨(fld lit 18 4).toNat, lit.getLsbD 16, lit.getLsbD 17, (fld lit 13 3).toNat, (fld lit 11 2).toNat + 1, lit.getLsbD 10, (fld lit 0 4).toNat⟩

/-- F(aop, old, x) of R355 on n bits. -/
def atomF (n aop old x : Nat) : Nat :=
  let o := BitVec.ofNat n old
  let y := BitVec.ofNat n x
  let r : BitVec n := match aop with
    | 0 => o + y
    | 1 => if o.toInt ≤ y.toInt then o else y
    | 2 => if old ≤ x then o else y
    | 3 => if o.toInt ≤ y.toInt then y else o
    | 4 => if old ≤ x then y else o
    | 5 => o &&& y
    | 6 => o ||| y
    | 7 => o ^^^ y
    | 8 => y
    | _ => BitVec.ofNat n (addF f32 (decodeF f32 old) (decodeF f32 x)).1
  r.toNat

/-- The new value of an atomic's word: `acas` writes `y` when the old value equals `x` (R355). -/
def atomNew (n : Nat) (cas : Bool) (aop old x y : Nat) : Nat := if cas then (if old = x then y else old) else atomF n aop old x

/-- The address of an atomic in a lane: an offset, or a pair for global (R281). -/
def Train.atomAddr (t : Train) (l : AtomLit) (a : Fld) (lane : Nat) : Nat :=
  if l.space = 3 then (t.vv a lane).toNat else (t.v a lane).toNat

/-- The failed checks of an atomic (R62, R350, R351, R355). -/
def State.atomFaults (s : State) (l : AtomLit) (e : Mask) (a : Fld) (n : Nat) : List LaneFault :=
  if l.space = 3 then s.globalFaults e n rightAtomic true false fun k => s.t.atomAddr l a k
  else (lanes e).filterMap fun k =>
    let ea := s.t.atomAddr l a k
    (s.localFault l.space ea n 1).map fun r => ⟨k, 0x0A, r, ea⟩

/-- A lane's part of an atomic. -/
def State.atomAcc (s : State) (l : AtomLit) (a b : Fld) (cas : Bool) (lane : Nat) : LaneAcc :=
  let x := if l.wide then (s.t.vv b lane).toNat else (s.t.v b lane).toNat
  let y := if !cas then 0
    else if l.wide then (s.t.vk b 2 lane).toNat + (s.t.vk b 3 lane).toNat * 2 ^ 32 else (s.t.vk b 1 lane).toNat
  let ea := s.t.atomAddr l a lane
  if l.space = 3 then s.laneAcc ea x y lane else s.scratchAcc l.space ea x y lane

/-- The body of an atomic (R103, R355). A release guarded off everywhere writes nothing (R107). -/
def atomicBody (cas ret : Bool) (c : Ctl) (d a b : Fld) (lit : Word) (s : State) : State :=
  let l := atomLit lit
  let e := s.t.act c
  let n := if l.wide then 8 else 4
  let k := s.order l.acq l.rel l.scope
  if e = 0 then s.emptyAccess k fun s => s.doneEnding 8
  else s.orRaise (worstFault l.space (s.atomFaults l e a n)) fun s =>
    let acc := (lanes e).map fun k => s.atomAcc l a b cas k
    let sp := if l.space = 3 then 3 else 1
    s.issueAccess sp n l.ac acc true k (.atomic sp l.wide cas ret l.aop d acc) e fun s => s.doneEnding 8

/-- The needs of an atomic (R281, R269). -/
def needsAtom (cas : Bool) (d : Option Fld) (a b : Fld) (lit : Word) : List Need :=
  let l := atomLit lit
  let w := if l.wide then 1 else 0
  (match d with
   | some d => [Need.v d.toNat w]
   | none => []) ++
  [.v a.toNat (if l.space = 3 then 1 else 0), .v b.toNat (if cas then 2 * w + 1 else w)]

/-- `atom` (R355). -/
def execAtom (c : Ctl) (d a b : Fld) (lit : Word) (s : State) : Host.Outcome State Fault Refusal :=
  word (.atom c d a b lit) false (needsAtom false (some d) a b lit) (atomicBody false true c d a b lit) s
/-- `acas` (R355). -/
def execAcas (c : Ctl) (d a b : Fld) (lit : Word) (s : State) : Host.Outcome State Fault Refusal :=
  word (.acas c d a b lit) false (needsAtom true (some d) a b lit) (atomicBody true true c d a b lit) s
/-- `red` (R355). -/
def execRed (c : Ctl) (a b : Fld) (lit : Word) (s : State) : Host.Outcome State Fault Refusal :=
  word (.red c a b lit) false (needsAtom false none a b lit) (atomicBody false false c 0 a b lit) s

/-- The pending operation with this identifier. -/
def Train.op (t : Train) (id : Nat) : Option Op := t.c.ops.find? fun o => o.id = id

/-- Put a pending operation back. -/
def Train.setOp (t : Train) (o : Op) : Train :=
  { t with c := { t.c with ops := t.c.ops.map fun p => if p.id = o.id then o else p } }

/-- The operations that retire now, and those that stay: a counter retires in issue order (R111). Counter 16 stands for none. -/
def retireOps : List Nat → List Op → List Op × List Op
  | _, [] => ([], [])
  | blocked, o :: os =>
    if o.done && !(blocked.contains o.counter) then
      let (gone, kept) := retireOps blocked os
      (o :: gone, kept)
    else
      let (gone, kept) := retireOps (if o.counter = 16 then blocked else o.counter :: blocked) os
      (gone, o :: kept)

/-- Does the operation's record wait for its retirement? A load's is raised when its reply arrives (R76, R360). -/
def Op.lateAtRetire (o : Op) : Bool :=
  match o.work with
  | .load .. => false
  | .texture .. => false
  | .reply => false
  | _ => true

/-- The counters of the train on the issue stage retire what they can; error marks are set and late records raised; a train whose
lanes have exited may end (R111, R116, R179, R181). DEDUCED, safe (log 50). -/
def State.retire (s : State) : State :=
  let (gone, kept) := retireOps [] s.t.c.ops
  let err := gone.foldl (fun (e : BitVec 16) o => if o.err then e ||| BitVec.ofNat 16 (2 ^ o.counter) else e) s.t.c.err
  let s := s.onT fun t => { t with c := { t.c with ops := kept, err := err } }
  let s := gone.foldl (fun (u : State) o => match o.stop with
    | some r => if o.lateAtRetire then u.late r o.prv o.split o.divided else u
    | none => u) s
  s.tryEnd

/-- The operation has completed: a load's record is raised now, and the counter retires what it can (R76, R111). -/
def State.complete (s : State) (o : Op) : State :=
  let s := s.onT fun t => t.setOp { o with done := true }
  let s := match o.stop with
    | some r => if o.lateAtRetire then s else s.late r o.prv o.split o.divided
    | none => s
  s.retire

/-- The operation's late record gains a lane that met poison; TRAPINFO describes the lowest lane (R63, R76). -/
def Op.poison (o : Op) (space lane addr : Nat) : Op :=
  match o.stop with
  | none => { o with stop := some (o.record 0x0B (laneBit lane) (memInfo 8 space addr)) }
  | some r =>
    let m := r.lanes ||| laneBit lane
    { o with stop := some { r with lanes := m, info := if lane < lowest r.lanes then memInfo 8 space addr else r.info } }

/-- The lane accesses with lane `l` performed. -/
def markDone (acc : List LaneAcc) (l : Nat) : List LaneAcc := acc.map fun a => if a.lane = l then { a with done := true } else a

/-- A reply brings one lane of a load: its registers are written, unless a word is poisoned (R76, R111, R351). -/
def State.performLoad (s : State) (o : Op) (n : Nat) (signed : Bool) (d : Fld) (a : LaneAcc) : State × Op :=
  match s.m.read a.ua n with
  | (m, some b) =>
    ({ s with m := m, t := s.t.withR (s.t.r.putData o.prv d.toNat n signed a.lane (natOfBytes b)) }, o)
  | (m, none) => ({ s with m := m }, o.poison 3 a.lane a.va)

/-- The bank brings one lane of a scratchpad load, and its registers are written (R147, R349). -/
def State.performLocal (s : State) (o : Op) (n : Nat) (signed : Bool) (d : Fld) (a : LaneAcc) : State :=
  let b := s.scratchRead s.t.i.grid (a.ua / 2 ^ 32) (a.ua % 2 ^ 32) n
  s.onT fun t => t.withR (t.r.putData o.prv d.toNat n signed a.lane (natOfBytes b))

/-- The words that a store's lanes cover together (R76). DEDUCED, unsafe (log 101). -/
def coveredBy (n : Nat) (acc : List LaneAcc) (words : List Nat) : List Nat :=
  words.filter fun w => (List.range 32).all fun i => acc.any fun a => a.ua ≤ w * 32 + i && w * 32 + i < a.ua + n

/-- The bytes of a lane's store that no higher lane of the same instruction writes, with their places in it (R100). -/
def storeCells (acc : List LaneAcc) (n : Nat) (a : LaneAcc) : List (Nat × Byte) :=
  (List.range n).filterMap fun i =>
    if acc.any fun b => a.lane < b.lane && b.ua ≤ a.ua + i && a.ua + i < b.ua + n then none
    else some (a.ua + i, BitVec.ofNat 8 (natBits a.x (8 * i) 8))

/-- One lane of a global store is performed; a partial store to a poisoned word is not, and a word that the lanes cover together loses its
mark with the last of them (R76). -/
def State.storeGlobalLane (s : State) (o : Op) (n : Nat) (acc : List LaneAcc) (a : LaneAcc) : State × Op :=
  let whole := coveredBy n acc (eccWords a.ua n)
  let last := coveredBy n (acc.filter fun b => b.done || b.lane = a.lane) whole
  let m := ((eccWords a.ua n).filter fun w => !last.contains w).foldl Store.meet s.m
  if (eccWords a.ua n).any fun w => !whole.contains w && m.poison.contains w then ({ s with m := m }, o.poison 3 a.lane a.va)
  else ({ s with m := (storeCells acc n a).foldl (fun (m : Store) e => m.put e.1 [e.2] last) m }, o)

/-- One lane of a store is performed at its home slice or at the bank of its team's core (R111). -/
def State.performStore (s : State) (o : Op) (space n : Nat) (acc : List LaneAcc) (a : LaneAcc) : State × Op :=
  if space = 3 then s.storeGlobalLane o n acc a
  else
    let put := fun (u : State) (e : Nat × Byte) => u.scratchWrite s.t.i.grid (e.1 / 2 ^ 32) (e.1 % 2 ^ 32) [e.2]
    ((storeCells acc n a).foldl put s, o)

/-- Write an atomic's old value to its lane (R355). -/
def State.giveOld (s : State) (o : Op) (wide ret : Bool) (d : Fld) (lane old : Nat) : State :=
  if ret then { s with t := s.t.withR (s.t.r.putData o.prv d.toNat (if wide then 8 else 4) false lane old) } else s

/-- One lane of an atomic is performed as one read-modify-write (R18, R114, R180, R355). -/
def State.performAtomic (s : State) (o : Op) (space : Nat) (wide cas ret : Bool) (aop : Nat) (d : Fld) (a : LaneAcc) : State × Op :=
  let n := if wide then 8 else 4
  if space ≠ 3 then
    let team := a.ua / 2 ^ 32
    let off := a.ua % 2 ^ 32
    let old := natOfBytes (s.scratchRead s.t.i.grid team off n)
    let s := s.scratchWrite s.t.i.grid team off (bytesOfNat n (atomNew (8 * n) cas aop old a.x a.y))
    (s.giveOld o wide ret d a.lane old, o)
  else
    match s.m.read a.ua n with
    | (m, none) => ({ s with m := m }, o.poison 3 a.lane a.va)
    | (m, some b) =>
      let old := natOfBytes b
      let new := bytesOfNat n (atomNew (8 * n) cas aop old a.x a.y)
      let s := { s with m := m.put a.ua new [] }
      (s.giveOld o wide ret d a.lane old, o)

/-- The lanes of an operation that an event performs: one not yet performed, or all of them when it names none. -/
def chosenLanes (acc : List LaneAcc) (c : Nat) : List LaneAcc := acc.filter fun a => !a.done && (64 ≤ c || a.lane = c)

/-- May this lane's access be served now at its home slice (R69)? -/
def State.laneServable (s : State) (writes : Bool) (a : LaneAcc) : Bool := a.win.isSome || s.servable a.ua writes

/-- After some lanes have been performed, which may have overtaken older operations, the operation completes once all have (R103, R111). -/
def State.afterLanes (s : State) (o : Op) (acc : List LaneAcc) : State :=
  let s := if acc.any LaneAcc.done then s.onT fun t => t.owe o.after else s
  if acc.all LaneAcc.done then s.complete o else s.onT fun t => t.setOp o

/-- A reply of a load: the chosen lanes that the home slice can serve. -/
def State.loadReply (s : State) (o : Op) (n : Nat) (signed : Bool) (d : Fld) (acc : List LaneAcc) (c : Nat) : State :=
  let (s, o, acc) := (chosenLanes acc c).foldl (fun (p : State × Op × List LaneAcc) a =>
    let (s, o, acc) := p
    if s.laneServable false a then
      let (s, o) := s.performLoad o n signed d a
      (s, o, markDone acc a.lane)
    else p) (s, o, acc)
  s.afterLanes { o with work := .load n signed d acc } acc

/-- The same of a scratchpad load. -/
def State.localReply (s : State) (o : Op) (n : Nat) (signed : Bool) (d : Fld) (acc : List LaneAcc) (c : Nat) : State :=
  let ls := chosenLanes acc c
  let s := ls.foldl (fun (u : State) a => u.performLocal o n signed d a) s
  let acc := acc.map fun a => if ls.contains a then { a with done := true } else a
  s.afterLanes { o with work := .localLoad n signed d acc } acc

/-- STORE_PERFORMED: the chosen lanes of a store reach their home place (R111). Subject: train, operation, lane. -/
def execStorePerformed (s : State) : Host.Outcome State Fault Refusal :=
  let s := s.stage s.subject.a
  match s.t.op s.subject.b with
  | some o =>
    match o.work with
    | .store space n acc =>
      if !s.mayPerform o then .next s
      else
        let (s, o, done) := (chosenLanes acc s.subject.c).foldl (fun (p : State × Op × List LaneAcc) a =>
          let (s, o, acc') := p
          if space != 3 || s.laneServable true a then
            let (s, o) := s.performStore o space n acc' a
            (s, o, markDone acc' a.lane)
          else p) (s, o, acc)
        .next (s.afterLanes { o with work := .store space n done } done)
    | _ => .next s
  | none => .next s

end Sys2Proof.Machine
end

