-- ==== Sys2Proof/Machine/Object.lean ====
section
/-! DEFINITION. The object instructions: tolerance loads, pin releases and residency requests (R82 to R98). -/
namespace Sys2Proof.Machine

/-- TRAPINFO of 0x0D (R96). -/
def objInfo (reason : Nat) (h : Word) : Dword := memInfo reason 5 h.toNat

/-- The object that a handle names in the train's partition. -/
def State.obj (s : State) (h : Word) : Option Object := s.object s.t.i.part h.toNat

/-- Why a lane's handle fails (R96). -/
def State.handleFault (s : State) (h : Word) : Option Nat :=
  if 0x10000 ≤ h.toNat then some 0 else if (s.obj h).isNone then some 1 else none

/-- The object directory fault of the lanes that failed, each with its REASON: the lowest REASON is reported (R96). -/
def objectTrap (fs : List (Nat × Nat × Word)) : Option (Nat × Mask × Dword) :=
  let low := (List.range 6).find? fun r => fs.any fun f => f.2.1 = r
  match low with
  | none => none
  | some r =>
    let ls := fs.filter fun f => f.2.1 = r
    some (0x0D, maskOf (ls.map Prod.fst) fun _ => true, objInfo r ((ls.head?.map fun f => f.2.2).getD 0))

/-- The lanes whose check fails. -/
def laneFails (e : Mask) (h : Nat → Word) (f : Nat → Option Nat) : List (Nat × Nat × Word) :=
  (lanes e).filterMap fun l => (f l).map fun r => (l, r, h l)

/-- One lane's walk: the lane, handle, node, depth, path and whether it falls short. -/
structure Walk where
  lane  : Nat
  obj   : Object
  node  : Nat
  depth : Nat
  path  : List Nat
  tol   : Word
  short : Bool

/-- A lane's walk, as the image in the core's walker has it (R35, R87, R261): under an image other than the default one a free choice among the
path's resident nodes. DESIGN CHOICE, safe (log 102). -/
def State.walk (s : State) (lane : Nat) (o : Object) (p : List Nat) (tol : Word) : Nat × Nat × Bool :=
  match s.image s.t.core 2 with
  | none => o.walk p tol
  | some i =>
    let q := p.zipIdx.filter fun x => o.resident x.1
    match q[Config.sequencer i s.tick lane 0 % q.length]? with
    | some (n, j) => (n, j, (Config.sequencer i s.tick lane 1).testBit 0)
    | none => o.walk p tol

/-- The walks of an `ldo` (R87). -/
def State.walks (s : State) (e : Mask) (a : Fld) : List Walk :=
  (lanes e).filterMap fun l =>
    (s.obj (s.t.v a l)).map fun o =>
      let p := o.path (s.t.vk a 1 l)
      let (n, j, short) := s.walk l o p (s.t.vk a 2 l)
      ⟨l, o, n, j, p, s.t.vk a 2 l, short⟩

/-- The pairs that an `ldo` adds to the train's pin set (R87). -/
def newPins (t : Train) (ws : List Walk) : List (Nat × Nat) :=
  ws.foldl (fun acc w =>
    let p := (w.obj.handle, w.node)
    if t.pins.contains p || acc.contains p then acc else acc ++ [p]) []

/-- The lanes that fail the pin checks of `ldo` (R87, R90). Of several new pairs whose nodes can take no further pin, the lanes of the first in
the order of the lanes are reported. DESIGN CHOICE, unsafe (log 138). -/
def pinFails (t : Train) (ws : List Walk) : List (Nat × Nat × Word) :=
  let new := newPins t ws
  let fail := fun (r : Nat) (bad : Walk → Bool) =>
    (ws.filter bad).map fun w => (w.lane, r, BitVec.ofNat 32 w.obj.handle)
  if 16 < t.pins.length + t.kept.length + new.length then fail 2 fun w => new.contains (w.obj.handle, w.node)
  else
    match new.find? fun p => ws.any fun w => w.obj.handle = p.1 && w.node = p.2 && (w.obj.node p.2).pins = 0xFFFF with
    | some p => fail 5 fun w => (w.obj.handle, w.node) == p
    | none => []

/-- A pin is added (R90). -/
def State.pin (s : State) (p : Nat × Nat) : State :=
  (s.onObject s.t.i.part p.1 fun o => o.onNode p.2 fun n => { n with pins := n.pins + 1 }).onT fun t => { t with pins := t.pins ++ [p] }

/-- NODEINFO (R88). -/
def Walk.info (w : Walk) : Word :=
  BitVec.ofNat 32 ((if w.short then 2 ^ 31 else 0) + (if w.path.getLast? == some w.node then 2 ^ 30 else 0) + w.depth * 2 ^ 24 + w.node)

/-- The four result words of a lane (R87). -/
def Walk.result (w : Walk) : List Word :=
  let p := (w.obj.node w.node).payload
  [w.info, BitVec.ofNat 32 w.obj.gen, BitVec.ofNat 32 p, BitVec.ofNat 32 (p / 2 ^ 32)]

/-- A lane's counters and its refinement request (R87, R89). -/
def State.countWalk (s : State) (w : Walk) : State :=
  let part := s.t.i.part
  if w.short then
    let s := s.onObject part w.obj.handle fun o => { o with shortfalls := min 0xFFFFFFFF (o.shortfalls + 1) }
    match w.obj.target w.path w.depth w.tol with
    | some n => (s.postRefine part w.obj.handle n true).1
    | none => s
  else s.onObject part w.obj.handle fun o => { o with hits := min 0xFFFFFFFF (o.hits + 1) }

/-- Has the storage of an object's directory entry and tree an uncorrectable error? Every walk reads all of the granules that hold them, the other
entries of its image there among them. DESIGN CHOICE, safe (log 30). -/
def State.treeBad (s : State) (o : Object) : Bool :=
  (s.m.latent ++ s.m.poison).any fun w => o.granules.contains (granuleOf (w * 32))

/-- The lanes whose object's directory or tree storage has an uncorrectable error (R96). -/
def State.badTrees (s : State) (e : Mask) (h : Nat → Word) : List (Nat × Nat × Word) :=
  laneFails e h fun l => match s.obj (h l) with
    | some o => if s.treeBad o then some 4 else none
    | none => none

/-- The trap of an `ldo` whose handles are good: the lowest REASON of the checks of its pins and of its tree storage (R87, R96). -/
def State.walkTrap (s : State) (e : Mask) (h : Nat → Word) (ws : List Walk) : Option (Nat × Mask × Dword) :=
  objectTrap (pinFails s.t ws ++ s.badTrees e h)

/-- `ldo` (R87): the walk and its pins take place at issue, once the walker may read for the train (R94, R109). DESIGN CHOICE, safe (log 30). -/
def execLdo (c : Ctl) (d a : Fld) (ac : BitVec 4) (s : State) : Host.Outcome State Fault Refusal :=
  word (.ldo c d a ac) false [.v d.toNat 3, .v a.toNat 2]
    (fun s =>
      let e := s.t.act c
      let h := fun l => s.t.v a l
      if e = 0 then s.doneEnding 4
      else if !s.mayFetch false || s.t.noRoom ac.toNat false then s.hold .wait
      else s.orRaise (objectTrap (laneFails e h fun l => s.handleFault (h l))) fun s =>
        let ws := s.walks e a
        s.orRaise (s.walkTrap e h ws) fun s =>
          let s := (newPins s.t ws).foldl State.pin s
          let s := ws.foldl State.countWalk s
          let o := s.newOp (.object d (ws.map fun w => (w.lane, w.result))) ac.toNat e [] false false none
          (s.onT fun t => t.enqueue o).doneEnding 4) s

/-- `odrop` (R91). -/
def execOdrop (c : Ctl) (a : Fld) (s : State) : Host.Outcome State Fault Refusal :=
  word (.odrop c a) false [.v a.toNat 0]
    (fun s =>
      let e := s.t.act c
      let h := fun l => s.t.v a l
      if e != 0 && !s.mayAct Order.plain then s.hold .wait
      else s.orRaise (objectTrap (laneFails e h fun l => s.handleFault (h l))) fun s =>
        let s := if e = 0 then s else s.act Order.plain
        let gone := s.t.pins.filter fun p => (lanes e).any fun l => (h l).toNat = p.1
        let s := gone.foldl (fun (u : State) p => u.unpin s.t.i.part p) s
        (s.onT fun t => { t with pins := t.pins.filter fun p => !gone.contains p }).doneEnding 4) s

/-- The request of one lane of `oreq.refine`: its node and, when decided at once, its outcome (R92). -/
def State.refineLane (s : State) (lane : Nat) (h key tol : Word) : State × Nat × Option (Nat × Nat) :=
  match s.obj h with
  | none => (s, 0, some (1, 0))
  | some o =>
    let p := o.path key
    let (_, j, short) := s.walk lane o p tol
    if !short then (s, 0, some (1, o.gen))
    else match o.target p j tol with
      | none => (s, 0, some (1, o.gen))
      | some n =>
        let (s, ok) := s.postRefine s.t.i.part h.toNat n false
        (s, n, if ok then none else some (5, o.gen))

/-- The lanes of `oreq`, ascending; lanes that name one target merge (R92). -/
def State.requestLanes (s : State) (evict : Bool) (a : Fld) : List Nat → List ObjWait → State × List ObjWait
  | [], ws => (s, ws)
  | l :: ls, ws =>
    let h := s.t.v a l
    let (u, n, out) :=
      if evict then
        let n := (s.t.vk a 2 l).toNat
        let (u, out) := s.evictNow s.t.i.part h.toNat n
        (u, n, out)
      else s.refineLane l h (s.t.vk a 1 l) (s.t.vk a 2 l)
    match ws.find? fun w => w.handle = h.toNat && w.node = n && (evict || !(out.map Prod.fst == some 1)) with
    | some w => s.requestLanes evict a ls (ws ++ [{ w with lane := l }])
    | none => u.requestLanes evict a ls (ws ++ [⟨l, h.toNat, n, evict, ((s.obj h).map Object.gen).getD 0, out⟩])

/-- The body of `oreq` (R92). DEDUCED, safe (log 31). -/
def objectRequest (evict : Bool) (c : Ctl) (d a : Fld) (ac : BitVec 4) (s : State) : State :=
  let e := s.t.act c
  let h := fun l => s.t.v a l
  let fail := fun (s : State) l => (s.handleFault (h l)) <|>
    (if evict then (s.obj (h l)).bind fun o => if o.nodes.length ≤ (s.t.vk a 2 l).toNat then some 3 else none else none)
  if e = 0 then s.doneEnding 4
  else if !s.mayFetch false || s.t.noRoom ac.toNat false then s.hold .wait
  else s.orRaise (objectTrap (laneFails e h (fail s))) fun s =>
    s.orRaise (objectTrap (s.badTrees e h)) fun s =>
      let (s, ws) := s.requestLanes evict a (lanes e) []
      (s.onT fun t => t.enqueue (s.newOp (.request d ws) ac.toNat e [] false false none)).doneEnding 4

/-- `oreq.refine` (R92). -/
def execOreqRefine (c : Ctl) (d a : Fld) (ac : BitVec 4) (s : State) : Host.Outcome State Fault Refusal :=
  word (.oreqRefine c d a ac) false [.v d.toNat 1, .v a.toNat 2] (objectRequest false c d a ac) s
/-- `oreq.evict` (R92). -/
def execOreqEvict (c : Ctl) (d a : Fld) (ac : BitVec 4) (s : State) : Host.Outcome State Fault Refusal :=
  word (.oreqEvict c d a ac) false [.v d.toNat 1, .v a.toNat 2] (objectRequest true c d a ac) s

/-- Write a lane's result words to the registers from `d` upward (R87). -/
def Regs.putWords (r : Regs) (prv : Bool) (d : Nat) (lane : Nat) : List Word → Regs
  | [] => r
  | w :: ws => (r.setV prv d lane w).putWords prv (d + 1) lane ws

/-- A reply of `ldo`: every lane's registers are written (R87). -/
def State.objectReply (s : State) (o : Op) (d : Fld) (results : List (Nat × List Word)) : State :=
  (s.onT fun t => t.withR (results.foldl (fun (r : Regs) x => r.putWords o.prv d.toNat x.1 x.2) t.r)).complete { o with work := .reply }

/-- A reply of `oreq`: once every lane has its outcome, statuses and generations are written (R92). -/
def State.requestReply (s : State) (o : Op) (d : Fld) (ws : List ObjWait) : State :=
  if ws.all fun w => w.outcome.isSome then
    s.objectReply o d (ws.map fun w =>
      let (st, gen) := w.outcome.getD (0, 0)
      (w.lane, [BitVec.ofNat 32 st, BitVec.ofNat 32 gen]))
  else s

end Sys2Proof.Machine
end

