-- ==== Sys2Proof/Machine/Engine.lean ====
section
/-! DEFINITION. The engines: boxes, rows, units, translation and settlement (R16, R17, R101, R112, R173, R174, R356 to R360). -/
namespace Sys2Proof.Machine

/-- TRAPINFO of 0x0C (R357). -/
def shapeInfo (reason idx : Nat) : Dword := BitVec.ofNat 64 (reason * 2 ^ 60 + idx % 65536)

/-- The shape record of a partition with this index (R356). -/
def State.shape (s : State) (part idx : Nat) : Option Shape := s.o.shapes.find? fun r => r.part = part && r.index = idx

/-- The right bit of a record for a flat side and direction: SR, SW, CR, CW, GR, GW (R356). `flat` is 0 scratchpad, 1 cluster
scratchpad, 2 global; `put` writes the shape. -/
def shapeRight (r : Shape) (flat : Nat) (put : Bool) : Bool :=
  let bit := (match flat with
    | 0 => 2
    | 1 => 4
    | _ => 0) + (if put then 1 else 0)
  r.rights.testBit bit

/-- The address of an element, and whether it is in bounds (R356, R358). -/
def Shape.elem (r : Shape) (xs : List Int) : Nat × Bool :=
  let at_ := (xs.zip r.strides).foldl (fun (acc : Int) p => acc + p.1 * (p.2 : Int)) (r.base : Int)
  let ok := ((xs.zip r.extents).zipIdx.all fun p => r.rank ≤ p.2 || (0 ≤ p.1.1 && p.1.1 < (p.1.2 : Int)))
  (at_.toNat, ok)

/-- The mixed-radix digits of a flat index, lowest first (R358, R359). -/
def digitsOf : Nat → List Nat → List Nat
  | _, [] => []
  | f, b :: bs => f % b :: digitsOf (f / b) bs

/-- The place of a global address: local, or in a remote window (R15). -/
def State.globLoc (s : State) (va : Nat) : Loc :=
  match s.window s.t.i.part va with
  | some w => ⟨7, w.uid, va - w.va⟩
  | none => ⟨3, 0, va⟩

/-- The place of a scratchpad or cluster-scratchpad offset. -/
def State.scratchLoc (s : State) (space ea : Nat) : Loc :=
  let (team, off) := s.scratchPlace space ea
  ⟨1, team, off⟩

/-- Does a place lie in a remote window? DEDUCED, safe (log 37). -/
def Loc.remote (l : Loc) : Bool := l.space = 7

/-- What one unit is written under: a remote chunk of 256 bytes, or an aligned 16-byte unit of the destination (R16, R101). -/
def Move.key (m : Move) : Nat × Nat × Nat :=
  match m.from?, m.dst with
  | some l, some d => if l.remote then (8, l.team, l.addr / 256) else if d.remote then (7, d.team, d.addr / 256) else
      (d.space, d.team, d.addr / 16)
  | none, some d => if d.remote then (7, d.team, d.addr / 256) else (d.space, d.team, d.addr / 16)
  | _, none => (0, 0, 0)

/-- The key of a unit: that of its moves. -/
def EUnit.key (u : EUnit) : Option (Nat × Nat × Nat) := u.moves.head?.map Move.key

/-- Does a unit take this move? A write chunk to a peer is one run of bytes (R16). -/
def EUnit.takes (u : EUnit) (m : Move) : Bool :=
  u.key == some m.key && (m.key.1 != 7 || (match u.moves.getLast? with
    | some l => (l.dst.map fun d => d.addr + l.len) == m.dst.map Loc.addr
    | none => false))

/-- Add a move to its unit (R101). -/
def addMove (m : Move) : List EUnit → List EUnit
  | [] => [⟨[m], m.len, false, m.key.1 = 7 || m.key.1 = 8, none, false⟩]
  | u :: us => if u.takes m then { u with moves := u.moves ++ [m], bytes := u.bytes + m.len } :: us else u :: addMove m us

/-- The units of an operation, and one without moves for its skipped bytes (R173, R358). -/
def unitsOf (ms : List Move) : List EUnit :=
  let skipped := (ms.filter fun m => m.dst.isNone).foldl (fun n m => n + m.len) 0
  let us := (ms.filter fun m => m.dst.isSome).foldl (fun us m => addMove m us) []
  if skipped = 0 then us else us ++ [⟨[], skipped, false, false, none, false⟩]

/-- The barrier that an engine operation names, with its fault when it is not declared (R167, R282). -/
def State.engineBar (s : State) (lvl num : Nat) : Option BarKey × Option (Nat × Mask × Dword) :=
  if lvl = 0 then (none, none)
  else
    let k := s.barKey s.t ((match lvl with
      | 1 => 0
      | 2 => 16
      | _ => 24) + num)
    match s.bar k with
    | some _ => (some k, none)
    | none => (none, some (0x11, s.t.live, barInfo 1 k.level k.num 0))

/-- Issue an engine operation: it waits while an acquire at system scope is outstanding or the counter is full; `rel` makes its reads follow
the split's earlier accesses (R112, R351). -/
def State.issueEngine (s : State) (e : Mask) (ac : Nat) (rel : Bool) (ms : List Move) (bar : Option BarKey) (ob : Option Nat)
    (len : Dword) : State :=
  if s.t.acquiring || s.t.noRoom ac false then s.hold .wait
  else
    let o := s.newOp (.engine (unitsOf ms) bar false ob) ac e (s.t.engineDeps rel) false false none
    (s.onT fun t => t.enqueue o).doneEnding len

/-- A lane-independent trap of a coupling word: its taking-part lanes. -/
def trapIf (b : Bool) (cause : Nat) (e : Mask) (info : Dword) : Option (Nat × Mask × Dword) := if b then some (cause, e, info) else none

/-- The box of a `tcopy`: its first coordinates and its sides (R358). -/
def Train.box (t : Train) (a : Fld) : List Int × List Nat :=
  let r := fun k => t.old.getS t.x.priv (a.toNat + k)
  let w := fun k i => (BitVec.extractLsb' (32 * i) 32 (r k)).toInt
  let h := fun k i => natBits (r k).toNat (16 * i) 16
  ([w 0 0, w 0 1, w 1 0, w 1 1, w 2 0], [h 3 0, h 3 1, h 3 2, h 3 3, h 2 2])

/-- The element of a box with flat index `f`: its address, and whether it is in bounds (R358). -/
def Shape.boxElem (r : Shape) (cs : List Int) (bs : List Nat) (f : Nat) : Nat × Bool :=
  r.elem ((cs.zip (digitsOf f bs)).map fun p => p.1 + (p.2 : Int))

/-- The addresses and sizes of a box's elements that are in bounds. -/
def Shape.boxPlaces (r : Shape) (cs : List Int) (bs : List Nat) : List (Nat × Nat) :=
  (List.range (bs.foldl (· * ·) 1)).filterMap fun f => let (va, inside) := r.boxElem cs bs f; if inside then some (va, r.esz) else none

/-- Where the bytes go that a later element of the same operation overwrites. -/
def Loc.nowhere : Loc := ⟨9, 0, 0⟩

/-- Moves to or from a peer of which none writes what a later one writes: the element of the higher index stands, and chunks of a transfer may
land in any order (R17, R358). A move so overtaken is read, translated and settled, and written nowhere (R360). -/
def lastWrites : List Move → List Move
  | [] => []
  | m :: ms =>
    let rest := lastWrites ms
    (if ((m.dst.map Loc.remote).getD false || (m.from?.map Loc.remote).getD false) && m.dst.isSome && rest.any fun o => o.dst = m.dst then
      { m with dst := some Loc.nowhere } else m) :: rest

/-- The moves of a `tcopy`, in the order of the flat index (R358). -/
def State.boxMoves (s : State) (r : Shape) (esz flat at_ : Nat) (put : Bool) (cs : List Int) (bs : List Nat) : List Move :=
  (List.range (bs.foldl (· * ·) 1)).map fun f =>
    let (va, inside) := r.boxElem cs bs f
    let fl := if flat = 2 then s.globLoc (at_ + esz * f) else s.scratchLoc (flat + 1) (at_ + esz * f)
    if put then ⟨.at fl, if inside then some (s.globLoc va) else none, esz⟩
    else ⟨if inside then .at (s.globLoc va) else .zeros, some fl, esz⟩

/-- Is a side of the moves in a remote window? -/
def remoteSide (ms : List Move) (src : Bool) : Bool :=
  ms.any fun m => if src then (m.from?.map Loc.remote).getD false && m.dst.isSome else (m.dst.map Loc.remote).getD false

/-- The lowest of some addresses. -/
def lowestOf : List Nat → Option Nat
  | [] => none
  | a :: as => some (as.foldl min a)

/-- The lowest address of a window side that lacks its right (R15, R358). -/
def State.windowLacks (s : State) (ms : List Move) : Option Nat :=
  let lacks := fun (l : Option Loc) (right : Nat) => l.bind fun l =>
    if l.remote then (s.k.windows.find? fun w => w.uid = l.team && !hasRight w.rights right).map fun w => w.va + l.addr else none
  lowestOf (((ms.filter fun m => m.dst.isSome).map fun m => (lacks m.from? rightRead).toList ++ (lacks m.dst rightWrite).toList).flatten)

/-- The check of the flat side (R358). DEDUCED, unsafe (log 36). -/
def State.flatTrap (s : State) (e : Mask) (flat at_ n : Nat) : Option (Nat × Mask × Dword) :=
  let sp := flat + 1
  trapIf (at_ % 16 ≠ 0) 0x0A e (memInfo 1 sp at_) <|>
  (if flat = 2 then trapIf (2 ^ 56 ≤ at_) 0x0A e (memInfo 2 sp at_)
   else trapIf (2 ^ 32 ≤ at_ || (s.localFault sp at_ 1 n).isSome) 0x0A e (memInfo 0 sp at_))

/-- The lowest address of a side that reaches beyond a window's length, where the side touches a window: every element of the side
must then lie whole in it (R15). `ps` are the elements' addresses and sizes. DEDUCED, unsafe (log 36). -/
def State.beyondWindow (s : State) (ps : List (Nat × Nat)) : Option Nat :=
  (ps.findSome? fun p => s.window s.t.i.part p.1).bind fun w =>
    lowestOf ((ps.filter fun p => p.1 < w.va || w.va + w.len < p.1 + p.2).map Prod.fst)

/-- The elements of a flat side of `n` bytes, by address and size. -/
def flatPlaces (at_ esz n : Nat) : List (Nat × Nat) := (List.range (n / esz)).map fun f => (at_ + esz * f, esz)

/-- The window checks of a `tcopy`, with the elements of its shape side (R15, R358). -/
def State.windowTrap (s : State) (e : Mask) (flat at_ esz n : Nat) (ms : List Move) (shape : List (Nat × Nat)) : Option (Nat × Mask × Dword) :=
  let at_6 := fun (a : Option Nat) => a.map fun a => ((0x09 : Nat), e, memInfo 6 3 a)
  trapIf (remoteSide ms true && remoteSide ms false) 0x09 e (memInfo 5 3 at_) <|>
  ((s.windowLacks ms).map fun a => ((0x09 : Nat), e, memInfo 4 3 a)) <|>
  (if flat = 2 then at_6 (s.beyondWindow (flatPlaces at_ esz n)) else none) <|> at_6 (s.beyondWindow shape)

/-- The body of `tcopy` (R358). -/
def boxCopy (c : Ctl) (d a : Fld) (ac : Nat) (rel : Bool) (lit : Word) (s : State) : State :=
  let e := s.t.act c
  let idx := natBits lit.toNat 0 16
  let flat := natBits lit.toNat 16 2
  let put := lit.getLsbD 18
  if e = 0 then s.conclude .on true false false 8
  else match s.shape s.t.i.part idx with
    | none => s.raise 0x0C e (shapeInfo 0 idx)
    | some r =>
      let (cs, bs) := s.t.box a
      let esz := r.esz
      let n := bs.foldl (· * ·) esz
      let bad := (cs.zip bs).zipIdx.any fun p => if p.2 < r.rank then p.1.2 = 0 else p.1.2 ≠ 1 || p.1.1 ≠ 0
      let at_ := (s.t.s d).toNat
      let (bar, barTrap) := s.engineBar (natBits lit.toNat 19 2) (natBits lit.toNat 21 4)
      let early := trapIf (!shapeRight r flat put) 0x0C e (shapeInfo 1 idx) <|>
        trapIf (bad || 2 ^ 24 < n || natBits (s.t.old.getS s.t.x.priv (a.toNat + 2)).toNat 48 16 ≠ 0) 0x0C e (shapeInfo 2 idx) <|>
        s.flatTrap e flat at_ n
      s.orRaise early fun s =>
        let ms := s.boxMoves r esz flat at_ put cs bs
        s.orRaise (s.windowTrap e flat at_ esz n ms (r.boxPlaces cs bs) <|> barTrap) fun s => s.issueEngine e ac rel (lastWrites ms) bar none 8

/-- `tcopy` (R358). -/
def execTcopy (c : Ctl) (d a : Fld) (ac : BitVec 4) (rel : BitVec 1) (lit : Word) (s : State) : Host.Outcome State Fault Refusal :=
  word (.tcopy c d a ac rel lit) false [.s d.toNat 0, .s a.toNat 3] (coupled (boxCopy c d a ac.toNat (rel == 1#1) lit)) s

/-- The descriptor of `tgath` and `tscat` (R359). -/
structure RowDesc where
  high   : Nat
  flat   : Nat
  barn   : Nat
  lvl    : Nat
  rowLen : Nat
  idx    : Nat
  stride : Nat
  base   : Nat
  deriving DecidableEq, Repr

/-- Read the descriptor (R359). -/
def Train.rowDesc (t : Train) (d : Fld) : RowDesc :=
  let a := (t.s d).toNat
  let b := (t.old.getS t.x.priv (d.toNat + 1)).toNat
  ⟨natBits a 39 25, natBits a 38 1, natBits a 34 4, natBits a 32 2, natBits a 16 16, natBits a 0 16, natBits b 32 32, natBits b 0 32⟩

/-- Element x0 of a row: its address, and whether it is in bounds (R359). -/
def Shape.rowElem (r : Shape) (row x0 : Nat) : Nat × Bool :=
  let ext := (r.extents.take r.rank).drop 1
  let xs : List Int := ((x0 :: digitsOf row ext) ++ List.replicate 5 0).take 5 |>.map fun (n : Nat) => (n : Int)
  let (va, ok) := r.elem xs
  (va, ok && row < ext.foldl (· * ·) 1)

/-- The moves of a lane's row (R359). -/
def State.rowMoves (s : State) (r : Shape) (q : RowDesc) (scatter : Bool) (row lane : Nat) : List Move :=
  let start := q.base + lane * q.stride
  (List.range q.rowLen).map fun x0 =>
    let (va, inside) := r.rowElem row x0
    let fl := s.scratchLoc (q.flat + 1) (start + x0 * r.esz)
    if scatter then ⟨.at fl, if inside then some (s.globLoc va) else none, r.esz⟩
    else ⟨if inside then .at (s.globLoc va) else .zeros, some fl, r.esz⟩

/-- The lanes whose flat row falls outside the space (R350, R359). -/
def State.rowFaults (s : State) (e : Mask) (q : RowDesc) (esz : Nat) : List LaneFault :=
  (lanes e).filterMap fun l =>
    let at_ := q.base + l * q.stride
    (s.localFault (q.flat + 1) at_ 1 (q.rowLen * esz)).map fun _ => ⟨l, 0x0A, 0, at_⟩

/-- The lanes whose row has an element in a remote window, each with the first such address: only `tcopy` may reach one (R62, R63,
R348). -/
def State.rowWindows (s : State) (e : Mask) (r : Shape) (q : RowDesc) (row : Nat → Nat) : List LaneFault :=
  (lanes e).filterMap fun l =>
    ((List.range q.rowLen).findSome? fun x0 =>
      let (va, inside) := r.rowElem (row l) x0
      if inside && (s.window s.t.i.part va).isSome then some va else none).map fun va => ⟨l, 0x09, 5, va⟩

/-- Does the descriptor name a barrier that no level has (R282, R359)? -/
def RowDesc.barBad (q : RowDesc) : Bool := !barnLegal (BitVec.ofNat 2 q.lvl) (BitVec.ofNat 4 q.barn)

/-- The body of `tgath` and `tscat`, whose word is `i` (R359). A descriptor's barrier that R282 makes illegal is an illegal instruction.
DEDUCED, unsafe (log 36). -/
def rowCopy (i : Instr) (scatter : Bool) (c : Ctl) (d a : Fld) (ac : Nat) (rel : Bool) (s : State) : State :=
  let e := s.t.act c
  let q := s.t.rowDesc d
  if e = 0 then s.doneEnding 4
  else if q.barBad then s.raise 0x01 e (wordInfo i)
  else if q.high ≠ 0 then s.raise 0x0C e (shapeInfo 3 q.idx)
  else match s.shape s.t.i.part q.idx with
    | none => s.raise 0x0C e (shapeInfo 0 q.idx)
    | some r =>
      let (bar, barTrap) := s.engineBar q.lvl q.barn
      let early := trapIf (!shapeRight r q.flat scatter) 0x0C e (shapeInfo 1 q.idx) <|>
        trapIf (q.rowLen = 0 || q.stride % 16 ≠ 0 || q.stride < q.rowLen * r.esz) 0x0C e (shapeInfo 2 q.idx) <|>
        trapIf (q.base % 16 ≠ 0) 0x0A e (memInfo 1 (q.flat + 1) q.base) <|>
        worstFault (q.flat + 1) (s.rowFaults e q r.esz)
      s.orRaise early fun s =>
        let ms := ((lanes e).map fun l => s.rowMoves r q scatter (s.t.v a l).toNat l).flatten
        s.orRaise (worstFault 3 (s.rowWindows e r q fun l => (s.t.v a l).toNat) <|> barTrap) fun s =>
          s.issueEngine e ac rel ms bar none 4

/-- `tgath` (R359). -/
def execTgath (c : Ctl) (d a : Fld) (ac : BitVec 4) (rel : BitVec 1) (s : State) : Host.Outcome State Fault Refusal :=
  word (.tgath c d a ac rel) false [.s d.toNat 1, .v a.toNat 0] (coupled (rowCopy (.tgath c d a ac rel) false c d a ac.toNat (rel == 1#1))) s
/-- `tscat` (R359). -/
def execTscat (c : Ctl) (d a : Fld) (ac : BitVec 4) (rel : BitVec 1) (s : State) : Host.Outcome State Fault Refusal :=
  word (.tscat c d a ac rel) false [.s d.toNat 1, .v a.toNat 0] (coupled (rowCopy (.tscat c d a ac rel) true c d a ac.toNat (rel == 1#1))) s

/-- Why translation of one address stops the operation (R360); no engine reaches a team area (R196). -/
def State.pageFault (s : State) (part va right : Nat) : Option (Nat × Nat) :=
  if 2 ^ 56 ≤ va then some (0x0A, 2)
  else match s.m.mapping part va with
    | none => some (0x08, 3)
    | some p => if !hasRight p.rights right || p.area then some (0x09, 4) else none

/-- The lowest failing address of an operation, with its cause and REASON (R360). -/
def State.lowestFault (s : State) (ms : List Move) : Option (Nat × Nat × Nat) :=
  (ms.map Move.global).flatten.foldl (fun best p =>
    match s.pageFault s.t.i.part p.1 p.2 with
    | none => best
    | some (cause, reason) => match best with
      | some (va, _, _) => if p.1 < va then some (p.1, cause, reason) else best
      | none => some (p.1, cause, reason)) none

/-- A place after translation. -/
def State.translated (s : State) (l : Loc) : Loc :=
  if l.space = 3 then { l with addr := (s.m.translate s.t.i.part l.addr).getD 0 } else l

/-- A move after translation. -/
def State.translatedMove (s : State) (m : Move) : Move :=
  { m with src := match m.src with
             | .at l => .at (s.translated l)
             | x => x,
           dst := m.dst.map s.translated }

/-- Every unit not yet settled is settled with an error mark at the barrier (R17, R174, R360). -/
def State.settleRest (s : State) (units : List EUnit) (bar : Option BarKey) : State :=
  units.foldl (fun (u : State) x => if x.settled then u else u.settleAt bar x.bytes true) s

/-- The engine translates an operation's global pages: a page that fails stops it whole, with a late record at retirement; a deep
granule with no free frame holds the operation; otherwise it takes the epoch (R80, R360). Subject: train, operation. -/
def execEngineTranslate (s : State) : Host.Outcome State Fault Refusal :=
  let s := s.stage s.subject.a
  match s.t.op s.subject.b with
  | some o =>
    match o.work with
    | .engine units bar false ob =>
      if !s.mayPerform o then .next s
      else
        let ms := (units.map EUnit.moves).flatten
        match s.lowestFault ms with
        | some (va, cause, reason) =>
          let s := s.settleRest units bar
          .next (s.complete { o with work := .engine (units.map fun u => { u with settled := true }) bar true ob,
                                     stop := some (o.record cause o.lanes (memInfo reason 3 va)) })
        | none =>
          let us := units.map fun u => { u with moves := u.moves.map s.translatedMove }
          let homes := ((us.map EUnit.moves).flatten.map Move.global).flatten
          let pulled := o.pulled || homes.any fun h => s.m.needsPull h.1
          let (s, ok) := homes.foldl (fun (p : State × Bool) h =>
            match p.1.homeAccess h.1 (h.2 = rightWrite) with
            | some u => (u, p.2)
            | none => (p.1, false)) (s, true)
          let o := if ok then { o with work := .engine us bar true ob, epoch := s.m.epoch, pulled := pulled } else { o with pulled := pulled }
          .next ((s.onT fun t => t.setOp o).noteStall s.t.core)
    | _ => .next s
  | none => .next s

/-- Read a team's operand buffer space. -/
def State.obufRead (s : State) (grid team off n : Nat) : List Byte :=
  match s.team grid team with
  | some m => Table.getList 0 m.obuf off n
  | none => List.replicate n 0

/-- Write a unit of a team's operand buffer; a marked unit stays marked, a clean one is marked no more (R230). -/
def State.obufWrite (s : State) (grid team off : Nat) (b : List Byte) (bad : Bool) : State :=
  s.onTeam grid team fun m =>
    let us := (List.range ((off + b.length - 1) / 16 - off / 16 + 1)).map fun i => off / 16 + i
    { m with obuf := Table.setList 0 m.obuf off b,
             obBad := (m.obBad.filter fun u => !us.contains u) ++ (if bad then us else []) }

/-- The bytes of a move's source, and whether they are poisoned. -/
def State.sourceBytes (s : State) (src : Source) (n : Nat) : State × List Byte × Bool :=
  match src with
  | .zeros => (s, List.replicate n 0, false)
  | .bytes b => (s, b, false)
  | .at l =>
    match l.space with
    | 1 => (s, s.scratchRead s.t.i.grid l.team l.addr n, false)
    | 3 => match s.m.read l.addr n with
      | (m, some b) => ({ s with m := m }, b, false)
      | (m, none) => ({ s with m := m }, m.peek l.addr n, true)
    | _ => (s, List.replicate n 0, false)

/-- The bytes of a unit's moves in order, and whether any is poisoned. DEDUCED, safe (log 34). -/
def State.gather (s : State) : List Move → State × List (Move × List Byte) × Bool
  | [] => (s, [], false)
  | m :: ms =>
    let (s, b, bad) := s.sourceBytes m.src m.len
    let (s, rest, worse) := s.gather ms
    (s, (m, b) :: rest, bad || worse)

/-- Where moves write to global memory: address and length. -/
def globalDsts (ms : List Move) : List (Nat × Nat) := ms.filterMap fun m => m.dst.bind fun l => if l.space = 3 then some (l.addr, m.len) else none

/-- The moves of an operation's units that have been written without a mark. -/
def cleanMoves (units : List EUnit) : List Move := ((units.filter fun u => u.settled && !u.marked).map EUnit.moves).flatten

/-- The words that a unit's writes to global memory cover whole, together with those of its operation that went `before` (R76). DEDUCED, unsafe
(log 101). -/
def wholeWords (before : List Move) (ps : List (Move × List Byte)) : List Nat :=
  let ds := globalDsts (ps.map Prod.fst)
  let all := ds ++ globalDsts before
  let words := (ds.map fun d => eccWords d.1 d.2).flatten
  words.filter fun w => (List.range 32).all fun i => all.any fun d => d.1 ≤ w * 32 + i && w * 32 + i < d.1 + d.2

/-- Write one move's bytes. -/
def State.writeMove (s : State) (whole : List Nat) (bad : Bool) (p : Move × List Byte) : State :=
  match p.1.dst with
  | none => s
  | some l =>
    match l.space with
    | 1 => s.scratchWrite s.t.i.grid l.team l.addr p.2
    | 6 => s.obufWrite s.t.i.grid l.team l.addr p.2 bad
    | 3 =>
      let part := (eccWords l.addr p.1.len).filter fun w => !whole.contains w
      let m := part.foldl Store.meet s.m
      let m := m.put l.addr p.2 whole
      { s with m := if bad then m.putPoisoned l.addr p.1.len else m }
    | _ => s

/-- One unit is written whole, or, poisoned and bound for a scratchpad, not at all; the flag is its error mark (R76, R101, R360). -/
def State.writeUnit (s : State) (before : List Move) (ps : List (Move × List Byte)) (bad : Bool) : State × Bool :=
  if bad && ps.any fun p => (p.1.dst.map Loc.space) == some 1 then (s, true)
  else (ps.foldl (State.writeMove · (if bad then [] else wholeWords before ps) bad ·) s, false)

/-- The homes of a unit's local global bytes can serve it (R69). -/
def State.unitServable (s : State) (u : EUnit) : Bool :=
  (u.moves.map Move.global).flatten.all fun h => s.servable h.1 (h.2 = rightWrite)

/-- Settle unit `i`, whose bytes carried a mark or not: they leave the barrier's PENDING, and the operation completes with its last unit (R173,
R179, R358). -/
def State.settleUnit (s : State) (o : Op) (i : Nat) (marked bad : Bool) : State :=
  match o.work with
  | .engine units bar tr ob =>
    match units[i]? with
    | some u =>
      let us := units.zipIdx.map fun (x, j) => if j = i then { x with settled := true, marked := marked } else x
      let s := s.settleAt bar u.bytes bad
      let o := { o with work := .engine us bar tr ob, err := o.err || bad }
      if us.all EUnit.settled then s.complete o else s.onT fun t => t.setOp o
    | none => s
  | _ => s

/-- An operation of the train on the stage awaits no peer any more. -/
def State.dropTransfers (s : State) (op : Nat) : State :=
  { s with k := { s.k with transfers := s.k.transfers.filter fun x => x.train != s.t.i.id || x.op != op } }

/-- A chunk of the operation failed: it and every chunk not yet written are settled with an error mark (R17, R179). -/
def State.failOp (s : State) (o : Op) : State :=
  let s := s.dropTransfers o.id
  match o.work with
  | .engine units bar tr ob =>
    let s := s.settleRest units bar
    s.complete { o with work := .engine (units.map fun u => { u with settled := true }) bar tr ob, err := true }
  | _ => s

/-- The transfer tag of an operation: the one that its chunks sent so far bear, or the next. One tag names a whole `tcopy`, so that the
receiver of a bad chunk knows which others never to write; its chunks differ by their offsets (R16, R17). DEDUCED, unsafe (log 114). -/
def State.opTag (s : State) (o : Op) : Word :=
  let old := match o.work with
    | .engine us .. => us.findSome? EUnit.tag
    | _ => none
  old.getD (BitVec.ofNat 32 s.k.nextTag)

/-- Send a message of a transfer to the peer of a window entry (R16). -/
def State.send (s : State) (kind entry : Nat) (tag : Word) (offset length : Nat) (data : List Byte) (value : Dword) (aop op unit : Nat) :
    State :=
  match s.entry entry with
  | none => s
  | some w =>
    let s := s.sendMessage kind w.peer w.peerWindow tag offset length data value aop
    { s with k := { s.k with transfers := s.k.transfers ++ [⟨tag, offset, s.t.i.id, op, unit⟩],
                             nextTag := if tag = BitVec.ofNat 32 s.k.nextTag then s.k.nextTag + 1 else s.k.nextTag } }

/-- The operation with unit `i` waiting for its peer under a tag. -/
def Op.tagUnit (o : Op) (i : Nat) (tag : Word) : Op :=
  match o.work with
  | .engine us bar tr ob =>
    let vs := us.zipIdx.map fun (x, j) => if j = i then { x with tag := some tag } else x
    { o with work := .engine vs bar tr ob }
  | _ => o

/-- The offsets that a remote read chunk spans. -/
def readSpan (ms : List Move) (lo : Nat) : Nat × Nat :=
  ms.foldl (fun p m => match m.from? with
    | some l => (min p.1 l.addr, max p.2 (l.addr + m.len))
    | none => p) (lo, lo)

/-- A remote unit is sent to its peer: a write chunk with its bytes, or a read request (R16). A poisoned source is a failed chunk: every
unit of the operation not yet written is settled with an error mark. DEDUCED, unsafe (log 35). -/
def State.sendUnit (s : State) (o : Op) (u : EUnit) (i : Nat) : State :=
  match u.moves with
  | [] => s
  | m :: _ =>
    let tag := s.opTag o
    match m.from?, m.dst with
    | some ⟨7, w, lo⟩, _ =>
      let (lo, hi) := readSpan u.moves lo
      (s.onT fun t => t.setOp (o.tagUnit i tag)).send 1 w tag lo (hi - lo) [] 0 0 o.id i
    | _, some d =>
      let (s, ps, bad) := s.gather u.moves
      if bad then s.failOp o
      else (s.onT fun t => t.setOp (o.tagUnit i tag)).send 0 d.team tag d.addr u.bytes ((ps.map Prod.snd).flatten) 0 0 o.id i
    | _, none => s

/-- One unit of a translated operation is performed: written and settled at this device, or sent to its peer (R16, R101, R173). -/
def State.performUnit (s : State) (op i : Nat) : State :=
  match s.t.op op with
  | some o =>
    match o.work with
    | .engine units _ true _ =>
      match units[i]? with
      | some u =>
        if u.settled || u.tag.isSome || !s.mayPerform o || !s.unitServable u then s
        else if u.remote then s.sendUnit o u i
        else
          let (s, ps, bad) := s.gather u.moves
          let (s, err) := s.writeUnit (cleanMoves units) ps bad
          s.settleUnit o i bad err
      | none => s
    | _ => s
  | none => s

/-- The number of units of an operation. -/
def Op.unitCount (o : Op) : Nat :=
  match o.work with
  | .engine units .. => units.length
  | _ => 0

/-- An engine unit is written or settled. Subject: train, operation, unit; a unit beyond the last stands for all that are left. -/
def execEngineUnitSettle (s : State) : Host.Outcome State Fault Refusal :=
  let s := s.stage s.subject.a
  match s.t.op s.subject.b with
  | some o =>
    if s.subject.c < o.unitCount then .next (s.performUnit o.id s.subject.c)
    else .next ((List.range o.unitCount).foldl (fun (u : State) i => u.performUnit o.id i) s)
  | none => .next s

end Sys2Proof.Machine
end

