-- ==== Sys2Proof/Machine/Flags.lean ====
section
/-! DEFINITION. Words that set FPFLAGS: each lane's result with its flags, and the union over the lanes that took part
(R206, R211, R304). -/
namespace Sys2Proof.Machine

/-- The union of the flags of the listed lanes, as bits of FPFLAGS (R304). -/
def flagsOver (f : Nat → Flags) : List Nat → Word
  | [] => 0
  | l :: ls => (f l).bits ||| flagsOver f ls

/-- A floating lane word: vd gets the result in each taking-part lane, FPFLAGS the union of those lanes' flags (R304). -/
def laneFloat (c : Ctl) (d : Fld) (f : Train → Nat → Word × Flags) (s : State) : State :=
  (s.onT fun t =>
    let e := t.act c
    (t.putV d.toNat e fun l => (f t l).1).orFlags (flagsOver (fun l => (f t l).2) (lanes e))).done

/-- The same for a word that writes a pair (R308). -/
def laneFloatPair (c : Ctl) (d : Fld) (f : Train → Nat → Dword × Flags) (s : State) : State :=
  (s.onT fun t =>
    let e := t.act c
    (t.putVV d.toNat e fun l => (f t l).1).orFlags (flagsOver (fun l => (f t l).2) (lanes e))).done

/-- The same for a word that writes a quad (R318). -/
def laneFloatQuad (c : Ctl) (d : Fld) (f : Train → Nat → Nat → Word × Flags) (s : State) : State :=
  (s.onT fun t =>
    let e := t.act c
    let u := (List.range 4).foldl (fun (u : Train) i => u.putV (d.toNat + i) e fun l => (f t l i).1) t
    u.orFlags (flagsOver (fun l => (List.range 4).foldl (fun g i => g.or (f t l i).2) Flags.none) (lanes e))).done

/-- A floating compare (R313). -/
def compareFloat (c : Ctl) (pd : Fld) (f : Train → Nat → Bool × Flags) (s : State) : State :=
  (s.onT fun t =>
    let e := t.act c
    (t.putP pd.toNat (maskOf (lanes e) fun l => (f t l).1) e).orFlags (flagsOver (fun l => (f t l).2) (lanes e))).done

/-- A result of a binary format as a word. -/
def asWord (r : Nat × Flags) : Word × Flags := (BitVec.ofNat 32 r.1, r.2)
/-- A result of a binary format as a pair. -/
def asPair (r : Nat × Flags) : Dword × Flags := (BitVec.ofNat 64 r.1, r.2)

/-- An f32 operand. -/
def rd32 (w : Word) : FVal := decodeF f32 w.toNat
/-- An f64 operand. -/
def rd64 (w : Dword) : FVal := decodeF f64 w.toNat

/-- A packed operation: each 16-bit element alone, the flags of both together (R309). -/
def packed (fmt : FFmt) (op : FVal → FVal → FVal → Nat × Flags) (a b z : Word) : Word × Flags :=
  let e := fun (w : Word) (i : Nat) => decodeF fmt (w.toNat / 65536 ^ i % 65536)
  let lo := op (e a 0) (e b 0) (e z 0)
  let hi := op (e a 1) (e b 1) (e z 1)
  (BitVec.ofNat 32 (lo.1 + hi.1 * 65536), lo.2.or hi.2)

/-- The flags of a compare: IV for a signalling NaN, or for any NaN where `quiet` (R313). -/
def cmpFlags (quiet : Bool) (x y : FVal) : Flags := Flags.ivIf (x.isSnan || y.isSnan || (quiet && (x.isNan || y.isNan)))

/-- `fabs` and `fneg`: the sign bit cleared or inverted, a NaN canonical, no flag (R312). -/
def signOp (clear : Bool) (a : Word) : Word :=
  if (rd32 a).isNan then 0x7FC00000 else if clear then a &&& 0x7FFFFFFF else a ^^^ 0x80000000

/-- `fscale` (R311). -/
def scaleWord (a b : Word) : Word × Flags := scaleF (rd32 a) a b.toInt

/-- The conversions of R317 by PAIR, from the source's bits to the destination's. -/
def convert (pair : Nat) (mode : RMode) (x : Nat) : Nat × Flags :=
  let w := x % 2 ^ 32
  let int := fun (bits : Nat) (r : Int × Flags) => ((BitVec.ofInt bits r.1).toNat, r.2)
  let s := fun (lo hi : Int) (v : FVal) => int 64 (toInteger lo hi mode v)
  let ofI := fun (fmt : FFmt) (v : Int) => roundDy fmt mode (Dyadic.ofInt v) false
  match pair with
  | 0 => convertF f32 mode (decodeF f64 x)
  | 1 => convertF f64 .rne (decodeF f32 w)
  | 2 => convertF h16 mode (decodeF f32 w)
  | 3 => convertF f32 .rne (decodeF h16 (x % 65536))
  | 4 => convertF bf16 mode (decodeF f32 w)
  | 5 => convertF f32 .rne (decodeF bf16 (x % 65536))
  | 6 => roundT t8Bits (decodeF f32 w)
  | 7 => convertF f32 .rne (decodeT t8Bits (x % 256))
  | 8 => roundT t6Bits (decodeF f32 w)
  | 9 => convertF f32 .rne (decodeT t6Bits (x % 64))
  | 10 => s (-(2 ^ 31)) (2 ^ 31 - 1) (decodeF f32 w)
  | 11 => s 0 (2 ^ 32 - 1) (decodeF f32 w)
  | 12 => ofI f32 (BitVec.ofNat 32 w).toInt
  | 13 => ofI f32 (w : Int)
  | 14 => s (-(2 ^ 63)) (2 ^ 63 - 1) (decodeF f64 x)
  | 15 => s 0 (2 ^ 64 - 1) (decodeF f64 x)
  | 16 => ofI f64 (BitVec.ofNat 64 x).toInt
  | 17 => ofI f64 (x : Int)
  | 18 => s (-(2 ^ 31)) (2 ^ 31 - 1) (decodeF f64 x)
  | 19 => ofI f64 (BitVec.ofNat 32 w).toInt
  | 20 => s (-128) 127 (decodeF f32 w)
  | 21 => s 0 255 (decodeF f32 w)
  | 22 => s (-32768) 32767 (decodeF f32 w)
  | _ => s 0 65535 (decodeF f32 w)

/-- Does this conversion read a pair (R316, R317)? -/
def cvtFromPair (pair : Nat) : Bool := pair == 0 || (14 ≤ pair && pair ≤ 18)
/-- Does this conversion write a pair (R316, R317)? -/
def cvtToPair (pair : Nat) : Bool := pair == 1 || (14 ≤ pair && pair ≤ 17) || pair == 19

/-- The packing conversions of R318 that write one register: 0 h16, 1 bf16, 4 t8, 6 t6; `src i` is the i-th source. -/
def packInto (pair : Nat) (mode : RMode) (src : Nat → Word) : Word × Flags :=
  let join := fun (bits n : Nat) (f : Nat → Nat × Flags) =>
    (BitVec.ofNat 32 ((List.range n).foldl (fun acc i => acc + (f i).1 * 2 ^ (bits * i)) 0),
      (List.range n).foldl (fun g i => g.or (f i).2) Flags.none)
  match pair with
  | 0 => join 16 2 fun i => convertF h16 mode (rd32 (src i))
  | 1 => join 16 2 fun i => convertF bf16 mode (rd32 (src i))
  | 4 => join 8 4 fun i => roundT t8Bits (rd32 (src i))
  | _ => join 8 4 fun i => roundT t6Bits (rd32 (src i))

/-- Element i of the unpacking conversions of R318: 2 h16, 3 bf16, 5 t8, 7 t6. -/
def unpackFrom (pair : Nat) (a : Word) (i : Nat) : Word × Flags :=
  match pair with
  | 2 => asWord (convertF f32 .rne (decodeF h16 (natBits a.toNat (16 * i) 16)))
  | 3 => asWord (convertF f32 .rne (decodeF bf16 (natBits a.toNat (16 * i) 16)))
  | 5 => asWord (convertF f32 .rne (decodeT t8Bits (natBits a.toNat (8 * i) 8)))
  | _ => asWord (convertF f32 .rne (decodeT t6Bits (natBits a.toNat (8 * i) 6)))

end Sys2Proof.Machine
end

