-- ==== Sys2Proof/Machine/Exchange.lean ====
section
/-! DEFINITION. Lane exchange: shuffles, votes, ballots, matches, reductions, `wid` and `elect` (R161 to R164, R321 to R326). -/
namespace Sys2Proof.Machine

/-- A shuffle: `src` gives each lane's source lane. A lane whose source is not valid keeps vd; the in-split flag goes to the
predicate numbered d when that passes the budget check (R162, R322). -/
def shuffle (c : Ctl) (d a b : Fld) (src : Nat → Nat → Int) (s : State) : State :=
  (s.onT fun t =>
    let e := t.act c
    let from_ := fun l => src l (t.v b l).toNat
    let ok := fun l => decide (0 ≤ from_ l) && decide (from_ l < t.i.width) && e.getLsbD (from_ l).toNat
    let good := maskOf (lanes e) ok
    let u := t.putV d.toNat good fun l => t.v a (from_ l).toNat
    if t.inBudget (.p d.toNat) then u.putP d.toNat good e else u).done

/-- `shfl.idx` (R322). -/
def execShflIdx (c : Ctl) (d a b : Fld) (s : State) : Host.Outcome State Fault Refusal :=
  word (.shflIdx c d a b) false (needs3 d a b) (shuffle c d a b fun _ x => x) s

/-- `shfl.up` (R322). -/
def execShflUp (c : Ctl) (d a b : Fld) (s : State) : Host.Outcome State Fault Refusal :=
  word (.shflUp c d a b) false (needs3 d a b) (shuffle c d a b fun l x => (l : Int) - x) s

/-- `shfl.dn` (R322). -/
def execShflDn (c : Ctl) (d a b : Fld) (s : State) : Host.Outcome State Fault Refusal :=
  word (.shflDn c d a b) false (needs3 d a b) (shuffle c d a b fun l x => (l : Int) + x) s

/-- `shfl.xor` (R322). -/
def execShflXor (c : Ctl) (d a b : Fld) (s : State) : Host.Outcome State Fault Refusal :=
  word (.shflXor c d a b) false (needs3 d a b) (shuffle c d a b fun l x => ((l ^^^ x : Nat) : Int)) s

/-- All lanes or none. -/
def allIf (b : Bool) : Mask := if b then BitVec.allOnes 64 else 0

/-- `vote.any` (R323). -/
def execVoteAny (c : Ctl) (d a : Fld) (s : State) : Host.Outcome State Fault Refusal :=
  word (.voteAny c d a) false [.p d.toNat, .p a.toNat] (predicate c d fun t => allIf (t.act c &&& t.p a != 0)) s

/-- `vote.all` (R323). -/
def execVoteAll (c : Ctl) (d a : Fld) (s : State) : Host.Outcome State Fault Refusal :=
  word (.voteAll c d a) false [.p d.toNat, .p a.toNat] (predicate c d fun t => allIf (t.act c &&& ~~~t.p a == 0)) s

/-- `elect` (R323). -/
def execElect (c : Ctl) (d : Fld) (s : State) : Host.Outcome State Fault Refusal :=
  word (.elect c d) false [.p d.toNat] (predicate c d fun t => laneBit (lowest (t.act c))) s

/-- `ballot` (R324). -/
def execBallot (c : Ctl) (d a : Fld) (s : State) : Host.Outcome State Fault Refusal :=
  word (.ballot c d a) false [.v d.toNat 1, .p a.toNat] (lanePair c d fun t _ => t.act c &&& t.p a) s

/-- `match` (R324). -/
def execMatchLanes (c : Ctl) (d a : Fld) (s : State) : Host.Outcome State Fault Refusal :=
  word (.matchLanes c d a) false [.v d.toNat 1, .v a.toNat 0]
    (lanePair c d fun t l => maskOf (lanes (t.act c)) fun k => t.v a k == t.v a l) s

/-- The combination of `redux` and `scan` by imm7 (R325). -/
def combine (op : Nat) (x y : Word) : Word × Flags :=
  match op with
  | 0 => (x + y, Flags.none)
  | 1 => (x &&& y, Flags.none)
  | 2 => (x ||| y, Flags.none)
  | 3 => (x ^^^ y, Flags.none)
  | 4 => (if x.toInt ≤ y.toInt then x else y, Flags.none)
  | 5 => (if x.toNat ≤ y.toNat then x else y, Flags.none)
  | 6 => (if x.toInt ≤ y.toInt then y else x, Flags.none)
  | 7 => (if x.toNat ≤ y.toNat then y else x, Flags.none)
  | 8 => asWord (addF f32 (rd32 x) (rd32 y))
  | 9 => pickF false x y
  | _ => pickF true x y

/-- The identities of R164. -/
def identity (op : Nat) : Word :=
  match op with
  | 1 => 0xFFFFFFFF
  | 4 => 0x7FFFFFFF
  | 5 => 0xFFFFFFFF
  | 6 => 0x80000000
  | 8 => 0x80000000
  | 9 => 0x7F800000
  | 10 => 0xFF800000
  | _ => 0

/-- One level of the reduction tree: neighbours combined, with the flags raised (R164). -/
def treeLevel (op : Nat) : List Word → List Word × Flags
  | x :: y :: r =>
    let (z, f) := combine op x y
    let (zs, g) := treeLevel op r
    (z :: zs, f.or g)
  | r => (r, Flags.none)

/-- The tree of R164, with at most `n` levels. -/
def tree (op : Nat) : Nat → List Word → Word × Flags
  | 0, l => (l.headD 0, Flags.none)
  | n + 1, l =>
    match l with
    | [] => (0, Flags.none)
    | [x] => (x, Flags.none)
    | _ =>
      let (m, f) := treeLevel op l
      let (r, g) := tree op n m
      (r, f.or g)

/-- The fold of R164: every prefix, in ascending lane order. -/
def prefixes (op : Nat) (acc : Word) : List Word → List (Word × Flags)
  | [] => []
  | x :: xs =>
    let (z, f) := combine op acc x
    (z, f) :: prefixes op z xs

/-- The values that `redux` and `scan` range over: the identity where a lane does not take part (R164). -/
def Train.laneValues (t : Train) (c : Ctl) (a : Fld) (op : Nat) : List Word :=
  (List.range t.i.width).map fun l => if (t.act c).getLsbD l then t.v a l else identity op

/-- `redux` (R164, R325). -/
def execRedux (c : Ctl) (d a op : Fld) (s : State) : Host.Outcome State Fault Refusal :=
  word (.redux c d a op) false (needs2 d a)
    (fun s => (s.onT fun t =>
      let r := tree op.toNat 7 (t.laneValues c a op.toNat)
      (t.putV d.toNat (t.act c) fun _ => r.1).orFlags r.2.bits).done) s

/-- `scan` (R164, R325). -/
def execScan (c : Ctl) (d a op : Fld) (s : State) : Host.Outcome State Fault Refusal :=
  word (.scan c d a op) false (needs2 d a)
    (fun s => (s.onT fun t =>
      let r := prefixes op.toNat (identity op.toNat) (t.laneValues c a op.toNat)
      (t.putV d.toNat (t.act c) fun l => (r.getD l (0, Flags.none)).1).orFlags
        (r.foldl (fun g x => g.or x.2) Flags.none).bits).done) s

/-- The coupled-car mask: bit c for a car of 8 lanes that holds a lane of SPLIT (R161). -/
def carMask (m : Mask) : Word :=
  BitVec.ofNat 32 ((List.range 8).foldl (fun w c => if m &&& (0xFF <<< (8 * c)) = 0 then w else w + 2 ^ c) 0)

/-- `wid` (R161, R326). -/
def execWid (c : Ctl) (d : Fld) (s : State) : Host.Outcome State Fault Refusal :=
  word (.wid c d) false [.v d.toNat 3]
    (fun s => (s.onT fun t =>
      let e := t.act c
      let m := t.split.mask
      let n := d.toNat
      let u := t.putV n e fun _ => BitVec.ofNat 32 (lanes m).length
      let u := u.putV (n + 1) e fun _ => BitVec.ofNat 32 t.i.width
      let u := u.putV (n + 2) e fun _ => carMask m
      u.putV (n + 3) e fun l => BitVec.ofNat 32 (lanes (m &&& below l)).length).done) s

end Sys2Proof.Machine
end

