-- ==== Sys2Proof/Machine/Special.lean ====
section
/-! DEFINITION. The correctly rounded special functions and division of R222, by exact integers: algebraic functions by exact
quotients and square roots, transcendental ones by their value to 640 bits. -/
namespace Sys2Proof
namespace Special

/-- The working precision: a real x is held as an integer near x × 2^prec. -/
def prec : Nat := 640
/-- The width of every enclosure below, in units of 2^−prec, on either side of the computed value. -/
def slack : Nat := 65536
/-- π × 2^prec, rounded down. -/
def piFix : Nat :=
  0x3243f6a8885a308d313198a2e03707344a4093822299f31d0082efa98ec4e6c89452821e638d01377be5466cf34e90c6cc0ac29b7c97c50dd3f84d5b5b54709179216d5d98979fb1bd1310ba698dfb5ac
/-- ln 2 × 2^prec, rounded down. -/
def ln2Fix : Nat :=
  0xb17217f7d1cf79abc9e3b39803f2f6af40f343267298b62d8a0d175b8baafa2be7b876206debac98559552fb4afa1b10ed2eae35c138214427573b291169b8253e96ca16224ae8c51acbda11317c387e

/-- One. -/
def one : Nat := 2 ^ prec
/-- The product of two held reals, rounded down. -/
def fmul (x y : Nat) : Nat := x * y / one

/-- The largest r below 2^bits with r × r ≤ n, bit by bit from the top. -/
def sqrtBits (n : Nat) : Nat → Nat → Nat
  | 0, r => r
  | i + 1, r => sqrtBits n i (if (r + 2 ^ i) * (r + 2 ^ i) ≤ n then r + 2 ^ i else r)

/-- The integer square root, rounded down. -/
def isqrt (n : Nat) : Nat := sqrtBits n (bitLen n / 2 + 1) 0

/-- Σ y^k / k! from term `t` = y^k / k!, for `fuel` more terms. -/
def expSum (y : Nat) : Nat → Nat → Nat → Nat
  | 0, _, _ => 0
  | fuel + 1, k, t => t + expSum y fuel (k + 1) (fmul t y / (k + 1))

/-- e^y for a held y below 1. -/
def exp (y : Nat) : Nat := expSum y 160 0 one

/-- The alternating sum t − t·w/((k+1)(k+2)) + …, with w = u². -/
def altSum (w : Nat) : Nat → Nat → Nat → Int
  | 0, _, _ => 0
  | fuel + 1, k, t => (t : Int) - altSum w fuel (k + 2) (fmul t w / ((k + 1) * (k + 2)))

/-- sin u for a held u in [0, 1]. -/
def sin (u : Nat) : Nat := (altSum (fmul u u) 90 1 u).toNat
/-- cos u for a held u in [0, 1]. -/
def cos (u : Nat) : Nat := (altSum (fmul u u) 90 0 one).toNat

/-- Σ t / k over odd k, t multiplied by w each time. -/
def atanhSum (w : Nat) : Nat → Nat → Nat → Nat
  | 0, _, _ => 0
  | fuel + 1, k, t => t / k + atanhSum w fuel (k + 2) (fmul t w)

/-- ln ((1 + z) / (1 − z)) for a held z in [0, 1/5]. -/
def lnRatio (z : Nat) : Nat := 2 * atanhSum (fmul z z) 150 1 z

/-- The f32 rounding of a value that is no f32 number itself and is held to less than `slack` from below, as `lo` × 2^e: no boundary
between two results lies in so narrow an interval above `lo`. PRESUMED, unsafe (log 13). -/
def enclosed (neg : Bool) (lo : Nat) (e : Int) : Word × Flags :=
  let (w, f) := roundF f32 .rne neg lo e true
  (BitVec.ofNat 32 w, f)

/-- Canonical NaN with IV when `iv`. -/
def nanWith (iv : Bool) : Word × Flags := (0x7FC00000#32, Flags.ivIf iv)
/-- ±infinity. -/
def infW (neg : Bool) : Word := if neg then 0xFF800000#32 else 0x7F800000#32
/-- ±0. -/
def zeroW (neg : Bool) : Word := if neg then 0x80000000#32 else 0x00000000#32
/-- ±1.0. -/
def oneW (neg : Bool) : Word := if neg then 0xBF800000#32 else 0x3F800000#32

/-- a / b (R222, R319). -/
def div (a b : Word) : Word × Flags :=
  match decodeF f32 a.toNat, decodeF f32 b.toNat with
  | .nan s, y => nanWith (s || y.isSnan)
  | _, .nan s => nanWith s
  | .inf _, .inf _ => nanWith true
  | .inf s, y => (infW (s != y.sign), Flags.none)
  | x, .inf s => (zeroW (x.sign != s), Flags.none)
  | .fin s m e, .fin t n d =>
    if n = 0 then
      if m = 0 then nanWith true else (infW (s != t), Flags.divZero)
    else if m = 0 then (zeroW (s != t), Flags.none)
    else
      let (r, f) := roundRat f32 .rne (s != t) m n (e - d)
      (BitVec.ofNat 32 r, f)

/-- 1 / a. PRESUMED, unsafe (log 13). -/
def rcp (a : Word) : Word × Flags := div 0x3F800000#32 a

/-- √a. -/
def sqrt (a : Word) : Word × Flags :=
  match decodeF f32 a.toNat with
  | .nan s => nanWith s
  | .inf s => if s then nanWith true else (infW false, Flags.none)
  | .fin s m e =>
    if m = 0 then (a, Flags.none)
    else if s then nanWith true
    else
      let (n, d) := if e % 2 = 0 then (m, e) else (2 * m, e - 1)
      let v := n * 2 ^ 128
      let r := isqrt v
      let (w, f) := roundF f32 .rne false r (d / 2 - 64) (r * r != v)
      (BitVec.ofNat 32 w, f)

/-- 1 / √a. -/
def rsq (a : Word) : Word × Flags :=
  match decodeF f32 a.toNat with
  | .nan s => nanWith s
  | .inf s => if s then nanWith true else (zeroW false, Flags.none)
  | .fin s m e =>
    if m = 0 then (infW s, Flags.divZero)
    else if s then nanWith true
    else
      let (n, d) := if e % 2 = 0 then (m, e) else (2 * m, e - 1)
      let r := isqrt (2 ^ 192 / n)
      let (w, f) := roundF f32 .rne false r (-(d / 2) - 96) (r * r * n != 2 ^ 192)
      (BitVec.ofNat 32 w, f)

/-- 2^a. -/
def exp2 (a : Word) : Word × Flags :=
  match decodeF f32 a.toNat with
  | .nan s => nanWith s
  | .inf s => (if s then zeroW false else infW false, Flags.none)
  | .fin s m e =>
    if m = 0 then (oneW false, Flags.none)
    else
      let x := (FVal.fin s m e).dy
      if 8 ≤ bitLen m + e then
        -- |a| is 128 or more: the result lies beyond the largest finite, or below half the smallest subnormal, or is exact
        if s then
          let n := x.floor
          if Dyadic.eq x (Dyadic.ofInt n) && decide (-160 ≤ n) then
            let (w, f) := roundF f32 .rne false 1 n false
            (BitVec.ofNat 32 w, f)
          else if -160 ≤ n then
            let fr := (x.sub (Dyadic.ofInt n)).atExp (-(prec : Int))
            let v := exp (fmul fr.toNat ln2Fix)
            enclosed false (v - slack) (n - (prec : Int))
          else
            let (w, f) := roundF f32 .rne false 1 (-200) true
            (BitVec.ofNat 32 w, f)
        else
          let (w, f) := roundF f32 .rne false 1 200 true
          (BitVec.ofNat 32 w, f)
      else
        let n := x.floor
        if Dyadic.eq x (Dyadic.ofInt n) then
          let (w, f) := roundF f32 .rne false 1 n false
          (BitVec.ofNat 32 w, f)
        else
          let fr := (x.sub (Dyadic.ofInt n)).atExp (-(prec : Int))
          let v := exp (fmul fr.toNat ln2Fix)
          enclosed false (v - slack) (n - (prec : Int))

/-- log2 a. -/
def log2 (a : Word) : Word × Flags :=
  match decodeF f32 a.toNat with
  | .nan s => nanWith s
  | .inf s => if s then nanWith true else (infW false, Flags.none)
  | .fin s m e =>
    if m = 0 then (infW true, Flags.divZero)
    else if s then nanWith true
    else
      let len := bitLen m
      -- a = M × 2^k with M in [2/3, 4/3)
      let big := decide (4 * 2 ^ (len - 1) ≤ 3 * m)
      let unit := if big then 2 ^ len else 2 ^ (len - 1)
      let k : Int := e + (len : Int) - (if big then 0 else 1)
      if m = unit then
        let (w, f) := roundDy f32 .rne (Dyadic.ofInt k) false
        (BitVec.ofNat 32 w, f)
      else
        let below := decide (m < unit)
        let num := if below then unit - m else m - unit
        let l := lnRatio (num * one / (m + unit)) * one / ln2Fix
        let v : Int := k * (one : Int) + (if below then -(l : Int) else (l : Int))
        enclosed (decide (v < 0)) (v.natAbs - slack) (-(prec : Int))

/-- sin (π t / 2^149) for t from 0 to 2^148 (a half turn's first half), as the magnitude with its exactness decided. -/
def sinTurn (neg : Bool) (t : Nat) : Word × Flags :=
  if t = 0 then (zeroW neg, Flags.none)
  else if t = 2 ^ 148 then (oneW neg, Flags.none)
  else
    let held (t : Nat) : Nat := fmul (t * 2 ^ (prec - 149)) piFix
    let v := if t ≤ 2 ^ 147 then sin (held t) else cos (held (2 ^ 148 - t))
    enclosed neg (v - slack) (-(prec : Int))

/-- sin (π a). The turn is reduced exactly (R222). -/
def sinpi (a : Word) : Word × Flags :=
  match decodeF f32 a.toNat with
  | .nan s => nanWith s
  | .inf _ => nanWith true
  | .fin s m e =>
    let r := m * 2 ^ (e + 149).toNat % 2 ^ 150
    let t := r % 2 ^ 149
    if t = 0 then (zeroW s, Flags.none)
    else
      let neg := s != decide (2 ^ 149 ≤ r)
      sinTurn neg (if 2 ^ 148 < t then 2 ^ 149 - t else t)

/-- cos (π a) = sin (π (1/2 − a)), with its exact zeros +0 (R222). -/
def cospi (a : Word) : Word × Flags :=
  match decodeF f32 a.toNat with
  | .nan s => nanWith s
  | .inf _ => nanWith true
  | .fin _ m e =>
    let r := (m * 2 ^ (e + 149).toNat + 2 ^ 148) % 2 ^ 150
    let t := r % 2 ^ 149
    if t = 0 then (zeroW false, Flags.none)
    else sinTurn (decide (2 ^ 149 ≤ r)) (if 2 ^ 148 < t then 2 ^ 149 - t else t)

/-- tanh a. -/
def tanh (a : Word) : Word × Flags :=
  match decodeF f32 a.toNat with
  | .nan s => nanWith s
  | .inf s => (oneW s, Flags.none)
  | .fin s m e =>
    if m = 0 then (a, Flags.none)
    else if 7 ≤ (bitLen m : Int) + e then
      -- |a| is 64 or more: the value lies between 1 − 2^−100 and 1
      let (w, f) := roundF f32 .rne s (2 ^ 100 - 1) (-100) true
      (BitVec.ofNat 32 w, f)
    else
      let y := m * 2 ^ (e + (prec : Int) + 1).toNat
      let n := y / ln2Fix
      let v := exp (y - n * ln2Fix)
      let lo := (v - slack) * 2 ^ n
      enclosed s ((lo - one) * one / (lo + one)) (-(prec : Int))

end Special
end Sys2Proof
end

