-- ==== Sys2Proof/Machine/FloatOps.lean ====
section
/-! DEFINITION. The floating-point, conversion and special-function instructions (R304 to R319). -/
namespace Sys2Proof.Machine

/-- `fadd.f32` (R306). -/
def execFadd (c : Ctl) (d a b : Fld) (s : State) : Host.Outcome State Fault Refusal :=
  word (.fadd c d a b) false (needs3 d a b)
    (laneFloat c d fun t l => asWord (addF f32 (rd32 (t.v a l)) (rd32 (t.v b l)))) s

/-- `fadd.f32` with a uniform operand (R306). -/
def execFaddS (c : Ctl) (d a b : Fld) (s : State) : Host.Outcome State Fault Refusal :=
  word (.faddS c d a b) false (needs3S d a b)
    (laneFloat c d fun t l => asWord (addF f32 (rd32 (t.v a l)) (rd32 (t.sw b)))) s

/-- `fsub.f32` (R306). -/
def execFsub (c : Ctl) (d a b : Fld) (s : State) : Host.Outcome State Fault Refusal :=
  word (.fsub c d a b) false (needs3 d a b)
    (laneFloat c d fun t l => asWord (subF f32 (rd32 (t.v a l)) (rd32 (t.v b l)))) s

/-- `fsub.f32` with a uniform operand (R306). -/
def execFsubS (c : Ctl) (d a b : Fld) (s : State) : Host.Outcome State Fault Refusal :=
  word (.fsubS c d a b) false (needs3S d a b)
    (laneFloat c d fun t l => asWord (subF f32 (rd32 (t.v a l)) (rd32 (t.sw b)))) s

/-- `fmul.f32` (R306). -/
def execFmul (c : Ctl) (d a b : Fld) (s : State) : Host.Outcome State Fault Refusal :=
  word (.fmul c d a b) false (needs3 d a b)
    (laneFloat c d fun t l => asWord (timesF f32 (rd32 (t.v a l)) (rd32 (t.v b l)))) s

/-- `fmul.f32` with a uniform operand (R306). -/
def execFmulS (c : Ctl) (d a b : Fld) (s : State) : Host.Outcome State Fault Refusal :=
  word (.fmulS c d a b) false (needs3S d a b)
    (laneFloat c d fun t l => asWord (timesF f32 (rd32 (t.v a l)) (rd32 (t.sw b)))) s

/-- `ffma.f32` (R306). -/
def execFfma (c : Ctl) (d a b : Fld) (s : State) : Host.Outcome State Fault Refusal :=
  word (.ffma c d a b) false (needs3 d a b)
    (laneFloat c d fun t l => asWord (fmaF f32 (rd32 (t.v a l)) (rd32 (t.v b l)) (rd32 (t.v d l)))) s

/-- `ffma.f32` with a uniform operand (R306). -/
def execFfmaS (c : Ctl) (d a b : Fld) (s : State) : Host.Outcome State Fault Refusal :=
  word (.ffmaS c d a b) false (needs3S d a b)
    (laneFloat c d fun t l => asWord (fmaF f32 (rd32 (t.v a l)) (rd32 (t.sw b)) (rd32 (t.v d l)))) s

/-- `fmin.f32` (R312). -/
def execFmin (c : Ctl) (d a b : Fld) (s : State) : Host.Outcome State Fault Refusal :=
  word (.fmin c d a b) false (needs3 d a b)
    (laneFloat c d fun t l => pickF false (t.v a l) (t.v b l)) s

/-- `fmax.f32` (R312). -/
def execFmax (c : Ctl) (d a b : Fld) (s : State) : Host.Outcome State Fault Refusal :=
  word (.fmax c d a b) false (needs3 d a b)
    (laneFloat c d fun t l => pickF true (t.v a l) (t.v b l)) s

/-- `fabs.f32` (R312). -/
def execFabs (c : Ctl) (d a : Fld) (s : State) : Host.Outcome State Fault Refusal :=
  word (.fabs c d a) false (needs2 d a)
    (lane c d fun t l => signOp true (t.v a l)) s

/-- `fneg.f32` (R312). -/
def execFneg (c : Ctl) (d a : Fld) (s : State) : Host.Outcome State Fault Refusal :=
  word (.fneg c d a) false (needs2 d a)
    (lane c d fun t l => signOp false (t.v a l)) s

/-- `fadd.f64` (R308). -/
def execFaddF64 (c : Ctl) (d a b : Fld) (s : State) : Host.Outcome State Fault Refusal :=
  word (.faddF64 c d a b) false (needsPair d a b)
    (laneFloatPair c d fun t l => asPair (addF f64 (rd64 (t.vv a l)) (rd64 (t.vv b l)))) s

/-- `fmul.f64` (R308). -/
def execFmulF64 (c : Ctl) (d a b : Fld) (s : State) : Host.Outcome State Fault Refusal :=
  word (.fmulF64 c d a b) false (needsPair d a b)
    (laneFloatPair c d fun t l => asPair (timesF f64 (rd64 (t.vv a l)) (rd64 (t.vv b l)))) s

/-- `ffma.f64` (R308). -/
def execFfmaF64 (c : Ctl) (d a b : Fld) (s : State) : Host.Outcome State Fault Refusal :=
  word (.ffmaF64 c d a b) false (needsPair d a b)
    (laneFloatPair c d fun t l => asPair (fmaF f64 (rd64 (t.vv a l)) (rd64 (t.vv b l)) (rd64 (t.vv d l)))) s

/-- `fsub.f64` (R308). -/
def execFsubF64 (c : Ctl) (d a b : Fld) (s : State) : Host.Outcome State Fault Refusal :=
  word (.fsubF64 c d a b) false (needsPair d a b)
    (laneFloatPair c d fun t l => asPair (subF f64 (rd64 (t.vv a l)) (rd64 (t.vv b l)))) s

/-- `fadd.h16x2` (R309). -/
def execFaddH16x2 (c : Ctl) (d a b : Fld) (s : State) : Host.Outcome State Fault Refusal :=
  word (.faddH16x2 c d a b) false (needs3 d a b)
    (laneFloat c d fun t l => packed h16 (fun x y _ => addF h16 x y) (t.v a l) (t.v b l) (t.v d l)) s

/-- `fmul.h16x2` (R309). -/
def execFmulH16x2 (c : Ctl) (d a b : Fld) (s : State) : Host.Outcome State Fault Refusal :=
  word (.fmulH16x2 c d a b) false (needs3 d a b)
    (laneFloat c d fun t l => packed h16 (fun x y _ => timesF h16 x y) (t.v a l) (t.v b l) (t.v d l)) s

/-- `ffma.h16x2` (R309). -/
def execFfmaH16x2 (c : Ctl) (d a b : Fld) (s : State) : Host.Outcome State Fault Refusal :=
  word (.ffmaH16x2 c d a b) false (needs3 d a b)
    (laneFloat c d fun t l => packed h16 (fun x y z => fmaF h16 x y z) (t.v a l) (t.v b l) (t.v d l)) s

/-- `fadd.bf16x2` (R309). -/
def execFaddBf16x2 (c : Ctl) (d a b : Fld) (s : State) : Host.Outcome State Fault Refusal :=
  word (.faddBf16x2 c d a b) false (needs3 d a b)
    (laneFloat c d fun t l => packed bf16 (fun x y _ => addF bf16 x y) (t.v a l) (t.v b l) (t.v d l)) s

/-- `fmul.bf16x2` (R309). -/
def execFmulBf16x2 (c : Ctl) (d a b : Fld) (s : State) : Host.Outcome State Fault Refusal :=
  word (.fmulBf16x2 c d a b) false (needs3 d a b)
    (laneFloat c d fun t l => packed bf16 (fun x y _ => timesF bf16 x y) (t.v a l) (t.v b l) (t.v d l)) s

/-- `ffma.bf16x2` (R309). -/
def execFfmaBf16x2 (c : Ctl) (d a b : Fld) (s : State) : Host.Outcome State Fault Refusal :=
  word (.ffmaBf16x2 c d a b) false (needs3 d a b)
    (laneFloat c d fun t l => packed bf16 (fun x y z => fmaF bf16 x y z) (t.v a l) (t.v b l) (t.v d l)) s

/-- `fdot2.bf16` (R310). -/
def execFdot2Bf16 (c : Ctl) (d a b : Fld) (s : State) : Host.Outcome State Fault Refusal :=
  word (.fdot2Bf16 c d a b) false (needs3 d a b)
    (laneFloat c d fun t l => dot2 (t.v d l) (t.v a l) (t.v b l)) s

/-- `fscale.f32` (R311). -/
def execFscale (c : Ctl) (d a b : Fld) (s : State) : Host.Outcome State Fault Refusal :=
  word (.fscale c d a b) false (needs3 d a b)
    (laneFloat c d fun t l => scaleWord (t.v a l) (t.v b l)) s

/-- `fcmp.eq.f32` (R313). -/
def execFcmpEqF32 (c : Ctl) (d a b : Fld) (s : State) : Host.Outcome State Fault Refusal :=
  word (.fcmpEqF32 c d a b) false [.p d.toNat, .v a.toNat 0, .v b.toNat 0]
    (compareFloat c d fun t l => let x := rd32 (t.v a l); let y := rd32 (t.v b l); (eqF x y, cmpFlags false x y)) s

/-- `fcmp.ne.f32` (R313). -/
def execFcmpNeF32 (c : Ctl) (d a b : Fld) (s : State) : Host.Outcome State Fault Refusal :=
  word (.fcmpNeF32 c d a b) false [.p d.toNat, .v a.toNat 0, .v b.toNat 0]
    (compareFloat c d fun t l => let x := rd32 (t.v a l); let y := rd32 (t.v b l); (!eqF x y, cmpFlags false x y)) s

/-- `fcmp.lt.f32` (R313). -/
def execFcmpLtF32 (c : Ctl) (d a b : Fld) (s : State) : Host.Outcome State Fault Refusal :=
  word (.fcmpLtF32 c d a b) false [.p d.toNat, .v a.toNat 0, .v b.toNat 0]
    (compareFloat c d fun t l => let x := rd32 (t.v a l); let y := rd32 (t.v b l); (ltF x y, cmpFlags true x y)) s

/-- `fcmp.le.f32` (R313). -/
def execFcmpLeF32 (c : Ctl) (d a b : Fld) (s : State) : Host.Outcome State Fault Refusal :=
  word (.fcmpLeF32 c d a b) false [.p d.toNat, .v a.toNat 0, .v b.toNat 0]
    (compareFloat c d fun t l => let x := rd32 (t.v a l); let y := rd32 (t.v b l); (ltF x y || eqF x y, cmpFlags true x y)) s

/-- `fcmp.un.f32` (R313). -/
def execFcmpUnF32 (c : Ctl) (d a b : Fld) (s : State) : Host.Outcome State Fault Refusal :=
  word (.fcmpUnF32 c d a b) false [.p d.toNat, .v a.toNat 0, .v b.toNat 0]
    (compareFloat c d fun t l => let x := rd32 (t.v a l); let y := rd32 (t.v b l); (x.isNan || y.isNan, cmpFlags false x y)) s

/-- `fcmp.eq.f64` (R313). -/
def execFcmpEqF64 (c : Ctl) (d a b : Fld) (s : State) : Host.Outcome State Fault Refusal :=
  word (.fcmpEqF64 c d a b) false [.p d.toNat, .v a.toNat 1, .v b.toNat 1]
    (compareFloat c d fun t l => let x := rd64 (t.vv a l); let y := rd64 (t.vv b l); (eqF x y, cmpFlags false x y)) s

/-- `fcmp.lt.f64` (R313). -/
def execFcmpLtF64 (c : Ctl) (d a b : Fld) (s : State) : Host.Outcome State Fault Refusal :=
  word (.fcmpLtF64 c d a b) false [.p d.toNat, .v a.toNat 1, .v b.toNat 1]
    (compareFloat c d fun t l => let x := rd64 (t.vv a l); let y := rd64 (t.vv b l); (ltF x y, cmpFlags true x y)) s

/-- `fcmp.le.f64` (R313). -/
def execFcmpLeF64 (c : Ctl) (d a b : Fld) (s : State) : Host.Outcome State Fault Refusal :=
  word (.fcmpLeF64 c d a b) false [.p d.toNat, .v a.toNat 1, .v b.toNat 1]
    (compareFloat c d fun t l => let x := rd64 (t.vv a l); let y := rd64 (t.vv b l); (ltF x y || eqF x y, cmpFlags true x y)) s

/-- `fclass` (R314). -/
def execFclass (c : Ctl) (d a : Fld) (s : State) : Host.Outcome State Fault Refusal :=
  word (.fclass c d a) false (needs2 d a)
    (lane c d fun t l => classF (t.v a l)) s

/-- `frnd` (R315). -/
def execFrnd (c : Ctl) (d a : Fld) (mode : BitVec 2) (s : State) : Host.Outcome State Fault Refusal :=
  word (.frnd c d a mode) false (needs2 d a)
    (laneFloat c d fun t l => integralF (RMode.ofBits mode) (t.v a l)) s

/-- `fcvt`: source and destination are one register or a pair by PAIR (R316, R317). -/
def execFcvt (c : Ctl) (d a : Fld) (mode : BitVec 2) (pair : BitVec 5) (s : State) : Host.Outcome State Fault Refusal :=
  let p := pair.toNat
  let src := fun (t : Train) (l : Nat) => if cvtFromPair p then (t.vv a l).toNat else (t.v a l).toNat
  word (.fcvt c d a mode pair) false
    [.v d.toNat (if cvtToPair p then 1 else 0), .v a.toNat (if cvtFromPair p then 1 else 0)]
    (if cvtToPair p then laneFloatPair c d fun t l => asPair (convert p (RMode.ofBits mode) (src t l))
     else laneFloat c d fun t l => asWord (convert p (RMode.ofBits mode) (src t l))) s

/-- `fcvt.pk` (R318). -/
def execFcvtPk (c : Ctl) (d a : Fld) (mode : BitVec 2) (pair : BitVec 5) (s : State) : Host.Outcome State Fault Refusal :=
  let p := pair.toNat
  let m := RMode.ofBits mode
  word (.fcvtPk c d a mode pair) false
    [.v d.toNat (match p with
      | 2 => 1
      | 3 => 1
      | 5 => 3
      | 7 => 3
      | _ => 0),
     .v a.toNat (match p with
      | 0 => 1
      | 1 => 1
      | 4 => 3
      | 6 => 3
      | _ => 0)]
    (match p with
     | 2 => laneFloatPair c d fun t l =>
        let lo := unpackFrom 2 (t.v a l) 0
        let hi := unpackFrom 2 (t.v a l) 1
        (hi.1 ++ lo.1, lo.2.or hi.2)
     | 3 => laneFloatPair c d fun t l =>
        let lo := unpackFrom 3 (t.v a l) 0
        let hi := unpackFrom 3 (t.v a l) 1
        (hi.1 ++ lo.1, lo.2.or hi.2)
     | 5 => laneFloatQuad c d fun t l i => unpackFrom 5 (t.v a l) i
     | 7 => laneFloatQuad c d fun t l i => unpackFrom 7 (t.v a l) i
     | _ => laneFloat c d fun t l => packInto p m fun i => t.vk a i l) s

/-- `frcp` (R319). -/
def execFrcp (c : Ctl) (d a : Fld) (s : State) : Host.Outcome State Fault Refusal :=
  word (.frcp c d a) false (needs2 d a)
    (laneFloat c d fun t l => Special.rcp (t.v a l)) s

/-- `frsq` (R319). -/
def execFrsq (c : Ctl) (d a : Fld) (s : State) : Host.Outcome State Fault Refusal :=
  word (.frsq c d a) false (needs2 d a)
    (laneFloat c d fun t l => Special.rsq (t.v a l)) s

/-- `fsqrt` (R319). -/
def execFsqrt (c : Ctl) (d a : Fld) (s : State) : Host.Outcome State Fault Refusal :=
  word (.fsqrt c d a) false (needs2 d a)
    (laneFloat c d fun t l => Special.sqrt (t.v a l)) s

/-- `fexp2` (R319). -/
def execFexp2 (c : Ctl) (d a : Fld) (s : State) : Host.Outcome State Fault Refusal :=
  word (.fexp2 c d a) false (needs2 d a)
    (laneFloat c d fun t l => Special.exp2 (t.v a l)) s

/-- `flog2` (R319). -/
def execFlog2 (c : Ctl) (d a : Fld) (s : State) : Host.Outcome State Fault Refusal :=
  word (.flog2 c d a) false (needs2 d a)
    (laneFloat c d fun t l => Special.log2 (t.v a l)) s

/-- `fsinpi` (R319). -/
def execFsinpi (c : Ctl) (d a : Fld) (s : State) : Host.Outcome State Fault Refusal :=
  word (.fsinpi c d a) false (needs2 d a)
    (laneFloat c d fun t l => Special.sinpi (t.v a l)) s

/-- `fcospi` (R319). -/
def execFcospi (c : Ctl) (d a : Fld) (s : State) : Host.Outcome State Fault Refusal :=
  word (.fcospi c d a) false (needs2 d a)
    (laneFloat c d fun t l => Special.cospi (t.v a l)) s

/-- `ftanh` (R319). -/
def execFtanh (c : Ctl) (d a : Fld) (s : State) : Host.Outcome State Fault Refusal :=
  word (.ftanh c d a) false (needs2 d a)
    (laneFloat c d fun t l => Special.tanh (t.v a l)) s

/-- `fdiv` (R319). -/
def execFdiv (c : Ctl) (d a b : Fld) (s : State) : Host.Outcome State Fault Refusal :=
  word (.fdiv c d a b) false (needs3 d a b)
    (laneFloat c d fun t l => Special.div (t.v a l) (t.v b l)) s

end Sys2Proof.Machine
end

