-- ==== Sys2Proof/Machine/IntOps.lean ====
section
/-! DEFINITION. The lane integer instructions (R286 to R295). -/
namespace Sys2Proof.Machine

/-- `bfx`'s field: position, length used and SX (R291). -/
def field (b : Word) : Nat × Nat × Bool :=
  let pos := (b.extractLsb' 0 5).toNat
  (pos, min (b.extractLsb' 8 6).toNat (32 - pos), b.getLsbD 16)

/-- `bfx` (R291). -/
def bitExtract (a b : Word) : Word :=
  let (pos, len, sx) := field b
  if len = 0 then 0
  else
    let f := a.toNat / 2 ^ pos % 2 ^ len
    if sx && f.testBit (len - 1) then BitVec.ofInt 32 ((f : Int) - 2 ^ len) else BitVec.ofNat 32 f

/-- `bfi` (R291). -/
def bitInsert (a b z : Word) : Word :=
  let (pos, len, _) := field b
  let m := BitVec.ofNat 32 ((2 ^ len - 1) * 2 ^ pos)
  (z &&& ~~~m) ||| ((a <<< pos) &&& m)

/-- The leading zero bits (R290). -/
def leadingZeros (a : Word) : Word := BitVec.ofNat 32 (if a = 0 then 32 else 31 - Nat.log2 a.toNat)
/-- The one bits (R290). -/
def oneBits (a : Word) : Word := BitVec.ofNat 32 ((List.range 32).filter fun i => a.getLsbD i).length
/-- The bits in reverse (R290). -/
def reverseBits (a : Word) : Word := a.reverse
/-- Bits [63:32] of an exact signed product (R288). -/
def mulHighS (x y : Word) : Word := (x.signExtend 64 * y.signExtend 64).extractLsb' 32 32
/-- Bits [63:32] of an exact unsigned product (R288). -/
def mulHighU (x y : Word) : Word := (x.zeroExtend 64 * y.zeroExtend 64).extractLsb' 32 32
/-- The smaller or larger value read as .i32 or .n32 (R288). -/
def minS (x y : Word) : Word := if x.toInt ≤ y.toInt then x else y
def maxS (x y : Word) : Word := if x.toInt ≤ y.toInt then y else x
def minU (x y : Word) : Word := if x.toNat ≤ y.toNat then x else y
def maxU (x y : Word) : Word := if x.toNat ≤ y.toNat then y else x
/-- `shl`, `shr` and `sar` by a full 32-bit count (R288). -/
def shiftLeft (x y : Word) : Word := if 32 ≤ y.toNat then 0 else x <<< y.toNat
def shiftRight (x y : Word) : Word := if 32 ≤ y.toNat then 0 else x >>> y.toNat
def shiftRightS (x y : Word) : Word := if 32 ≤ y.toNat then (if x.getLsbD 31 then 0xFFFFFFFF else 0) else x.sshiftRight y.toNat
/-- `rol` (R288). -/
def rotate (x y : Word) : Word := x.rotateLeft (y.toNat % 32)
/-- `abs`, wrapping (R290). -/
def absWord (a : Word) : Word := if a.getLsbD 31 then 0 - a else a


/-- `mov` (R290). -/
def execMov (c : Ctl) (d a : Fld) (s : State) : Host.Outcome State Fault Refusal :=
  word (.mov c d a) false (needs2 d a) (lane c d fun t l => (t.v a l)) s

/-- `add` (R288). -/
def execAdd (c : Ctl) (d a b : Fld) (s : State) : Host.Outcome State Fault Refusal :=
  word (.add c d a b) false (needs3 d a b) (lane c d fun t l => (t.v a l) + (t.v b l)) s

/-- `add` with a uniform operand (R288). -/
def execAddS (c : Ctl) (d a b : Fld) (s : State) : Host.Outcome State Fault Refusal :=
  word (.addS c d a b) false (needs3S d a b) (lane c d fun t l => (t.v a l) + (t.sw b)) s

/-- `sub` (R288). -/
def execSub (c : Ctl) (d a b : Fld) (s : State) : Host.Outcome State Fault Refusal :=
  word (.sub c d a b) false (needs3 d a b) (lane c d fun t l => (t.v a l) - (t.v b l)) s

/-- `sub` with a uniform operand (R288). -/
def execSubS (c : Ctl) (d a b : Fld) (s : State) : Host.Outcome State Fault Refusal :=
  word (.subS c d a b) false (needs3S d a b) (lane c d fun t l => (t.v a l) - (t.sw b)) s

/-- `add.b64` (R292). -/
def execAddB64 (c : Ctl) (d a b : Fld) (s : State) : Host.Outcome State Fault Refusal :=
  word (.addB64 c d a b) false (needsPair d a b) (lanePair c d fun t l => t.vv a l + t.vv b l) s

/-- `sub.b64` (R292). -/
def execSubB64 (c : Ctl) (d a b : Fld) (s : State) : Host.Outcome State Fault Refusal :=
  word (.subB64 c d a b) false (needsPair d a b) (lanePair c d fun t l => t.vv a l - t.vv b l) s

/-- `mul` (R288). -/
def execMul (c : Ctl) (d a b : Fld) (s : State) : Host.Outcome State Fault Refusal :=
  word (.mul c d a b) false (needs3 d a b) (lane c d fun t l => (t.v a l) * (t.v b l)) s

/-- `mul` with a uniform operand (R288). -/
def execMulS (c : Ctl) (d a b : Fld) (s : State) : Host.Outcome State Fault Refusal :=
  word (.mulS c d a b) false (needs3S d a b) (lane c d fun t l => (t.v a l) * (t.sw b)) s

/-- `mulh.i32` (R288). -/
def execMulhI32 (c : Ctl) (d a b : Fld) (s : State) : Host.Outcome State Fault Refusal :=
  word (.mulhI32 c d a b) false (needs3 d a b) (lane c d fun t l => mulHighS (t.v a l) (t.v b l)) s

/-- `mulh.n32` (R288). -/
def execMulhN32 (c : Ctl) (d a b : Fld) (s : State) : Host.Outcome State Fault Refusal :=
  word (.mulhN32 c d a b) false (needs3 d a b) (lane c d fun t l => mulHighU (t.v a l) (t.v b l)) s

/-- `mad` (R288). -/
def execMad (c : Ctl) (d a b : Fld) (s : State) : Host.Outcome State Fault Refusal :=
  word (.mad c d a b) false (needs3 d a b) (lane c d fun t l => (t.v a l) * (t.v b l) + (t.v d l)) s

/-- `mad` with a uniform operand (R288). -/
def execMadS (c : Ctl) (d a b : Fld) (s : State) : Host.Outcome State Fault Refusal :=
  word (.madS c d a b) false (needs3S d a b) (lane c d fun t l => (t.v a l) * (t.sw b) + (t.v d l)) s

/-- `min.i32` (R288). -/
def execMinI32 (c : Ctl) (d a b : Fld) (s : State) : Host.Outcome State Fault Refusal :=
  word (.minI32 c d a b) false (needs3 d a b) (lane c d fun t l => minS (t.v a l) (t.v b l)) s

/-- `min.n32` (R288). -/
def execMinN32 (c : Ctl) (d a b : Fld) (s : State) : Host.Outcome State Fault Refusal :=
  word (.minN32 c d a b) false (needs3 d a b) (lane c d fun t l => minU (t.v a l) (t.v b l)) s

/-- `max.i32` (R288). -/
def execMaxI32 (c : Ctl) (d a b : Fld) (s : State) : Host.Outcome State Fault Refusal :=
  word (.maxI32 c d a b) false (needs3 d a b) (lane c d fun t l => maxS (t.v a l) (t.v b l)) s

/-- `max.n32` (R288). -/
def execMaxN32 (c : Ctl) (d a b : Fld) (s : State) : Host.Outcome State Fault Refusal :=
  word (.maxN32 c d a b) false (needs3 d a b) (lane c d fun t l => maxU (t.v a l) (t.v b l)) s

/-- `and` (R288). -/
def execAnd (c : Ctl) (d a b : Fld) (s : State) : Host.Outcome State Fault Refusal :=
  word (.and c d a b) false (needs3 d a b) (lane c d fun t l => (t.v a l) &&& (t.v b l)) s

/-- `and` with a uniform operand (R288). -/
def execAndS (c : Ctl) (d a b : Fld) (s : State) : Host.Outcome State Fault Refusal :=
  word (.andS c d a b) false (needs3S d a b) (lane c d fun t l => (t.v a l) &&& (t.sw b)) s

/-- `or` (R288). -/
def execOr (c : Ctl) (d a b : Fld) (s : State) : Host.Outcome State Fault Refusal :=
  word (.or c d a b) false (needs3 d a b) (lane c d fun t l => (t.v a l) ||| (t.v b l)) s

/-- `or` with a uniform operand (R288). -/
def execOrS (c : Ctl) (d a b : Fld) (s : State) : Host.Outcome State Fault Refusal :=
  word (.orS c d a b) false (needs3S d a b) (lane c d fun t l => (t.v a l) ||| (t.sw b)) s

/-- `xor` (R288). -/
def execXor (c : Ctl) (d a b : Fld) (s : State) : Host.Outcome State Fault Refusal :=
  word (.xor c d a b) false (needs3 d a b) (lane c d fun t l => (t.v a l) ^^^ (t.v b l)) s

/-- `xor` with a uniform operand (R288). -/
def execXorS (c : Ctl) (d a b : Fld) (s : State) : Host.Outcome State Fault Refusal :=
  word (.xorS c d a b) false (needs3S d a b) (lane c d fun t l => (t.v a l) ^^^ (t.sw b)) s

/-- `andn` (R288). -/
def execAndn (c : Ctl) (d a b : Fld) (s : State) : Host.Outcome State Fault Refusal :=
  word (.andn c d a b) false (needs3 d a b) (lane c d fun t l => (t.v a l) &&& ~~~(t.v b l)) s

/-- `shl` (R288). -/
def execShl (c : Ctl) (d a b : Fld) (s : State) : Host.Outcome State Fault Refusal :=
  word (.shl c d a b) false (needs3 d a b) (lane c d fun t l => shiftLeft (t.v a l) (t.v b l)) s

/-- `shr` (R288). -/
def execShr (c : Ctl) (d a b : Fld) (s : State) : Host.Outcome State Fault Refusal :=
  word (.shr c d a b) false (needs3 d a b) (lane c d fun t l => shiftRight (t.v a l) (t.v b l)) s

/-- `sar` (R288). -/
def execSar (c : Ctl) (d a b : Fld) (s : State) : Host.Outcome State Fault Refusal :=
  word (.sar c d a b) false (needs3 d a b) (lane c d fun t l => shiftRightS (t.v a l) (t.v b l)) s

/-- `rol` (R288). -/
def execRol (c : Ctl) (d a b : Fld) (s : State) : Host.Outcome State Fault Refusal :=
  word (.rol c d a b) false (needs3 d a b) (lane c d fun t l => rotate (t.v a l) (t.v b l)) s

/-- `shli` (R289). -/
def execShli (c : Ctl) (d a : Fld) (n : BitVec 5) (s : State) : Host.Outcome State Fault Refusal :=
  word (.shli c d a n) false (needs2 d a) (lane c d fun t l => shiftLeft (t.v a l) (n.zeroExtend 32)) s

/-- `shri` (R289). -/
def execShri (c : Ctl) (d a : Fld) (n : BitVec 5) (s : State) : Host.Outcome State Fault Refusal :=
  word (.shri c d a n) false (needs2 d a) (lane c d fun t l => shiftRight (t.v a l) (n.zeroExtend 32)) s

/-- `sari` (R289). -/
def execSari (c : Ctl) (d a : Fld) (n : BitVec 5) (s : State) : Host.Outcome State Fault Refusal :=
  word (.sari c d a n) false (needs2 d a) (lane c d fun t l => shiftRightS (t.v a l) (n.zeroExtend 32)) s

/-- `addi` (R289). -/
def execAddi (c : Ctl) (d a n : Fld) (s : State) : Host.Outcome State Fault Refusal :=
  word (.addi c d a n) false (needs2 d a) (lane c d fun t l => t.v a l + imm7 n) s

/-- `andi` (R289). -/
def execAndi (c : Ctl) (d a n : Fld) (s : State) : Host.Outcome State Fault Refusal :=
  word (.andi c d a n) false (needs2 d a) (lane c d fun t l => t.v a l &&& imm7u n) s

/-- `bfx` (R291). -/
def execBfx (c : Ctl) (d a b : Fld) (s : State) : Host.Outcome State Fault Refusal :=
  word (.bfx c d a b) false (needs3 d a b) (lane c d fun t l => bitExtract (t.v a l) (t.v b l)) s

/-- `bfi` (R291). -/
def execBfi (c : Ctl) (d a b : Fld) (s : State) : Host.Outcome State Fault Refusal :=
  word (.bfi c d a b) false (needs3 d a b) (lane c d fun t l => bitInsert (t.v a l) (t.v b l) (t.v d l)) s

/-- `abs` (R290). -/
def execAbs (c : Ctl) (d a : Fld) (s : State) : Host.Outcome State Fault Refusal :=
  word (.abs c d a) false (needs2 d a) (lane c d fun t l => absWord (t.v a l)) s

/-- `neg` (R290). -/
def execNeg (c : Ctl) (d a : Fld) (s : State) : Host.Outcome State Fault Refusal :=
  word (.neg c d a) false (needs2 d a) (lane c d fun t l => 0 - (t.v a l)) s

/-- `clz` (R290). -/
def execClz (c : Ctl) (d a : Fld) (s : State) : Host.Outcome State Fault Refusal :=
  word (.clz c d a) false (needs2 d a) (lane c d fun t l => leadingZeros (t.v a l)) s

/-- `popc` (R290). -/
def execPopc (c : Ctl) (d a : Fld) (s : State) : Host.Outcome State Fault Refusal :=
  word (.popc c d a) false (needs2 d a) (lane c d fun t l => oneBits (t.v a l)) s

/-- `brev` (R290). -/
def execBrev (c : Ctl) (d a : Fld) (s : State) : Host.Outcome State Fault Refusal :=
  word (.brev c d a) false (needs2 d a) (lane c d fun t l => reverseBits (t.v a l)) s

/-- `lea` (R292). -/
def execLea (c : Ctl) (d a b : Fld) (s : State) : Host.Outcome State Fault Refusal :=
  word (.lea c d a b) false [.v d.toNat 1, .v a.toNat 1, .v b.toNat 0]
    (lanePair c d fun t l => t.vv a l + (t.v b l).signExtend 64) s

/-- `sel`: the predicate is the one that g1 names (R293). -/
def execSel (c : Ctl) (d a b : Fld) (s : State) : Host.Outcome State Fault Refusal :=
  word (.sel c d a b) false (needs3 d a b)
    (lane c d fun t l => if (t.old.getP t.x.priv t.old.g1.toNat).getLsbD l then t.v a l else t.v b l) s

/-- `movi` (R294). -/
def execMovi (c : Ctl) (d : Fld) (i : BitVec 14) (s : State) : Host.Outcome State Fault Refusal :=
  word (.movi c d i) false [.v d.toNat 0] (lane c d fun _ _ => i.signExtend 32) s

/-- `movk` (R294). -/
def execMovk (c : Ctl) (d : Fld) (lit : Word) (s : State) : Host.Outcome State Fault Refusal :=
  word (.movk c d lit) false [.v d.toNat 0] (laneLit c d fun _ _ => lit) s

/-- `mov.s`, one register or, with PAIR, a pair (R294). -/
def execMovS (c : Ctl) (d a : Fld) (pair : BitVec 1) (s : State) : Host.Outcome State Fault Refusal :=
  word (.movS c d a pair) false [.v d.toNat pair.toNat, .s a.toNat 0]
    (if pair = 1 then lanePair c d fun t _ => t.s a else lane c d fun t _ => t.sw a) s

/-- `cmp.eq` (R295). -/
def execCmpEq (c : Ctl) (d a b : Fld) (s : State) : Host.Outcome State Fault Refusal :=
  word (.cmpEq c d a b) false (needsCmp d a b) (compare c d fun t l => (t.v a l) == (t.v b l)) s

/-- `cmp.eq` with a uniform operand (R295). -/
def execCmpEqS (c : Ctl) (d a b : Fld) (s : State) : Host.Outcome State Fault Refusal :=
  word (.cmpEqS c d a b) false (needsCmpS d a b) (compare c d fun t l => (t.v a l) == (t.sw b)) s

/-- `cmp.ne` (R295). -/
def execCmpNe (c : Ctl) (d a b : Fld) (s : State) : Host.Outcome State Fault Refusal :=
  word (.cmpNe c d a b) false (needsCmp d a b) (compare c d fun t l => (t.v a l) != (t.v b l)) s

/-- `cmp.ne` with a uniform operand (R295). -/
def execCmpNeS (c : Ctl) (d a b : Fld) (s : State) : Host.Outcome State Fault Refusal :=
  word (.cmpNeS c d a b) false (needsCmpS d a b) (compare c d fun t l => (t.v a l) != (t.sw b)) s

/-- `cmp.lt.i32` (R295). -/
def execCmpLtI32 (c : Ctl) (d a b : Fld) (s : State) : Host.Outcome State Fault Refusal :=
  word (.cmpLtI32 c d a b) false (needsCmp d a b) (compare c d fun t l => (t.v a l).slt (t.v b l)) s

/-- `cmp.lt.i32` with a uniform operand (R295). -/
def execCmpLtI32S (c : Ctl) (d a b : Fld) (s : State) : Host.Outcome State Fault Refusal :=
  word (.cmpLtI32S c d a b) false (needsCmpS d a b) (compare c d fun t l => (t.v a l).slt (t.sw b)) s

/-- `cmp.le.i32` (R295). -/
def execCmpLeI32 (c : Ctl) (d a b : Fld) (s : State) : Host.Outcome State Fault Refusal :=
  word (.cmpLeI32 c d a b) false (needsCmp d a b) (compare c d fun t l => (t.v a l).sle (t.v b l)) s

/-- `cmp.le.i32` with a uniform operand (R295). -/
def execCmpLeI32S (c : Ctl) (d a b : Fld) (s : State) : Host.Outcome State Fault Refusal :=
  word (.cmpLeI32S c d a b) false (needsCmpS d a b) (compare c d fun t l => (t.v a l).sle (t.sw b)) s

/-- `cmp.lt.n32` (R295). -/
def execCmpLtN32 (c : Ctl) (d a b : Fld) (s : State) : Host.Outcome State Fault Refusal :=
  word (.cmpLtN32 c d a b) false (needsCmp d a b) (compare c d fun t l => (t.v a l).ult (t.v b l)) s

/-- `cmp.lt.n32` with a uniform operand (R295). -/
def execCmpLtN32S (c : Ctl) (d a b : Fld) (s : State) : Host.Outcome State Fault Refusal :=
  word (.cmpLtN32S c d a b) false (needsCmpS d a b) (compare c d fun t l => (t.v a l).ult (t.sw b)) s

/-- `cmp.le.n32` (R295). -/
def execCmpLeN32 (c : Ctl) (d a b : Fld) (s : State) : Host.Outcome State Fault Refusal :=
  word (.cmpLeN32 c d a b) false (needsCmp d a b) (compare c d fun t l => (t.v a l).ule (t.v b l)) s

/-- `cmp.le.n32` with a uniform operand (R295). -/
def execCmpLeN32S (c : Ctl) (d a b : Fld) (s : State) : Host.Outcome State Fault Refusal :=
  word (.cmpLeN32S c d a b) false (needsCmpS d a b) (compare c d fun t l => (t.v a l).ule (t.sw b)) s

/-- `cmpi.eq` (R295). -/
def execCmpiEq (c : Ctl) (d a n : Fld) (s : State) : Host.Outcome State Fault Refusal :=
  word (.cmpiEq c d a n) false [.p d.toNat, .v a.toNat 0] (compare c d fun t l => t.v a l == imm7 n) s

/-- `cmpi.lt.i32` (R295). -/
def execCmpiLtI32 (c : Ctl) (d a n : Fld) (s : State) : Host.Outcome State Fault Refusal :=
  word (.cmpiLtI32 c d a n) false [.p d.toNat, .v a.toNat 0] (compare c d fun t l => (t.v a l).slt (imm7 n)) s

/-- `cmpi.lt.n32` (R295). -/
def execCmpiLtN32 (c : Ctl) (d a n : Fld) (s : State) : Host.Outcome State Fault Refusal :=
  word (.cmpiLtN32 c d a n) false [.p d.toNat, .v a.toNat 0] (compare c d fun t l => (t.v a l).ult (imm7u n)) s

/-- `nop`: no effect, and its G has none (R265). -/
def execNop (c : Ctl) (s : State) : Host.Outcome State Fault Refusal := word (.nop c) false [] State.done s

end Sys2Proof.Machine
end

