-- ==== Sys2Proof/Machine/Matrix.lean ====
section
/-! DEFINITION. Matrix arrays, operand buffer reservations and tiles (R202, R203, R219, R220, R225 to R238, R361). -/
namespace Sys2Proof.Machine

/-- TRAPINFO of 0x1A (R236). -/
def resvInfo (reason ob kb off : Nat) : Dword :=
  BitVec.ofNat 64 (reason * 2 ^ 60 + ob % 8 * 2 ^ 53 + kb % 65536 * 2 ^ 32 + off % 2 ^ 32)

/-- TRAPINFO of 0x18 (R203). -/
def lostInfo (reason : Nat) (gen : Word) : Dword := BitVec.ofNat 64 (reason * 2 ^ 60 + gen.toNat)

/-- A matrix or tile word of a train that owes *matrix lost* takes it, in user mode, when some lane takes part (R203). DEDUCED, safe (log 44). -/
def lostFirst (c : Ctl) (body : State → State) (s : State) : State :=
  match s.t.m.lost with
  | some r =>
    if s.t.x.priv || s.t.act c = 0 then body s
    else s.raise 0x18 (s.t.act c) (lostInfo r ((s.myTeam.map Team.matrixGen).getD 0))
  | none => body s

/-- The reservation of the train's team (R227). -/
def State.resv (s : State) (n : Nat) : Option Resv := s.myTeam.bind fun m => m.resv.find? fun q => q.num = n

/-- Bytes of an element, by format code (R229). -/
def elemBytes (fmt : Nat) : Nat := if fmt = 2 || fmt = 3 then 2 else 1

/-- The exact value of an element (R206, R213). -/
def decodeElem (fmt v : Nat) : FVal :=
  match fmt with
  | 0 => decodeT t8Bits v
  | 1 => decodeT t6Bits (v % 64)
  | 2 => decodeF bf16 v
  | _ => decodeF h16 v

/-- A value times 2^n (R219). -/
def scaleBy (x : FVal) (n : Int) : FVal :=
  match x with
  | .fin s m e => .fin s m (e + n)
  | y => y

/-- A signed byte. -/
def signedByte (v : Nat) : Int := (BitVec.ofNat 8 v).toInt

/-- The scale block length (R228). -/
def Resv.block (q : Resv) : Nat := 16 * 2 ^ q.bl
/-- NBLK (R228). -/
def Resv.blocks (q : Resv) : Nat := q.klen / q.block
/-- Is the record for i8 operands? -/
def Resv.int (q : Resv) : Bool := q.fmtA = 4

/-- The regions of a range, as (offset, length) (R229). -/
def Resv.regions (q : Resv) : List (Nat × Nat) :=
  [(0, q.klen * 32 * elemBytes q.fmtB)] ++ (if q.int then [] else [(q.scaleB, 32 * q.blocks)]) ++
    (if q.permOn then [(q.permOff, 2 * q.klen)] else [])

/-- Do two ranges overlap? -/
def overlap (a b : Nat × Nat) : Bool := a.1 < b.1 + b.2 && b.1 < a.1 + a.2

/-- No two of these ranges overlap. -/
def disjoint : List (Nat × Nat) → Bool
  | [] => true
  | r :: rs => rs.all (fun x => !overlap r x) && disjoint rs

/-- Read a reservation record (R228). -/
def readResv (n v : Nat) : Resv :=
  ⟨n, natBits v 0 8, natBits v 8 8, natBits v 16 3, natBits v 19 3, natBits v 22 2, natBits v 24 1 = 1, natBits v 32 16,
    natBits v 64 32, natBits v 96 32, natBits v 128 32, natBits v 160 32⟩

/-- The conditions of R228; OBUF in KiB. -/
def resvLegal (v obuf : Nat) (q : Resv) : Bool :=
  natBits v 25 7 = 0 && natBits v 48 16 = 0 && natBits v 192 64 = 0 &&
  q.fmtA ≤ 4 && q.fmtB ≤ 4 && q.bl ≠ 3 && ((q.fmtA = 4) == (q.fmtB = 4)) && (!q.int || q.bl ≠ 0) &&
  32 ≤ q.klen && q.klen ≤ 4096 && q.klen % 32 = 0 && q.klen % q.block = 0 &&
  1 ≤ q.len && q.base + q.len ≤ obuf && 16 ≤ q.imgLen && q.imgLen ≤ q.len * 1024 && q.imgLen % 16 = 0 &&
  q.permOff % 2 = 0 && (q.permOn || q.permOff = 0) && (!q.int || (q.scaleA = 0 && q.scaleB = 0)) &&
  q.regions.all (fun r => r.1 + r.2 ≤ q.len * 1024) && disjoint q.regions

/-- Does an operation of the team that names the reservation wait (R227)? -/
def State.resvBusy (s : State) (n : Nat) : Bool :=
  s.trains.any fun t => t.i.grid = s.t.i.grid && t.i.team = s.t.i.team &&
    ((t.c.ops.any fun o => match o.work with
      | .engine _ _ _ ob => ob = some n && !o.done
      | _ => false) ||
     ((t.m.mat ++ t.m.ice).any fun o => o.ob = some n))

/-- The offset in the constant space of the first poisoned word that a record at `k` touches; 0 where that word begins before the block (R227).
DEDUCED, safe (log 103). -/
def State.poisonedConst (s : State) (k n : Nat) : Nat :=
  let word := fun (i : Nat) => (s.m.translate s.t.i.part ((s.recOf s.t).const + i)).bind fun ua =>
    if s.m.poison.contains (ua / 32) then some (i - ua % 32) else none
  (((List.range n).map fun i => k + i).findSome? word).getD k

/-- The body of `obres` (R227). -/
def reserve (c : Ctl) (n k : Nat) (s : State) : State :=
  let e := s.t.act c
  let bad := s.raise 0x1A e (resvInfo 1 n 0 k)
  if e = 0 then s.doneEnding 8
  else if !s.mayAct Order.plain || ((s.resv n).isSome && s.resvBusy n) then s.hold .wait
  else if k % 32 ≠ 0 || 65536 < k + 32 then bad
  else
    match (s.act Order.plain).readConst k 32 with
    | (s, none) => s.raise 0x0B e (memInfo 8 4 (s.poisonedConst k 32))
    | (s, some b) =>
      let v := natOfBytes b
      let q := readResv n v
      if !resvLegal v ((s.recOf s.t).obuf / 1024) q then s.raise 0x1A e (resvInfo 1 n 0 k)
      else
        let others := ((s.myTeam.map Team.resv).getD []).filter fun r => r.num != n
        if others.any fun r => overlap (r.base, r.len) (q.base, q.len) then s.raise 0x1A e (resvInfo 4 n 0 0)
        else (s.onTeam s.t.i.grid s.t.i.team fun m => { m with resv := q :: m.resv.filter fun r => r.num != n }).doneEnding 8

/-- `obres` (R227). -/
def execObres (c : Ctl) (ob : BitVec 3) (lit : Word) (s : State) : Host.Outcome State Fault Refusal :=
  word (.obres c ob lit) false [] (coupled (lostFirst c (reserve c ob.toNat lit.toNat))) s

/-- The body of `obld` (R230, R361). -/
def fill (c : Ctl) (barn ob : Nat) (a : Fld) (ac lvl : Nat) (rel : Bool) (s : State) : State :=
  let e := s.t.act c
  if e = 0 then s.doneEnding 4
  else match s.resv ob with
    | none => s.raise 0x1A e (resvInfo 0 ob 0 0)
    | some q =>
      let va := (s.t.s a).toNat
      let (bar, barTrap) := s.engineBar lvl barn
      let ms : List Move := (List.range (q.imgLen / 16)).map fun i =>
        ⟨.at (s.globLoc (va + 16 * i)), some ⟨6, s.t.i.team, q.base * 1024 + 16 * i⟩, 16⟩
      s.orRaise (trapIf (2 ^ 56 ≤ va) 0x0A e (memInfo 2 3 va) <|> trapIf (va % 16 ≠ 0) 0x0A e (memInfo 1 3 va) <|>
        trapIf (remoteSide ms true) 0x09 e (memInfo 5 3 va) <|> barTrap) fun s => s.issueEngine e ac rel ms bar (some ob) 4

/-- `obld` (R230). -/
def execObld (c : Ctl) (barn : BitVec 4) (ob : BitVec 3) (a : Fld) (ac : BitVec 4) (lvl : BitVec 2) (rel : BitVec 1) (s : State) :
    Host.Outcome State Fault Refusal :=
  word (.obld c barn ob a ac lvl rel) false [.s a.toNat 0]
    (coupled (lostFirst c (fill c barn.toNat ob.toNat a ac.toNat lvl.toNat (rel == 1#1)))) s

/-- The place of element `col` of row `row` of a tile. -/
def zKey (tile row col : Nat) : Nat := tile * 2048 + row * 32 + col

/-- A matrix operation issued now (R234). -/
def State.newMat (s : State) (tile : Nat) (rows : Mask) (clear : Bool) (sums : List (Nat × BlockVal)) (ob poison : Option Nat) : MatOp :=
  ⟨s.t.c.next, tile, rows, clear, sums, ob, poison, s.t.split.mask, s.t.pc, s.t.split.region, s.t.split.count, s.t.c.issued,
    s.t.x.priv, false, false⟩

/-- Put an operation into the array; its word ends the region (R234, R235). -/
def State.intoArray (s : State) (o : MatOp) (len : Dword) : State :=
  (s.onT fun t => { t with m := { t.m with mat := t.m.mat ++ [o] }, c := { t.c with next := t.c.next + 1 } }).doneEnding len

/-- At most four operations of a train have issued and not committed, the frozen ones among them (R237). -/
def Train.arrayFull (t : Train) : Bool := 4 ≤ t.m.mat.length + t.m.ice.length

/-- The address of a lane's A row, exact (R231). -/
def aRow (sb : Dword) (r : Nat) : Nat := natBits sb.toNat 0 32 + r * natBits sb.toNat 32 32

/-- The failed checks of an `mma`'s rows (R231). Where the range of a row's scales fails, TRAPINFO names the row's own address. DESIGN CHOICE,
unsafe (log 148). -/
def State.rowChecks (s : State) (e : Mask) (a : Fld) (sb : Dword) (q : Resv) : List LaneFault :=
  let scr := (s.recOf s.t).scratch
  (lanes e).filterMap fun l =>
    let r := (s.t.v a l).toNat
    let ra := aRow sb r
    if ra % elemBytes q.fmtA ≠ 0 then some ⟨l, 0x0A, 1, ra⟩
    else if scr < ra + q.klen * elemBytes q.fmtA then some ⟨l, 0x0A, 0, ra⟩
    else if !q.int && scr < q.scaleA + (r + 1) * q.blocks then some ⟨l, 0x0A, 0, ra⟩
    else none

/-- The 16-byte units, by team-relative index, of a range of a reservation's bytes. -/
def Resv.units (q : Resv) (off n : Nat) : List Nat :=
  let lo := q.base * 1024 + off
  (List.range ((lo + n - 1) / 16 - lo / 16 + 1)).map fun i => lo / 16 + i

/-- Bytes of a reservation's range as a number. -/
def State.resvRead (s : State) (q : Resv) (off n : Nat) : Nat := natOfBytes (s.obufRead s.t.i.grid s.t.i.team (q.base * 1024 + off) n)

/-- The channel at each of the K block's positions (R231). -/
def State.channels (s : State) (q : Resv) (kb : Nat) : List Nat :=
  (List.range 32).map fun j => if q.permOn then s.resvRead q (q.permOff + 2 * (32 * kb + j)) 2 else 32 * kb + j

/-- The lowest marked unit among some (R230). -/
def State.marked (s : State) (us : List Nat) : Option Nat :=
  let bad := (s.myTeam.map Team.obBad).getD []
  (us.filter fun u => bad.contains u).foldl (fun best u => match best with
    | some b => some (min b u)
    | none => some u) none

/-- The units of PERM, and of B and its scales, that an `mma` reads (R230). -/
def Resv.permUnits (q : Resv) (kb : Nat) : List Nat := if q.permOn then q.units (q.permOff + 64 * kb) 64 else []
/-- See `permUnits`. -/
def Resv.dataUnits (q : Resv) (kb : Nat) (ch : List Nat) : List Nat :=
  let eb := elemBytes q.fmtB
  (ch.map fun c => q.units (c * 32 * eb) (32 * eb)).flatten ++
  (if q.int then [] else ((List.range 32).map fun n => (ch.zipIdx.map fun p =>
    q.units (q.scaleB + n * q.blocks + (32 * kb + p.2) / q.block) 1).flatten).flatten)

/-- One element's K block sum (R219, R220). -/
def State.blockAt (s : State) (q : Resv) (kb : Nat) (ch : List Nat) (r ra n : Nat) : BlockVal :=
  let ea := elemBytes q.fmtA
  let eb := elemBytes q.fmtB
  let g := s.t.i.grid
  let m := s.t.i.team
  let rawA := fun c => natOfBytes (s.scratchRead g m (ra + c * ea) ea)
  let rawB := fun c => s.resvRead q ((c * 32 + n) * eb) eb
  if q.int then .whole (ch.foldl (fun acc c => acc + signedByte (rawA c) * signedByte (rawB c)) 0)
  else
    .real (blockSum (ch.zipIdx.map fun p =>
      let blk := (32 * kb + p.2) / q.block
      let sa := signedByte (natOfBytes (s.scratchRead g m (q.scaleA + r * q.blocks + blk) 1))
      let sb := signedByte (s.resvRead q (q.scaleB + n * q.blocks + blk) 1)
      blockProduct (scaleBy (decodeElem q.fmtA (rawA p.1)) sa) (scaleBy (decodeElem q.fmtB (rawB p.1)) sb)))

/-- The block sums of every row and column (R231). -/
def State.blockSums (s : State) (e : Mask) (a : Fld) (sb : Dword) (q : Resv) (kb : Nat) (ch : List Nat) : List (Nat × BlockVal) :=
  ((lanes e).map fun l =>
    let r := (s.t.v a l).toNat
    (List.range 32).map fun n => (l * 32 + n, s.blockAt q kb ch r (aRow sb r) n)).flatten

/-- Must the gather of an `mma`'s rows, over these channels of the K block, wait for an earlier store or atomic to one of its locations: of A, or
of A's scales (R109, R231)? -/
def State.gatherWaits (s : State) (e : Mask) (a : Fld) (sb : Dword) (q : Resv) (kb : Nat) (ch : List Nat) : Bool :=
  let ea := elemBytes q.fmtA
  let row := fun (l : Nat) => (s.t.v a l).toNat
  let as := (lanes e).map fun l => ch.map fun c => s.scratchAcc 1 (aRow sb (row l) + c * ea) 0 0 l
  let ss := (lanes e).map fun l => ch.zipIdx.map fun p => s.scratchAcc 1 (q.scaleA + row l * q.blocks + (32 * kb + p.2) / q.block) 0 0 l
  s.scratchWaits ea as.flatten || (!q.int && s.scratchWaits 1 ss.flatten)

/-- The body of `mma` (R231). The gather and the reads of the reservation take place at issue. Where a unit of PERM is marked, the lowest such
unit is reported, and neither the channels that it names nor the units of B that they select are looked at. DESIGN CHOICE, unsafe (log 137). -/
def multiply (c : Ctl) (zt : Nat) (a b : Fld) (lit : Word) (s : State) : State :=
  let e := s.t.act c
  let n := natBits lit.toNat 0 3
  let kb := natBits lit.toNat 8 7
  if e = 0 then s.doneEnding 8
  else match s.resv n with
    | none => s.raise 0x1A e (resvInfo 0 n kb 0)
    | some q =>
      let sb := s.t.s b
      if q.klen < 32 * (kb + 1) then s.raise 0x1A e (resvInfo 2 n kb 0)
      else s.orRaise (worstFault 1 (s.rowChecks e a sb q)) fun s =>
        let mark := s.marked (q.permUnits kb)
        let ch := s.channels q kb
        if !s.mayAct Order.plain then s.hold .wait
        else match (if mark.isSome then none else ch.zipIdx.find? fun p => q.klen ≤ p.1) with
        | some p => s.raise 0x1A e (resvInfo 3 n kb (32 * kb + p.2))
        | none =>
          if s.t.arrayFull || s.gatherWaits e a sb q kb ch then s.hold .wait
          else
            let s := s.act Order.plain
            let mark := mark <|> s.marked (q.dataUnits kb ch)
            match mark with
            | some u => s.intoArray (s.newMat zt e false [] (some n) (some (16 * u))) 8
            | none => s.intoArray (s.newMat zt e false (s.blockSums e a sb q kb ch) (some n) none) 8

/-- `mma` (R231). DEDUCED, safe (log 38). -/
def execMma (c : Ctl) (zt : BitVec 2) (a b : Fld) (lit : Word) (s : State) : Host.Outcome State Fault Refusal :=
  word (.mma c zt a b lit) false [.z zt.toNat, .v a.toNat 0, .s b.toNat 0] (coupled (lostFirst c (multiply c zt.toNat a b lit))) s

/-- `zclr` (R233, R235). -/
def execZclr (c : Ctl) (zt : BitVec 2) (s : State) : Host.Outcome State Fault Refusal :=
  word (.zclr c zt) false [.z zt.toNat]
    (lostFirst c fun s =>
      let e := s.t.act c
      if e = 0 then s.doneEnding 4
      else if s.t.arrayFull then s.hold .wait
      else s.intoArray (s.newMat zt.toNat e true [] none none) 4) s

/-- Has the train an operation on a tile that has not committed (R233)? -/
def Train.tileBusy (t : Train) (tile : Nat) : Bool := (t.m.mat ++ t.m.ice).any fun o => o.wild || o.tile = tile

/-- An element of a tile. -/
def Train.z (t : Train) (tile row col : Nat) : Word := Table.get 0 t.m.z (zKey tile row col)

/-- `zmov` (R233). -/
def execZmov (c : Ctl) (d : Fld) (zs grp : BitVec 2) (s : State) : Host.Outcome State Fault Refusal :=
  word (.zmov c d zs grp) false [.v d.toNat 7, .z zs.toNat]
    (lostFirst c fun s =>
      let e := s.t.act c
      if e != 0 && s.t.tileBusy zs.toNat then s.hold .wait
      else
        (s.onT fun t => (List.range 8).foldl (fun (u : Train) i =>
          u.putV (d.toNat + i) e fun l => t.z zs.toNat l (8 * grp.toNat + i)) t).done) s

/-- The body of `zst` (R233, R361). -/
def storeTile (c : Ctl) (barn zt : Nat) (a : Fld) (ac lvl : Nat) (rel : Bool) (s : State) : State :=
  let e := s.t.act c
  let at_ := fun l => (s.t.v a l).toNat
  if e = 0 then s.doneEnding 4
  else
    let faults := (lanes e).filterMap fun l => (s.localFault 1 (at_ l) 16 128).map fun r => (⟨l, 0x0A, r, at_ l⟩ : LaneFault)
    let (bar, barTrap) := s.engineBar lvl barn
    s.orRaise (worstFault 1 faults <|> barTrap) fun s =>
      if s.t.tileBusy zt then s.hold .wait
      else
        let row := fun l => ((List.range 32).map fun n => bytesOfNat 4 (s.t.z zt l n).toNat).flatten
        let ms : List Move := ((lanes e).map fun l => (List.range 8).map fun u =>
          (⟨.bytes (((row l).drop (16 * u)).take 16), some (s.scratchLoc 1 (at_ l + 16 * u)), 16⟩ : Move)).flatten
        s.issueEngine e ac rel ms bar none 4

/-- `zst` (R233). -/
def execZst (c : Ctl) (barn : BitVec 4) (zt : BitVec 2) (a : Fld) (ac : BitVec 4) (lvl : BitVec 2) (rel : BitVec 1) (s : State) :
    Host.Outcome State Fault Refusal :=
  word (.zst c barn zt a ac lvl rel) false [.v a.toNat 0, .z zt.toNat]
    (coupled (lostFirst c (storeTile c barn.toNat zt.toNat a ac.toNat lvl.toNat (rel == 1#1)))) s

/-- An element after its block sum is added (R219, R220). -/
def addBlock (z : Word) : BlockVal → Word
  | .real v => accumulate z v
  | .whole i => z + BitVec.ofInt 32 i

/-- The tiles after an operation commits: every row together (R231, R233). -/
def MatOp.commit (o : MatOp) (z : Sparse Word) : Sparse Word :=
  if o.clear then (lanes o.rows).foldl (fun (z : Sparse Word) l => Table.clear z (zKey o.tile l 0) 32) z
  else o.sums.foldl (fun (z : Sparse Word) p =>
    let k := o.tile * 2048 + p.1
    Table.set 0 z k (addBlock (Table.get 0 z k) p.2)) z

/-- The declared tiles with free values: what an image that no `zsave` wrote may leave (R238). -/
def State.wildTiles (s : State) : Sparse Word :=
  (List.range (s.t.i.ztiles * 2048)).foldl (fun (z : Sparse Word) k =>
    if natBits k 5 6 < s.t.i.width then Table.set 0 z k (Config.loadedElement s.tick k) else z) s.t.m.z

/-- An operation commits: the oldest of its train, in an array that is not stopped; one that a handler issues while older ones are
frozen follows them (R202, R234). A marked operation is not
performed and raises its late record (R230). Subject: train, operation. -/
def execMmaCommit (s : State) : Host.Outcome State Fault Refusal :=
  let s := s.stage s.subject.a
  match s.t.m.mat with
  | o :: os =>
    if o.id ≠ s.subject.b || !s.t.m.ice.isEmpty || (s.core s.t.core).hung then .next s
    else
      let u := s.onT fun t => { t with m := { t.m with mat := os } }
      if o.wild then .next (u.onT fun t => { t with m := { t.m with z := s.wildTiles } })
      else match o.poison with
        | some off =>
          .next (u.late ⟨0x0B, o.rows, memInfo 8 6 off, o.pc, o.region, o.count, o.age, true⟩ o.prv o.split o.divided)
        | none => .next (u.onT fun t => { t with m := { t.m with z := o.commit t.m.z } })
  | [] => .next s

/-- Has some train an operation in the array of a core? -/
def State.arrayBusy (s : State) (core : Nat) : Bool :=
  s.trains.any fun t => t.life = .running && t.core = core && !t.m.mat.isEmpty

/-- An array operation made no progress for 2^22 cycles: the array stops (R202). Subject: core. -/
def execMatrixHang (s : State) : Host.Outcome State Fault Refusal :=
  let c := s.subject.a
  if s.arrayBusy c then .next (s.onCore c fun x => { x with hung := true }) else .next s

/-- Does a team hold a reservation or tiles (R202)? -/
def State.holdsMatrix (s : State) (m : Team) : Bool :=
  !m.resv.isEmpty || (match s.grid m.grid with
    | some g => g.launch.ztiles != 0
    | none => false)

/-- A unit bound for an operand buffer whose reservations are gone is written nowhere. -/
def EUnit.lostTarget (u : EUnit) : EUnit :=
  { u with moves := u.moves.map fun m => match m.dst with
      | some l => if l.space = 6 then { m with dst := none } else m
      | none => m }

/-- An engine operation that fills a discarded reservation. DEDUCED, safe (log 39). -/
def Op.lostTarget (o : Op) : Op :=
  match o.work with
  | .engine units bar tr (some _) => { o with work := .engine (units.map EUnit.lostTarget) bar tr none }
  | _ => o

/-- A train of a team whose array was reset: its operations are abandoned, its tiles gone, and it owes *matrix lost* (R202, R203). -/
def Train.matrixReset (t : Train) : Train :=
  { t with m := ⟨[], [], [], some 0⟩, c := { t.c with ops := t.c.ops.map Op.lostTarget } }

/-- The team header's MATRIXGEN follows the team's (R197, R202). -/
def State.writeGen (s : State) (k : Nat × Nat) : State :=
  match s.team k.1 k.2, s.grid k.1 with
  | some m, some g => if m.area = 0 then s else { s with m := s.m.deviceWrite g.part (m.area + 16) (bytesOfNat 4 m.matrixGen.toNat) }
  | _, _ => s

/-- The service cores reset a hung array: the trains of each placed team concerned lose their tiles, those already vacated among them, whose
tiles stand in the array until the whole team is saved (R195, R202, R203). Subject: core. -/
def execArrayReset (s : State) : Host.Outcome State Fault Refusal :=
  let c := s.subject.a
  if !(s.core c).hung then .next s
  else
    let hit := (s.d.teams.filter fun m => m.life = .placed && m.core = c && s.holdsMatrix m).map fun m => (m.grid, m.idx)
    let s := s.mapTrains (fun t => hit.contains (t.i.grid, t.i.team) && (t.life = .running || t.life = .vacated)) Train.matrixReset
    let s := hit.foldl (fun (u : State) k => u.onTeam k.1 k.2 fun m =>
      { m with resv := [], obuf := [], obBad := [], matrixGen := m.matrixGen + 1 }) s
    let s := hit.foldl State.writeGen s
    .next (s.onCore c fun x => { x with hung := false, resets := x.resets + 1 })

/-- The header of a zsave image (R238). -/
def zHeader (length ops : Nat) (gen : Word) : List Byte :=
  bytesOfNat 64 (length * 2 ^ 96 + gen.toNat * 2 ^ 64 + ops * 2 ^ 32 + (if ops = 0 then 2 ^ 16 else 0) + Config.saveVersion)

/-- LENGTH of a zsave image: 64 without frozen operations, else 64 to 16,384 (R238). -/
def zLength (ops : Nat) : Nat := if ops = 0 then 64 else 64 + Config.saveLength (100 + ops) % 16321

/-- The check of the `n` bytes of an image at the address of `zsave` or `zload`, 64 by 64 (R62, R238). -/
def State.imageTrap (s : State) (va n right : Nat) : Option (Nat × Mask × Dword) :=
  (List.range ((n + 63) / 64)).findSome? fun i =>
    (s.globalFault s.t.i.part (va + 64 * i) 64 right false true).map fun f => (f.1, s.t.split.mask, memInfo f.2 3 (va + 64 * i))

/-- `zsave` (R238). The bytes behind the header are free values. -/
def execZsave (k : Bool) (a : Fld) (s : State) : Host.Outcome State Fault Refusal :=
  word (.zsave k a) true [.s a.toNat 0]
    (fun s =>
      let va := (s.t.s a).toNat
      let ops := s.t.m.ice
      let n := zLength ops.length
      s.orRaise (s.imageTrap va n rightWrite) fun s =>
        if !s.mayAct Order.plain then s.hold .wait
        else match s.meetNow true (s.pieces va n) with
          | (s, some h) => s.hold h
          | (s, none) =>
            let gen := (s.myTeam.map Team.matrixGen).getD 0
            let image := zHeader n ops.length gen ++ (List.range (n - 64)).map fun i => Config.imageByte s.tick i
            let s := s.act Order.plain
            let s := { s with m := s.m.deviceWriteRun s.t.i.part va image }
            (s.onT fun t => { t with m := { t.m with ice := [] },
                                     x := { t.x with zsaved := true, images := ⟨image, ops⟩ :: t.x.images } }).done) s

/-- Why a zsave image's header fails its checks (R238). -/
def zHeaderBad (v : Nat) : Bool :=
  let ops := natBits v 32 8
  natBits v 0 16 ≠ Config.saveVersion || natBits v 17 15 ≠ 0 || natBits v 40 24 ≠ 0 || v / 2 ^ 128 ≠ 0 ||
  natBits v 96 32 < 64 || 16384 < natBits v 96 32 || 4 < ops || ((ops = 0) != (natBits v 16 1 = 1))

/-- TRAPINFO of 0x19 (R203). -/
def zVersionInfo (v : Nat) : Dword := BitVec.ofNat 64 (Config.saveVersion * 2 ^ 32 + natBits v 0 16)

/-- An operation that an image which no `zsave` wrote may hold (R238). -/
def State.wildOp (s : State) : MatOp := { s.newMat 0 0 false [] none none with wild := true }

/-- The set that an accepted image of this MATRIXGEN loads: the one that it was written for where one of this train's `zsave`s wrote just
these bytes, and otherwise an operation of free effect on the train's tiles (R238). DESIGN CHOICE, safe (log 42). -/
def State.loadedSet (s : State) (image : List Byte) : List MatOp :=
  match s.t.x.images.find? fun i => i.bytes == image with
  | some i => i.ops
  | none => [s.wildOp]

/-- `zload` once its header has passed (R238). -/
def loadImage (va v : Nat) (s : State) : State :=
  let set := fun (s : State) ops lost => (s.onT fun t => { t with m := { t.m with ice := ops, lost := lost } }).done
  let n := natBits v 96 32
  if BitVec.ofNat 32 (natBits v 64 32) ≠ (s.myTeam.map Team.matrixGen).getD 0 then set s [] (some 1)
  else if natBits v 16 1 = 1 then set s [] s.t.m.lost
  else s.orRaise (s.imageTrap va n rightRead) fun s =>
    s.withRecord s.t.split.mask va n fun image s => set s (s.loadedSet image) s.t.m.lost

/-- `zload` (R238). DEDUCED, unsafe (log 40). -/
def execZload (k : Bool) (a : Fld) (s : State) : Host.Outcome State Fault Refusal :=
  word (.zload k a) true [.s a.toNat 0]
    (fun s =>
      let va := (s.t.s a).toNat
      s.orRaise (s.imageTrap va 64 rightRead) fun s =>
        s.withRecord s.t.split.mask va 64 fun b s =>
          let v := natOfBytes b
          if zHeaderBad v then s.stopTeam 3 0x19 0 (zVersionInfo v) s.t.pc else loadImage va v s) s

end Sys2Proof.Machine
end

