-- ==== Sys2Proof/Machine/Launch.lean ====
section
/-! DEFINITION. Launch records, their checks and acceptance, the resource check, and the placement of teams
(R121 to R137, R253, R254). -/
namespace Sys2Proof.Machine

/-- Role word k of a launch record (R122). -/
def readRole (w : Nat) : Role := ⟨natBits w 0 6, natBits w 6 5 * 8, natBits w 11 4 * 8, natBits w 15 5 * 8⟩

/-- A launch record's fields from its 1,280 bits (R122). -/
def readLaunch (v : Nat) : LaunchRec where
  after := (List.range 4).map fun k => natBits v (832 + 64 * k) 64
  gbar := (List.range 4).map fun k => natBits v (648 + 32 * k) 32
  cbar := (List.range 8).map fun k => natBits v (544 + 13 * k) 13
  tbar := (List.range 16).map fun k => natBits v (448 + 6 * k) 6
  roles := (List.range (natBits v 279 2 + 1)).map fun k => readRole (natBits v (320 + 32 * k) 32)
  obuf := natBits v 292 9 * 1024
  scratch := natBits v 281 11 * 256
  ztiles := natBits v 276 3
  prio := natBits v 274 2
  clh := natBits v 269 5
  clw := natBits v 264 5
  trains := natBits v 258 6
  width := 8 * 2 ^ natBits v 256 2
  constLen := natBits v 240 16 * 16
  gz := natBits v 224 16
  gy := natBits v 208 16
  gx := natBits v 192 16
  const := natBits v 128 56
  handler := natBits v 64 56
  entry := natBits v 0 56
  bits := v

/-- The reserved fields of a launch record, as (lowest bit, width) (R122). -/
def launchReserved : List (Nat × Nat) := [(1088, 192), (776, 56), (301, 19), (184, 8), (120, 8), (56, 8)]

/-- Are the reserved fields, those of the role words and the unused role words zero (R122, R123)? -/
def launchClean (v : Nat) : Bool :=
  (launchReserved.all fun f => natBits v f.1 f.2 = 0) &&
  (List.range 4).all fun k => natBits v (320 + 32 * k) 32 / (if k ≤ natBits v 279 2 then 2 ^ 20 else 1) = 0

/-- Is a role's budget within its ranges (R122)? -/
def Role.legal (r : Role) : Bool :=
  1 ≤ r.trains && r.trains ≤ 32 && 8 ≤ r.regs && r.regs ≤ 128 && r.uregs ≤ 64 && 8 ≤ r.preds && r.preds ≤ 128

/-- The number of teams of a grid. -/
def LaunchRec.teams (r : LaunchRec) : Nat := r.gx * r.gy * r.gz

/-- Is each field within the range of its layout (R122)? -/
def LaunchRec.fields (r : LaunchRec) : Bool :=
  r.obuf ≤ 262144 && r.scratch ≤ 393216 && r.ztiles ≤ 4 && 1 ≤ r.clh && r.clh ≤ 16 && 1 ≤ r.clw && r.clw ≤ 16 &&
  1 ≤ r.trains && r.trains ≤ 32 && r.constLen ≤ 65536 && 1 ≤ r.gx && 1 ≤ r.gy && 1 ≤ r.gz && r.roles.all Role.legal

/-- Are the fields within their ranges, with trains that add up (R122, R123)? -/
def LaunchRec.ranges (r : LaunchRec) : Bool :=
  r.fields && r.trains * r.width ≤ 1024 && (r.roles.map Role.trains).foldl (· + ·) 0 = r.trains

/-- Do the cluster and the barrier counts fit the grid (R123)? -/
def LaunchRec.shapes (r : LaunchRec) : Bool :=
  r.gx % r.clw = 0 && r.gy % r.clh = 0 && r.clw * r.clh ≤ 128 && r.tbar.all (· ≤ r.trains) &&
  r.cbar.all (· ≤ r.trains * r.clw * r.clh) && r.gbar.all (· ≤ r.trains * r.teams)

/-- Does no unused AFTER entry stand before a used one (R123)? -/
def afterOrder : List Nat → Bool
  | [] => true
  | a :: as => (a != 0 || as.all (· == 0)) && afterOrder as

/-- The conditions of R123 on the record alone. -/
def launchLegal (v : Nat) : Bool :=
  let r := readLaunch v
  launchClean v && r.ranges && r.shapes && afterOrder r.after

/-- The image whose text holds a packet address (R123). -/
def State.imageAt (s : State) (part pc : Nat) : Option Image :=
  if s.isPacket part pc then s.q.images.find? fun i => i.part = part && i.text ≤ pc && pc < i.text + i.textLen else none

/-- ENTRY, HANDLER and the constant range against the partition's images (R123). DEDUCED, safe (log 52). -/
def State.imagesOk (s : State) (part : Nat) (r : LaunchRec) : Bool :=
  match s.imageAt part r.entry with
  | none => false
  | some i => (r.handler = 0 || s.isPacket part r.handler) &&
      i.consts.any fun c => c.1 ≤ r.const && r.const + r.constLen ≤ c.1 + c.2

/-- A number that a partition may name as a dependence (R123, R365). -/
def State.afterOk (s : State) (part : Nat) (as : List Nat) : Bool :=
  as.length ≤ 4 && afterOrder as && as.all fun a => a = 0 || (a < s.q.nextSeq && s.q.issuedBy.contains (a, part))

/-- A team's claim on a core: its record, the next-quarter pointer before it was placed, and whether it is its cluster's rank 0. -/
structure Load where
  r      : LaunchRec
  ptr    : Nat
  anchor : Bool
  deriving DecidableEq, Repr

/-- A core as the resource check sees it. -/
structure CoreView where
  core  : Nat
  loads : List Load
  ptr   : Nat
  deriving DecidableEq, Repr

/-- The role of train `t`, with its number (R134). -/
def roleOf : List Role → Nat → Nat → Nat × Role
  | [], _, n => (n, ⟨0, 0, 0, 0⟩)
  | r :: rs, t, n => if t < r.trains then (n, r) else roleOf rs (t - r.trains) (n + 1)

/-- What a team needs of quarter `q`: lane register words, lanes, train slots, uniform registers, predicate bits (R129, R134). -/
def Load.quarter (l : Load) (q : Nat) : List Nat :=
  ((List.range l.r.trains).filter fun t => (l.ptr + t) % 4 = q).foldl (fun acc t =>
    let role := (roleOf l.r.roles t 0).2
    List.zipWith (· + ·) acc [l.r.width * role.regs, l.r.width, 1, role.uregs, l.r.width * role.preds]) [0, 0, 0, 0, 0]

/-- What a team needs of its core: scratchpad, operand buffer, accumulator store, team and cluster barrier slots (R129). -/
def Load.whole (l : Load) : List Nat :=
  [l.r.scratch, l.r.obuf, l.r.trains * l.r.ztiles * l.r.width * 128, (l.r.tbar.filter (· != 0)).length,
    if l.anchor then (l.r.cbar.filter (· != 0)).length else 0]

/-- The capacities of a quarter and of a core (R129). -/
def quarterCaps : List Nat := [32768, 256, 32, 2048, 32768]
def coreCaps : List Nat := [393216, 262144, 262144, 64, 16]

/-- Sum of needs, within capacity? -/
def within (caps : List Nat) (needs : List (List Nat)) : Bool :=
  ((needs.foldl (List.zipWith (· + ·)) (caps.map fun _ => 0)).zip caps).all fun p => p.1 ≤ p.2

/-- The resource check (R129). -/
def CoreView.fits (v : CoreView) (r : LaunchRec) (anchor : Bool) : Bool :=
  let ls := v.loads ++ [⟨r, v.ptr, anchor⟩]
  ((List.range 4).all fun q => within quarterCaps (ls.map fun l => l.quarter q)) && within coreCaps (ls.map Load.whole)

/-- A team is placed on the core (R134). -/
def CoreView.put (v : CoreView) (r : LaunchRec) (anchor : Bool) : CoreView :=
  { v with loads := v.loads ++ [⟨r, v.ptr, anchor⟩], ptr := (v.ptr + r.trains) % 4 }

/-- A partition's cores, ascending, without those withdrawn (R10, R38). -/
def State.coresOf (s : State) (p : Part) : List Nat :=
  ((List.range p.h).map fun j => (List.range p.w).map fun i => (p.y + j) * 16 + p.x + i).flatten.filter fun c => !(s.core c).failed

/-- The claim of a team that stands on a core. -/
def State.loadOf (s : State) (m : Team) : Option Load :=
  (s.grid m.grid).map fun g => ⟨g.launch, m.ptr, m.rank = 0⟩

/-- The cores of a partition as they stand, but for the teams of `gone`; a core held for another grid takes no team (R141). -/
def State.views (s : State) (p : Part) (who : Nat) (gone : List (Nat × Nat)) : List CoreView :=
  ((s.coresOf p).filter fun c => match (s.core c).held with
    | some g => g = who
    | none => true).map fun c =>
    ⟨c, (s.d.teams.filter fun m => m.life = .placed && m.core = c && !gone.contains (m.grid, m.idx)).filterMap s.loadOf,
      (s.core c).quarter⟩

/-- The partition with no other work (R133). -/
def State.emptyViews (s : State) (p : Part) : List CoreView := (s.coresOf p).map fun c => ⟨c, [], 0⟩

/-- The cores of the rectangle with this anchor, by rank (R131). -/
def rectangle (clw clh x y : Nat) : List Nat :=
  ((List.range clh).map fun j => (List.range clw).map fun i => (y + j) * 16 + x + i).flatten

/-- Does a cluster fit this rectangle? -/
def clusterFits (vs : List CoreView) (r : LaunchRec) (cs : List Nat) : Bool :=
  cs.zipIdx.all fun (c, rank) => match vs.find? fun v => v.core = c with
    | some v => v.fits r (rank = 0)
    | none => false

/-- The core or the rectangle for the next cluster: the scan of R130 from the core after the last, or the raster scan of R131. -/
def findPlace (p : Part) (last : Option Nat) (vs : List CoreView) (r : LaunchRec) : Option (List Nat) :=
  if r.clw * r.clh = 1 then
    let after := fun (v : CoreView) => match last with
      | some l => decide (l < v.core)
      | none => true
    let order : List CoreView := vs.filter after ++ vs.filter fun v => !after v
    (order.find? fun v => v.fits r true).map fun v => [v.core]
  else
    let anchors := ((List.range p.h).map fun j => (List.range p.w).map fun i => (i, j)).flatten.filter fun a =>
      a.1 + r.clw ≤ p.w && a.2 + r.clh ≤ p.h
    (anchors.map fun a => rectangle r.clw r.clh (p.x + a.1) (p.y + a.2)).find? (clusterFits vs r)

/-- Put a cluster on its cores. -/
def putCluster (vs : List CoreView) (r : LaunchRec) (cs : List Nat) : List CoreView :=
  vs.map fun v => match cs.findIdx? (· == v.core) with
    | some rank => v.put r (rank = 0)
    | none => v

/-- Places for `n` clusters, one after another; the core of a cluster's highest rank is the one that last received a team (R130, R131).
DEDUCED, safe (log 115). -/
def planClusters (p : Part) (r : LaunchRec) : Nat → Option Nat → List CoreView → Option (List (List Nat))
  | 0, _, _ => some []
  | n + 1, last, vs =>
    match findPlace p last vs r with
    | none => none
    | some cs =>
      (planClusters p r n cs.getLast? (putCluster vs r cs)).map fun more => cs :: more

/-- Clusters of a grid. -/
def LaunchRec.clusters (r : LaunchRec) : Nat := (r.gx / r.clw) * (r.gy / r.clh) * r.gz

/-- Is a grid placed whole (R132)? -/
def LaunchRec.whole (r : LaunchRec) : Bool := r.gbar.any (· != 0)

/-- Could the grid be placed on the partition with no other work (R133)? DEDUCED, safe (log 53). -/
def State.placeable (s : State) (p : Part) (r : LaunchRec) : Bool :=
  (planClusters p r (if r.whole then r.clusters else 1) none (s.emptyViews p)).isSome &&
  (r.gbar.filter (· != 0)).length ≤ Config.gridBarrierSlots

/-- The grids that hold a place in a launch queue (R125). DEDUCED, safe (log 55). -/
def State.queued (s : State) (queue : Nat) : Nat := (s.d.grids.filter fun g => g.queue = queue && g.life = .queued).length

/-- The check of a launch for a partition's queue (R123, R133): the status. DEDUCED, safe (log 51). -/
def State.checkLaunch (s : State) (part queue v : Nat) : Nat :=
  let r := readLaunch v
  match s.part part with
  | none => 0x02
  | some p =>
    if !launchLegal v || r.prio ≠ queue / 4 || !s.imagesOk part r || !s.afterOk part r.after then 0x01
    else if Config.eventEntries ≤ s.q.events.length || Config.queueEntries ≤ s.queued queue then 0x03
    else if !s.placeable p r then 0x06
    else 0x00

/-- Give out the next sequence number (R124). -/
def State.newSeq (s : State) (part : Nat) (event : Bool) : State :=
  let n := s.q.nextSeq
  { s with q := { s.q with
      nextSeq := n + 1, issuedBy := s.q.issuedBy ++ [(n, part)],
      events := if event then s.q.events ++ [⟨n, part, none, none⟩] else s.q.events } }

/-- An accepted grid takes its number and its place in its queue (R123 to R125). -/
def State.acceptGrid (s : State) (part queue image : Nat) (r : LaunchRec) (parent : Option Nat) (batch : Nat) : State :=
  let g : Grid := ⟨s.q.nextSeq, part, queue, image, r, .queued, 0, 0, [], false, false, [], parent, batch, false⟩
  let s := s.newSeq part parent.isNone
  { s with d := { s.d with grids := s.d.grids ++ [g] } }

/-- Has the work of this number completed (R126)? A freed event counts as complete. -/
def State.completed (s : State) (seq : Nat) : Bool :=
  (match s.q.events.find? fun e => e.seq = seq with
   | some e => e.status.isSome
   | none => true) &&
  (match s.grid seq with
   | some g => g.life = .complete
   | none => true)

/-- Is a queued grid ready (R56, R126)? -/
def State.ready (s : State) (g : Grid) : Bool :=
  g.launch.after.all (fun a => a = 0 || s.completed a) &&
  (match s.q.images.find? fun i => i.part = g.part && i.num = g.image with
   | some i => s.completed i.seq
   | none => true) &&
  s.d.grids.all fun h => h.seq = g.seq || h.part != g.part || h.queue != g.queue || g.seq < h.seq || h.life != .queued

/-- A grid's priority: its queue's (R125, R258). -/
def Grid.prio (g : Grid) : Nat := g.queue / 4

/-- May a grid of priority `prio` have this team vacated (R141)? -/
def State.mayVacate (s : State) (part prio : Nat) (m : Team) : Bool :=
  m.life = .placed && !m.stopped && (match s.grid m.grid with
    | some g => g.part = part && g.prio < prio && !g.launch.whole && g.launch.handler ≠ 0
    | none => false)

/-- Is a core being vacated: is it held for a grid for which a team on it has to go (R141, R259)? -/
def State.vacatingCore (s : State) (core : Nat) : Bool :=
  match ((s.core core).held).bind s.grid with
  | none => false
  | some g => s.d.teams.any fun m => m.core = core && s.mayVacate g.part g.prio m

/-- Has the grid clusters to deal? -/
def Grid.undealt (g : Grid) : Bool := !g.back.isEmpty || g.dealt < g.launch.clusters

/-- Is grid `a` chosen before grid `b`: higher priority first; of equal priority the started ones first, in the order in which they
started, so that the current grid stays current; then ready heads in round-robin order over their queues (R127)? DEDUCED, safe (log 54). -/
def dealsFirst (robin : List Nat) (a b : Grid) : Bool :=
  let wait := fun (g : Grid) => if g.life = .queued then 2 ^ 64 + (g.queue + 15 - robin.getD g.prio 0) % 16 else g.turn
  b.prio < a.prio || (a.prio = b.prio && (wait a < wait b || (wait a = wait b && a.seq < b.seq)))

/-- Insert a grid into the order of choice. -/
def insertGrid (robin : List Nat) (g : Grid) : List Grid → List Grid
  | [] => [g]
  | h :: hs => if dealsFirst robin g h then g :: h :: hs else h :: insertGrid robin g hs

/-- The grids of a partition that have something to deal, in the order of choice (R127). -/
def State.dealOrder (s : State) (p : Part) : List Grid :=
  (s.d.grids.filter fun g => g.part = p.num && g.undealt && (g.life = .started || (g.life = .queued && s.ready g))).foldl
    (fun acc g => insertGrid p.robin g acc) []

/-- The frames that a team needs: a granule for each lane's private space, and its area when it has a handler (R59, R196). -/
def LaunchRec.teamGranules (r : LaunchRec) : Nat := r.trains * r.width + (if r.handler = 0 then 0 else areaBytes / 65536)

/-- What is dealt next: new clusters, one core list each, or a vacated cluster again. -/
inductive Deal where
  | fresh (places : List (List Nat))
  | again (cluster : Nat) (cores : List Nat)
  deriving DecidableEq, Repr

/-- Slots of grid barriers in use (R129, R132). -/
def State.gridSlots (s : State) : Nat := (s.d.bars.filter fun b => b.key.level = 2).length

/-- The clusters that are dealt together: one, or all of a grid placed whole (R132). -/
def LaunchRec.dealt (r : LaunchRec) : Nat := if r.whole then r.clusters else 1

/-- The frames that dealing a grid's next clusters takes: those of their teams; a switched-out cluster's to make its pages ready (R59, R192,
R196, R367). -/
def State.dealFrames (s : State) (g : Grid) : Nat :=
  let r := g.launch
  match g.back with
  | k :: _ => (((s.d.teams.filter fun m => m.grid = g.seq && m.cluster = k).map Team.awaits).flatten.filter fun a =>
      s.m.tierOf a == some .deep).length
  | [] => r.dealt * r.clw * r.clh * r.teamGranules

/-- Places for a grid's next cluster, or for all of a grid placed whole (R130 to R132, R142, R367). A switched-out cluster also needs its
pages ready, or frames to make them so (R192). -/
def State.dealOf (s : State) (p : Part) (g : Grid) : Option Deal :=
  let r := g.launch
  let vs := s.views p g.seq []
  if s.freeFrames p.num < s.dealFrames g then none
  else match g.back with
  | k :: _ => (findPlace p p.lastCore vs r).map fun cs => .again k cs
  | [] =>
    if r.whole && Config.gridBarrierSlots < s.gridSlots + (r.gbar.filter (· != 0)).length then none
    else (planClusters p r r.dealt p.lastCore vs).map .fresh

/-- The first grid in the order of choice that can be dealt. Below a grid placed whole that waits, none of lower priority is (R127,
R132). -/
def State.firstDeal (s : State) (p : Part) : List Grid → Nat → Option (Grid × Deal)
  | [], _ => none
  | g :: gs, block =>
    if g.prio < block then s.firstDeal p gs block
    else match s.dealOf p g with
      | some d => some (g, d)
      | none => s.firstDeal p gs (if g.launch.whole then max block g.prio else block)

/-- What the distributor deals next in a partition. -/
def State.nextDeal (s : State) (part : Nat) : Option (Grid × Deal) :=
  match s.part part with
  | none => none
  | some p => s.firstDeal p (s.dealOrder p) 0

/-- The linear index of the team of rank `rank` in the cluster whose rank-0 team is `k` (R128). -/
def teamIndex (r : LaunchRec) (k rank : Nat) : Nat := k + rank % r.clw + r.gx * (rank / r.clw)

/-- The index of the `n`-th cluster in distribution order (R128). -/
def clusterIndex (r : LaunchRec) (n : Nat) : Nat :=
  let cx := r.gx / r.clw
  let cy := r.gy / r.clh
  n % cx * r.clw + r.gx * (n / cx % cy * r.clh + r.gy * (n / (cx * cy)))

/-- The registers v0 to v5 of a yard train (R254). -/
def yardRegs (b : Batch) (ls : List (Nat × Nat × Nat)) : Sparse Word :=
  ls.foldl (fun v x =>
    let (l, i, k) := x
    let ra := b.set.rays + 64 * i
    let ro := b.set.routes + 256 * i
    [i, k, ra, ra / 2 ^ 32, ro, ro / 2 ^ 32].zipIdx.foldl (fun v p => Table.set 0 v (p.2 * 64 + l) (BitVec.ofNat 32 p.1)) v) []

/-- A yard train's part of its batch (R254, R255). -/
def State.yardJob (s : State) (b : Batch) (ls : List (Nat × Nat × Nat)) : YardJob :=
  ⟨b.kind, if b.kind = 1 then ls.filterMap fun x => (s.ray b.set.addr b.set.part x.2.1).bind fun r =>
      (r.cands.find? fun c => c.slot = x.2.2).map fun c => (x.1, [BitVec.ofNat 32 x.2.1, c.t, c.prim, c.bary]) else [], []⟩

/-- The free train slots of a core's quarter, ascending (R129, R138). -/
def State.freeSlots (s : State) (core quarter : Nat) : List Nat :=
  (List.range 32).filter fun n => !(s.trains.any fun t => (t.life = .running || t.life = .ending) && t.core = core &&
    t.quarter = quarter && t.seat = n)

/-- The slot of train `t` of a team that is placed: every fourth train goes to the same quarter (R134). DESIGN CHOICE, safe (log 116). -/
def State.slotFor (s : State) (core ptr t : Nat) : Nat := (s.freeSlots core ((ptr + t) % 4)).getD (t / 4) 0

/-- Train `t` of a team placed on a core (R134, R135, R254). -/
def State.newTrain (s : State) (g : Grid) (idx core ptr t : Nat) : Train :=
  let r := g.launch
  let (k, role) := roleOf r.roles t 0
  let all := below r.width
  let base := { Train.vacant with
    i := ⟨s.nextTrain + t, g.part, g.seq, idx, t, k, r.width, role.regs, role.uregs, role.preds, r.ztiles, BitVec.ofNat 64 r.handler⟩,
    life := .running, core := core, quarter := (ptr + t) % 4, seat := s.slotFor core ptr t }
  let start := fun (m : Mask) => { Div.reset with
    slot0 := Split.fresh (BitVec.ofNat 64 r.entry) m (BitVec.ofNat 64 r.entry) 0 0, exited := all &&& ~~~m }
  match s.batchOf g with
  | none => { base with d := start all }
  | some b =>
    let ls := batchLanes b t r.width
    let m := maskOf (ls.map Prod.fst) fun _ => true
    { base with d := start m, r := { Regs.reset with v := yardRegs b ls }, y := s.yardJob b ls }

/-- Barriers of a level that a record declares (R165). -/
def declared (level grid owner : Nat) (counts : List Nat) : List Bar :=
  counts.zipIdx.filterMap fun (n, i) => if n = 0 then none else some (Bar.start ⟨level, grid, owner, i⟩ n)

/-- One team is placed on a core for the first time (R130 to R136, R196). Its header says *not saved*. -/
def State.placeTeam (s : State) (g : Grid) (idx cluster rank core : Nat) : State :=
  let r := g.launch
  let ptr := (s.core core).quarter
  let area := if r.handler = 0 then 0 else s.freshVa g.part areaBytes 65536
  let s := if r.handler = 0 then s else (s.holdPages g.part area areaBytes 3 true).1
  let (s, gs) := s.takeHidden g.part (r.trains * r.width)
  let team : Team := ⟨g.seq, idx, .placed, core, rank, cluster, [], [], [], [], 0, area, 0, false, gs, [], ptr⟩
  let ts := (List.range r.trains).map fun t => s.newTrain g idx core ptr t
  let s := { s with
    nextTrain := s.nextTrain + r.trains,
    rest := s.rest ++ ts,
    d := { s.d with teams := s.d.teams ++ [team],
                    bars := s.d.bars ++ declared 0 g.seq idx r.tbar ++ (if rank = 0 then declared 1 g.seq idx r.cbar else []) } }
  let s := s.onCore core fun c => { c with quarter := (ptr + r.trains) % 4 }
  let s := s.writeHeader g.part g.seq idx 0 0 0
  (ts.filter fun t => t.live = 0).foldl (fun (u : State) t => u.withTrain t.i.id fun w => (w.onT fun t => { t with life := .ending }).tryEnd) s

/-- The grid has started, and if it was a queue's head then its queue has been served; `core` last received a team; its cores are held no
more (R124, R127, R130, R141). -/
def State.served (s : State) (g : Grid) (core : Option Nat) : State :=
  let head := g.life = .queued
  let turn := ((s.d.grids.filter fun h => h.part = g.part).map Grid.turn).foldl max 0 + 1
  let s := s.onGrid g.seq fun g => { g with life := .started, turn := if head then turn else g.turn, resumed := false }
  let s := s.onPart g.part fun p =>
    { p with lastCore := core <|> p.lastCore, robin := p.robin.zipIdx.map fun (q, i) => if head && i = g.prio then g.queue else q }
  (s.d.cores.map Prod.fst).foldl (fun (u : State) c => u.onCore c fun x => if x.held = some g.seq then { x with held := none } else x) s

/-- The grid's next cluster is placed (R131). -/
def State.placeCluster (s : State) (seq : Nat) (cs : List Nat) : State :=
  match s.grid seq with
  | none => s
  | some g =>
    let k := clusterIndex g.launch g.dealt
    let s := cs.zipIdx.foldl (fun (u : State) (c, rank) => u.placeTeam g (teamIndex g.launch k rank) k rank c) s
    (s.onGrid seq fun g => { g with dealt := g.dealt + 1 }).served g cs.getLast?

/-- TEAM_DEAL: the distributor deals a partition's next new cluster, or all of a grid placed whole (R127 to R136). Subject: partition. -/
def execTeamDeal (s : State) : Host.Outcome State Fault Refusal :=
  match s.nextDeal s.subject.a with
  | some (g, .fresh places) =>
    let s := if g.launch.whole && g.dealt = 0 then { s with d := { s.d with bars := s.d.bars ++ declared 2 g.seq 0 g.launch.gbar } } else s
    .next (places.foldl (fun (u : State) cs => u.placeCluster g.seq cs) s)
  | _ => .next s

end Sys2Proof.Machine
end

