-- ==== Sys2Proof/Machine/Geometry.lean ====
section
/-! DEFINITION. The exact tests of the traversal unit: the slab test of a box and the triangle test (R243 to R246). -/
namespace Sys2Proof.Machine

/-- A vector of three exact numbers. -/
structure Vec where
  x : Dyadic
  y : Dyadic
  z : Dyadic
  deriving DecidableEq, Repr

/-- a − b. -/
def Vec.sub (a b : Vec) : Vec := ⟨a.x.sub b.x, a.y.sub b.y, a.z.sub b.z⟩
/-- a · b. -/
def Vec.dot (a b : Vec) : Dyadic := (a.x.mul b.x).add ((a.y.mul b.y).add (a.z.mul b.z))
/-- a × b. -/
def Vec.cross (a b : Vec) : Vec :=
  ⟨(a.y.mul b.z).sub (a.z.mul b.y), (a.z.mul b.x).sub (a.x.mul b.z), (a.x.mul b.y).sub (a.y.mul b.x)⟩

/-- An f32 word as an exact number, when it is finite. -/
def finite32 (w : Nat) : Option Dyadic :=
  match decodeF f32 w with
  | .fin n m e => some (FVal.fin n m e).dy
  | _ => none

/-- Three f32 words from bit `at_` of a record, the lowest first. -/
def readVec (v at_ : Nat) : Option Vec :=
  match finite32 (natBits v at_ 32), finite32 (natBits v (at_ + 32) 32), finite32 (natBits v (at_ + 64) 32) with
  | some x, some y, some z => some ⟨x, y, z⟩
  | _, _, _ => none

/-- A quotient of exact numbers with a positive denominator. -/
structure Quot2 where
  n : Dyadic
  d : Dyadic
  deriving DecidableEq, Repr

/-- n ÷ d for d ≠ 0. -/
def quot2 (n d : Dyadic) : Quot2 := if d.m < 0 then ⟨n.neg, d.neg⟩ else ⟨n, d⟩
/-- a < b. -/
def Quot2.lt (a b : Quot2) : Bool := (a.n.mul b.d).lt (b.n.mul a.d)
/-- The greater and the lesser of two. -/
def Quot2.max (a b : Quot2) : Quot2 := if a.lt b then b else a
def Quot2.min (a b : Quot2) : Quot2 := if b.lt a then b else a
/-- RND_FMT of a quotient. -/
def Quot2.round (q : Quot2) (f : FFmt) (mode : RMode) : Nat :=
  if q.n.m = 0 then 0 else (roundRat f mode (decide (q.n.m < 0)) q.n.m.natAbs q.d.m.natAbs (q.n.e - q.d.e)).1

/-- A ray record's fields for a call (R239). -/
structure RayRec where
  org      : Option Vec
  tmin     : Word
  dir      : Option Vec
  tmax     : Word
  flags    : Nat
  mask     : Nat
  hitgroup : Nat
  next     : Nat
  closest  : Word
  bary     : Word
  status   : Nat
  deriving DecidableEq, Repr

/-- Read a ray record's 512 bits (R239). -/
def readRay (v : Nat) : RayRec where
  org := readVec v 0
  tmin := BitVec.ofNat 32 (natBits v 96 32)
  dir := readVec v 128
  tmax := BitVec.ofNat 32 (natBits v 224 32)
  flags := natBits v 256 16
  mask := natBits v 272 8
  hitgroup := natBits v 280 8
  next := natBits v 288 32
  closest := BitVec.ofNat 32 (natBits v 320 32)
  bary := BitVec.ofNat 32 (natBits v 352 32)
  status := natBits v 416 32

/-- FLAGS bits (R240). -/
def RayRec.opaque_ (r : RayRec) : Bool := r.flags.testBit 0
def RayRec.first (r : RayRec) : Bool := r.flags.testBit 1
def RayRec.cullBack (r : RayRec) : Bool := r.flags.testBit 2
def RayRec.cullFront (r : RayRec) : Bool := r.flags.testBit 3

/-- An f32 word's value. -/
def val32 (w : Word) : FVal := decodeF f32 w.toNat
/-- a ≤ b, false for a NaN. -/
def le32 (a b : FVal) : Bool := ltF a b || eqF a b

/-- One axis of a slab test: the entry and exit distances, none where the ray runs along the slab inside it; the flag says that it
runs along it outside. -/
def slabAxis (org dir lo hi : Dyadic) : Option (Quot2 × Quot2) × Bool :=
  if dir.m = 0 then (none, org.lt lo || hi.lt org)
  else
    let a := quot2 (lo.sub org) dir
    let b := quot2 (hi.sub org) dir
    (some (a.min b, a.max b), false)

/-- A slab test: the entry distance, if an axis gives one, and whether the ray meets the box within [TMIN, TMAX] (R246). -/
def slab (r : RayRec) (org dir lo hi : Vec) : Option Quot2 × Bool :=
  let axes := [slabAxis org.x dir.x lo.x hi.x, slabAxis org.y dir.y lo.y hi.y, slabAxis org.z dir.z lo.z hi.z]
  let ins := axes.filterMap fun a => a.1.map Prod.fst
  let outs := axes.filterMap fun a => a.1.map Prod.snd
  let enter := ins.foldl (fun (m : Option Quot2) q => some (match m with
    | none => q
    | some p => p.max q)) none
  let out := outs.foldl (fun (m : Option Quot2) q => some (match m with
    | none => q
    | some p => p.min q)) none
  let le := fun (a : Quot2) (w : FVal) => match w with
    | .fin n m e => !((⟨(FVal.fin n m e).dy, Dyadic.ofInt 1⟩ : Quot2).lt a)
    | .inf n => !n
    | .nan _ => true
  let ge := fun (a : Quot2) (w : FVal) => match w with
    | .fin n m e => !(a.lt ⟨(FVal.fin n m e).dy, Dyadic.ofInt 1⟩)
    | .inf n => n
    | .nan _ => true
  let meets := !(axes.any Prod.snd) &&
    (match enter, out with
     | some a, some b => !(b.lt a) && le a (val32 r.tmax) && ge b (val32 r.tmin)
     | _, _ => true) && !(ltF (val32 r.tmax) (val32 r.tmin))
  (enter, meets)

/-- DIST of a box: RND_FMT(max(TMIN, t_enter), bf16, RD) (R246). -/
def boxDist (r : RayRec) (enter : Option Quot2) : Nat :=
  let own := (convertF bf16 .rd (val32 r.tmin)).1
  match enter, val32 r.tmin with
  | some q, .fin n m e => if (⟨(FVal.fin n m e).dy, Dyadic.ofInt 1⟩ : Quot2).lt q then q.round bf16 .rd else own
  | some q, .inf true => q.round bf16 .rd
  | _, _ => own

/-- A hit that a call finds (R245). -/
structure Hit where
  t      : Word
  prim   : Word
  bary   : Word
  kind   : Nat
  solid  : Bool
  deriving DecidableEq, Repr

/-- The triangle test of one slot's 352 bits (R244, R245): exact, by Cramer's rule. Operands that are not finite give no point. DEDUCED, unsafe (log 65). DEDUCED, unsafe (log 67). -/
def triangle (r : RayRec) (slot : Nat) : Option Hit :=
  let tflags := natBits slot 320 32
  if !tflags.testBit 1 || natBits tflags 8 8 &&& r.mask = 0 then none
  else match readVec slot 0, readVec slot 96, readVec slot 192, r.org, r.dir with
    | some v0, some v1, some v2, some org, some dir =>
      let e1 := v1.sub v0
      let e2 := v2.sub v0
      let o := org.sub v0
      let n := e1.cross e2
      let d := dir.dot n
      if d.m = 0 then none
      else
        let u := quot2 (dir.dot (o.cross e2)) d
        let v := quot2 (dir.dot (e1.cross o)) d
        let t := quot2 (o.dot n).neg d
        let front := decide (d.m < 0)
        if u.n.m < 0 || v.n.m < 0 || u.d.lt (u.n.add v.n) then none
        else if (if front then r.cullFront else r.cullBack) then none
        else
          let tw := BitVec.ofNat 32 (t.round f32 .rne)
          if !le32 (val32 r.tmin) (val32 tw) then none
          else some ⟨tw, BitVec.ofNat 32 (natBits slot 288 32), BitVec.ofNat 32 (u.round h16 .rne + v.round h16 .rne * 65536),
            if front then 1 else 2, tflags.testBit 0⟩
    | _, _, _, _, _ => none

end Sys2Proof.Machine
end

