-- ==== Sys2Proof/Machine/Yard.lean ====
section
/-! DEFINITION. The yard: scenes, stations, calls and their ends, candidates and verdicts, batches (R241 to R260). -/
namespace Sys2Proof.Machine

/-- Read `n` bytes of a partition's global space for the yard, page by page, as a number. -/
def State.peekNat (s : State) (part va n : Nat) : Nat := natOfBytes ((pageSpans va n).map fun p => s.m.deviceRead part p.1 p.2).flatten

/-- The yard's reads of these ranges meet their uncorrectable words (R74); a poisoned one is then read as it stands. DEDUCED, unsafe
(log 64). -/
def State.yardMeet (s : State) (part : Nat) (ranges : List (Nat × Nat)) : State :=
  { s with m := ranges.foldl (fun (m : Store) r => m.meetRange part r.1 r.2) s.m }

/-- The lines that a range of a partition's global space lies in, by their unified addresses. -/
def State.rangeLines (s : State) (part va n : Nat) : List Nat :=
  (List.range ((va % 256 + n + 255) / 256)).filterMap fun i => s.m.translate part (va / 256 * 256 + 256 * i)

/-- What the yard is to read and to write meets the tier map; the flag says that all of it can be served now, otherwise the yard waits: for a
line to be pulled, or for a frame (R69, R70). -/
def State.yardReach (s : State) (part : Nat) (reads writes : List (Nat × Nat)) : State × Bool :=
  let of := fun (w : Bool) (rs : List (Nat × Nat)) => ((rs.map fun r => s.rangeLines part r.1 r.2).flatten).map fun ua => (ua, w)
  let places := of false reads ++ of true writes
  match s.meetPlaces places with
  | (u, ok) => (u, ok && places.all fun p => u.servable p.1 p.2)

/-- May the yard read, or write, every byte of a range? A remote window will not do (R249). -/
def State.yardMay (s : State) (part va n : Nat) (write : Bool) : Bool :=
  [va, va + n - 1].all fun a => a < 2 ^ 56 && match s.m.mapping part a with
    | some p => hasRight p.rights rightRead && (!write || hasRight p.rights rightWrite) && !p.area
    | none => false

/-- Is this a scene of the partition (R242)? -/
def State.isScene (s : State) (part scene : Nat) : Bool := s.q.images.any fun i => i.part = part && i.scenes.contains scene

/-- A station of a scene: its node address and bytes, when it is defined (R242). -/
def State.stationAt (s : State) (part scene st : Nat) : Option (Nat × Nat) :=
  if st < natBits (s.peekNat part scene 64) 0 16 then
    let e := s.peekNat part (scene + 64 + 16 * st) 16
    if e.testBit 96 then some (natBits e 0 56, natBits e 64 32) else none
  else none

/-- A route entry: DIST and STATION (R241). -/
structure Hop where
  dist    : Nat
  station : Nat
  deriving DecidableEq, Repr

/-- The numerical order of route entries: (DIST, STATION) ascending (R241). -/
def Hop.before (a b : Hop) : Bool :=
  let x := decodeF bf16 a.dist
  let y := decodeF bf16 b.dist
  ltF x y || (!ltF y x && a.station < b.station)

/-- Insert into a route in order. -/
def insertHop (h : Hop) : List Hop → List Hop
  | [] => [h]
  | x :: xs => if h.before x then h :: x :: xs else x :: insertHop h xs

/-- Insert a station into a route; one already there keeps the smaller DIST; the flag says that a 17th entry was needed (R246). -/
def addHop (h : Hop) (route : List Hop) : List Hop × Bool :=
  match route.find? fun x => x.station = h.station with
  | some x =>
    if ltF (decodeF bf16 h.dist) (decodeF bf16 x.dist) then (insertHop h (route.filter fun x => x.station != h.station), false)
    else (route, false)
  | none => if 16 ≤ route.length then (route, true) else (insertHop h route, false)

/-- A candidate entry's 96 bits (R241). -/
def packCand (t prim bary : Word) : Nat := bary.toNat * 2 ^ 64 + prim.toNat * 2 ^ 32 + t.toNat

/-- The floor entry that a route record holds in slot 15 (R249, R256). -/
structure Floor where
  t    : Word
  prim : Word
  deriving DecidableEq, Repr

/-- A route record's bits from its entries (R241). -/
def packRoute (route : List Hop) (cands : List Cand) (floor : Option Floor) : Nat :=
  let hop := fun i => match route[i]? with
    | some h => h.dist * 65536 + h.station
    | none => 0xFFFFFFFF
  let cand := fun i => match cands.find? fun c => c.slot = i with
    | some c => packCand c.t c.prim c.bary
    | none => match floor with
      | some f => if i = 15 then packCand f.t f.prim 0xFFFFFFFF else packCand 0 0xFFFFFFFF 0
      | none => packCand 0 0xFFFFFFFF 0
  ((List.range 16).foldl (fun acc i => acc + hop i * 2 ^ (32 * i)) 0) +
  (List.range 16).foldl (fun acc i => acc + cand i * 2 ^ (512 + 96 * i)) 0

/-- The route that a record's bits hold: its entries that are not empty, in order (R241). -/
def readRoute (v : Nat) : List Hop :=
  (List.range 16).foldl (fun acc i =>
    let w := natBits v (32 * i) 32
    if w = 0xFFFFFFFF then acc else insertHop ⟨w / 65536, w % 65536⟩ acc) []

/-- The floor that a record's bits hold (R256). -/
def readFloor (v : Nat) : Option Floor :=
  let e := natBits v (512 + 96 * 15) 96
  if natBits e 64 32 = 0xFFFFFFFF ∧ natBits e 32 32 ≠ 0xFFFFFFFF then some ⟨BitVec.ofNat 32 (natBits e 0 32), BitVec.ofNat 32 (natBits e 32 32)⟩
  else none

/-- A hit's key (R245). -/
structure HitKey where
  t       : Word
  station : Nat
  prim    : Nat
  deriving DecidableEq, Repr

/-- Keys are ordered lexicographically (R245). -/
def HitKey.lt (a b : HitKey) : Bool :=
  ltF (val32 a.t) (val32 b.t) || (eqF (val32 a.t) (val32 b.t) && (a.station < b.station || (a.station = b.station && a.prim < b.prim)))

/-- The closest key of a record; none when CLOSEST is none (R239, R245). -/
def RayRec.key (r : RayRec) : Option HitKey :=
  if r.closest = 0xFFFFFFFF then none else some ⟨r.tmax, natBits r.status 16 16, r.closest.toNat⟩

/-- May a hit with this key become closest (R245)? -/
def RayRec.takes (r : RayRec) (k : HitKey) : Bool :=
  match r.key with
  | some c => k.lt c
  | none => le32 (val32 k.t) (val32 r.tmax)

/-- STATUS with another STATE (R240). -/
def withState (status st : Nat) : Nat := status / 256 * 256 + st
/-- STATUS with another KIND. -/
def withKind (status k : Nat) : Nat := status / 65536 * 65536 + natBits status 12 4 * 4096 + k * 256 + status % 256

/-- A hit becomes the closest: TMAX, CLOSEST, BARY, HITSTATION and KIND (R252). -/
def RayRec.take (r : RayRec) (t prim bary : Word) (station kind : Nat) : RayRec :=
  { r with tmax := t, closest := prim, bary := bary, status := withKind (station % 65536 * 65536 + r.status % 65536) kind }

/-- One candidate or hit, if its key is below the closest, becomes the closest. -/
def RayRec.offer (r : RayRec) (t prim bary : Word) (station kind : Nat) : RayRec :=
  if r.takes ⟨t, station, prim.toNat⟩ then r.take t prim bary station kind else r

/-- What a call has found for a ray so far: the nodes reached, with the kind that reached them (1 box, 2 leaf), the route, whether it
overflowed, and the hits. -/
structure Tour where
  reached : List (Nat × Nat)
  route   : List Hop
  overflowed    : Bool
  hits    : List Hit
  deriving DecidableEq, Repr

/-- One child of a box node: its bounds, and its link's kind and target. -/
def boxChild (node i : Nat) : Option (Vec × Vec) :=
  match readVec node 0 with
  | none => none
  | some o =>
    let q := fun k => natBits node (128 + 48 * i + 8 * k) 8
    let e := fun a => (BitVec.ofNat 8 (natBits node (96 + 8 * a) 8)).toInt
    let at_ := fun (b : Dyadic) a k => b.add ⟨(q k : Int), e a⟩
    some (⟨at_ o.x 0 0, at_ o.y 1 1, at_ o.z 2 2⟩, ⟨at_ o.x 0 3, at_ o.y 1 4, at_ o.z 2 5⟩)

/-- A child's box test: its DIST when it is reported as hit (R246). `key` names the call, the ray and the child. DESIGN CHOICE, safe (log 66). -/
def boxTest (r : RayRec) (node i : Nat) (key : Nat × Nat × Nat) : Option Nat :=
  match boxChild node i, r.org, r.dir with
  | some (lo, hi), some org, some dir =>
    let (enter, meets) := slab r org dir lo hi
    if meets || Config.boxExtra key.1 key.2.1 key.2.2 then some (boxDist r enter) else none
  | _, _, _ => some (Config.boxDistance key.1 key.2.1 key.2.2).toNat

/-- The traversal unit meets child `i` of box node `k` (R243, R246, R260): a link that does not satisfy R242 is empty. -/
def tourChild (s : State) (r : RayRec) (part scene n k node call ray : Nat) (t : Tour) (i : Nat) : Tour :=
  let link := natBits node (512 + 64 * i) 64
  let target := natBits link 0 16
  let kind := natBits link 62 2
  let ok := natBits link 16 46 = 0 && (match kind with
    | 0 => false
    | 3 => (s.stationAt part scene target).isSome
    | _ => k < target && target < n && !(t.reached.any fun x => x.1 = target && x.2 != kind))
  if !ok then t
  else match boxTest r node i (call, ray, k * 8 + i) with
    | none => t
    | some dist =>
      if kind = 3 then let (route, overflowed) := addHop ⟨dist, target⟩ t.route; { t with route := route, overflowed := t.overflowed || overflowed }
      else { t with reached := (target, kind) :: t.reached }

/-- The triangle slots of a leaf node, in order (R244). -/
def leafHits (r : RayRec) (node : Nat) : List Hit := [natBits node 0 352, natBits node 352 352].filterMap fun v => triangle r v

/-- The traversal unit meets node `k`, if it has been reached (R252). -/
def tourNode (s : State) (r : RayRec) (part scene addr n call ray : Nat) (t : Tour) (k : Nat) : Tour :=
  match t.reached.find? fun x => x.1 = k with
  | none => t
  | some (_, kind) =>
    let node := s.peekNat part (addr + 128 * k) 128
    if kind = 1 then (List.range 8).foldl (tourChild s r part scene n k node call ray) t
    else { t with hits := t.hits ++ leafHits r node }

/-- One ray's tests in a call: nodes in ascending index (R252). -/
def State.tour (s : State) (part scene addr bytes call ray : Nat) (r : RayRec) (route : List Hop) : Tour :=
  let n := bytes / 128
  (List.range n).foldl (tourNode s r part scene addr n call ray) ⟨[(0, 1)], route, false, []⟩

/-- One ray's tests in a call under a traversal image that is no default one: its hits, and the stations that it links, are free values; a ray
still meets only stations of its scene (R35, R242, R261). DESIGN CHOICE, safe (log 102). -/
def State.imageTour (s : State) (image part scene call ray : Nat) (route : List Hop) : Tour :=
  let f := Config.sequencer image call ray
  let hits := (List.range (f 0)).map fun k =>
    (⟨BitVec.ofNat 32 (f (8 * k + 2)), BitVec.ofNat 32 (f (8 * k + 3)), BitVec.ofNat 32 (f (8 * k + 4)), f (8 * k + 5) % 16,
      (f (8 * k + 6)).testBit 0⟩ : Hit)
  let links := ((List.range (f 1)).map fun k => (⟨f (8 * k + 7) % 65536, f (8 * k + 8) % 65536⟩ : Hop)).filter fun h =>
    (s.stationAt part scene h.station).isSome
  links.foldl (fun t h =>
    let (route, overflowed) := addHop h t.route
    { t with route := route, overflowed := t.overflowed || overflowed }) ⟨[], route, false, hits⟩

/-- One ray's tests in a call, as the image in the core's traversal unit has them (R35, R252, R261). -/
def State.tourOn (s : State) (c : Call) (addr bytes ray : Nat) (r : RayRec) (route : List Hop) : Tour :=
  match s.image c.core 0 with
  | none => s.tour c.part c.scene addr bytes s.y.started ray r route
  | some i => s.imageTour i c.part c.scene s.y.started ray route

/-- The route without entries whose DIST exceeds TMAX (R252). -/
def RayRec.reach (r : RayRec) (route : List Hop) : List Hop := route.filter fun h => !ltF (val32 r.tmax) (decodeF bf16 h.dist)

/-- What becomes of a ray after a call or its verdicts. -/
inductive Fate where
  /-- It finishes with this STATE. -/
  | finish (state : Nat)
  /-- It moves to this station's platform with STATE 1. -/
  | move (station : Nat)
  /-- It waits for verdicts with this STATE (2 or 3) at its station. -/
  | judge (state : Nat)
  deriving DecidableEq, Repr

/-- A ray after a call or its verdicts: its record, route, candidates and floor, and its fate. -/
structure After where
  r     : RayRec
  route : List Hop
  cands : List Cand
  floor : Option Floor
  fate  : Fate
  deriving DecidableEq, Repr

/-- FINISH_OR_MOVE of R252. -/
def finishOrMove (r : RayRec) (route : List Hop) : After :=
  let hit := r.closest != 0xFFFFFFFF
  match route with
  | h :: rest =>
    if r.first && hit then ⟨r, route, [], none, .finish 4⟩
    else ⟨{ r with next := h.station, status := withState r.status 1 }, rest, [], none, .move h.station⟩
  | [] => if hit then ⟨r, [], [], none, .finish 4⟩ else ⟨{ r with status := withKind r.status 0 }, [], [], none, .finish 5⟩

/-- Insert a candidate by its key. -/
def insertCand (st : Nat) (c : Cand) : List Cand → List Cand
  | [] => [c]
  | x :: xs => if HitKey.lt ⟨c.t, st, c.prim.toNat⟩ ⟨x.t, st, x.prim.toNat⟩ then c :: x :: xs else x :: insertCand st c xs

/-- The end of a call on station `st` for one ray (R252). -/
def callRay (st : Nat) (r : RayRec) (floor : Option Floor) (t : Tour) : After :=
  let solid := fun (h : Hit) => h.solid || r.opaque_
  let r' := (t.hits.filter solid).foldl (fun (q : RayRec) h => q.offer h.t h.prim h.bary st h.kind) r
  let hit := r'.closest != 0xFFFFFFFF
  if t.overflowed then
    if r'.first && hit then ⟨r', [], [], none, .finish 4⟩ else ⟨{ r' with status := withKind r'.status 3 }, [], [], none, .finish 6⟩
  else
    let all : List Cand :=
      (t.hits.filter fun h => !solid h).foldl (fun acc h => insertCand st ⟨0, h.t, h.prim, h.bary, h.kind⟩ acc) []
    let above := all.filter fun c => match floor with
      | some f => HitKey.lt ⟨f.t, st, f.prim.toNat⟩ ⟨c.t, st, c.prim.toNat⟩
      | none => true
    let cap := if floor.isSome then 15 else 16
    let cs := above.filter fun c => r'.takes ⟨c.t, st, c.prim.toNat⟩
    let kept := (cs.take cap).zipIdx.map fun (c, i) => { c with slot := i }
    let route := r'.reach t.route
    let wait := fun (state : Nat) (f : Option Floor) =>
      (⟨{ r' with next := st, status := withState r'.status state }, route, kept, f, .judge state⟩ : After)
    if cap < cs.length then wait 3 floor
    else if cs.isEmpty then finishOrMove r' route
    else wait 2 none

/-- All verdicts of a ray are applied together (R256): 0 ignore, 1 accept, 2 accept and end, by slot. -/
def applyVerdicts (r : RayRec) (route : List Hop) (cands : List Cand) (verdict : Nat → Nat) : After :=
  let st := r.next
  let r' := cands.foldl (fun (q : RayRec) c => if verdict c.slot = 0 then q else q.offer c.t c.prim c.bary st c.kind) r
  let route := r'.reach route
  let hit := r'.closest != 0xFFFFFFFF
  if (cands.any fun c => verdict c.slot = 2) || (r'.first && hit) then ⟨r', route, [], none, .finish 4⟩
  else if natBits r.status 0 8 = 3 then
    ⟨{ r' with status := withState r'.status 1 }, route, [], (cands.getLast?).map fun c => ⟨c.t, c.prim⟩, .move st⟩
  else finishOrMove r' route

/-- The bytes of a ray record that the yard writes, as (offset, bytes): TMAX, NEXT, CLOSEST, BARY, STATUS (R239). -/
def RayRec.writes (r : RayRec) : List (Nat × List Byte) :=
  [(28, bytesOfWord r.tmax), (36, bytesOfNat 4 r.next), (40, bytesOfWord r.closest), (44, bytesOfWord r.bary), (52, bytesOfNat 4 r.status)]

/-- Are the pages of a ray's record and route record mapped with the rights that the yard needs (R249)? -/
def State.rayReachable (s : State) (r : Ray) : Bool :=
  s.yardMay r.set.part (r.set.rays + 64 * r.index) 64 true && s.yardMay r.set.part (r.set.routes + 256 * r.index) 256 true

/-- A ray whose page is lost leaves flight, and its grid takes an error (R249). -/
def State.loseRay (s : State) (r : Ray) : State :=
  (s.onGrid r.grid fun g => { g with error := true }).leaveFlight r

/-- A template read as a launch record. -/
def State.template (s : State) (part addr : Nat) : Nat := s.peekNat part addr 160

/-- Is a template valid (R247)? DEDUCED, safe (log 70). -/
def State.templateOk (s : State) (part addr : Nat) : Bool :=
  let v := s.template part addr
  let r := readLaunch v
  launchLegal v && s.imagesOk part r && r.gx = 1 && r.gy = 1 && r.gz = 1 && r.clw = 1 && r.clh = 1 && r.cbar.all (· == 0) &&
  r.gbar.all (· == 0) && r.after.all (· == 0) &&
  (match s.part part with
   | some p => s.placeable p r
   | none => false)

/-- The lanes that a template's grid has (R253). -/
def State.capacity (s : State) (part addr : Nat) : Nat :=
  let r := readLaunch (s.template part addr)
  r.trains * r.width

/-- Is a batch open, of this kind, set, grid, hitgroup and template (R253, R257)? -/
def Batch.fitsRay (b : Batch) (kind tmpl : Nat) (r : Ray) : Bool :=
  b.launched.isNone && b.kind = kind && b.set == r.set && b.owner = r.grid && b.hitgroup = r.hitgroup && b.template = tmpl

/-- A new open batch. -/
def State.newBatch (s : State) (kind tmpl : Nat) (r : Ray) (ms : List (Nat × Nat)) : State :=
  { s with y := { s.y with
      batches := s.y.batches ++ [⟨s.y.batch, kind, r.set, r.grid, r.hitgroup, tmpl, s.capacity r.set.part tmpl, ms, none⟩],
      batch := s.y.batch + 1 } }

/-- Members in new batches, `n` of which are enough (R253). -/
def State.newBatches (s : State) (kind tmpl : Nat) (r : Ray) (cap : Nat) : Nat → List (Nat × Nat) → State
  | 0, _ => s
  | n + 1, ms => if ms.isEmpty then s else (s.newBatch kind tmpl r (ms.take cap)).newBatches kind tmpl r cap n (ms.drop cap)

/-- Place members of a ray in the oldest open batch with room for all of them, or from the start of a new batch on (R253, R257). -/
def State.intoBatch (s : State) (kind tmpl : Nat) (r : Ray) (ms : List (Nat × Nat)) : State :=
  match s.y.batches.find? fun b => b.fitsRay kind tmpl r && b.members.length + ms.length ≤ b.capacity with
  | some b =>
    { s with y := { s.y with batches := s.y.batches.map fun o => if o.num = b.num then { o with members := o.members ++ ms } else o } }
  | none => s.newBatches kind tmpl r (max 1 (s.capacity r.set.part tmpl)) ms.length ms

/-- Queue a ray on a station's platform (R250). -/
def State.onPlatform (s : State) (r : Ray) (station : Nat) : State :=
  let s := s.onRay r.set.addr r.set.part r.index fun r =>
    { r with place := .platform, station := station, since := s.y.started, order := s.y.order, cands := [], verdicts := [], batches := [] }
  { s with y := { s.y with order := s.y.order + 1 } }

/-- The yard writes a ray's record and route record (R241, R252). -/
def State.writeRay (s : State) (r : Ray) (a : After) : State :=
  let part := r.set.part
  let m := a.r.writes.foldl (fun (m : Store) w => m.deviceWrite part (r.set.rays + 64 * r.index + w.1) w.2) s.m
  { s with m := m.deviceWrite part (r.set.routes + 256 * r.index) (bytesOfNat 256 (packRoute a.route a.cands a.floor)) }

/-- A ray finishes: it joins a batch of its hit or miss template, or leaves flight when there is none (R257). -/
def State.finishRay (s : State) (r : Ray) (a : After) (state : Nat) : State :=
  let a := { a with r := { a.r with next := 0xFFFFFFFF, status := withState a.r.status state } }
  let s := s.writeRay r a
  let tmpl := r.templates.getD (if state = 4 then 1 else 2) 0
  if tmpl = 0 then s.leaveFlight r
  else
    let s := s.onRay r.set.addr r.set.part r.index fun r =>
      { r with place := .finished, cands := [], verdicts := [], batches := [] }
    s.intoBatch (if state = 4 then 2 else 3) tmpl r [(r.index, natBits a.r.status 8 4)]

/-- What follows the application of verdicts: never another wait for verdicts (R256). -/
def State.afterVerdicts (s : State) (r : Ray) (a : After) : State :=
  match a.fate with
  | .finish state => s.finishRay r a state
  | .move st => (s.writeRay r a).onPlatform r st
  | .judge _ => s

/-- What follows the end of a call (R252, R253): with no any-hit template every candidate is accepted at once. -/
def State.afterCall (s : State) (r : Ray) (a : After) : State :=
  match a.fate with
  | .judge _ =>
    let tmpl := r.templates.headD 0
    if tmpl = 0 then s.afterVerdicts r (applyVerdicts a.r a.route a.cands fun _ => 1)
    else
      let s := (s.writeRay r a).onRay r.set.addr r.set.part r.index fun r =>
        { r with place := .anyHit, cands := a.cands, verdicts := [], batches := [] }
      s.intoBatch 1 tmpl r (a.cands.map fun c => (r.index, c.slot))
  | _ => s.afterVerdicts r a

/-- A ray's record and route record as the yard reads them. -/
def State.rayRecs (s : State) (r : Ray) : RayRec × Nat :=
  (readRay (s.peekNat r.set.part (r.set.rays + 64 * r.index) 64), s.peekNat r.set.part (r.set.routes + 256 * r.index) 256)

/-- The ranges of a ray's record and route record. -/
def Ray.records (r : Ray) : List (Nat × Nat) := [(r.set.rays + 64 * r.index, 64), (r.set.routes + 256 * r.index, 256)]

/-- The templates that the yard may have to look at for a ray. -/
def Ray.templateReads (r : Ray) : List (Nat × Nat) := (r.templates.filter fun t => t != 0).map fun t => (t, 160)

/-- The yard's reads of a ray's records meet their uncorrectable words (R74). -/
def State.meetRecs (s : State) (r : Ray) : State := s.yardMeet r.set.part r.records

/-- The entry of a station in its scene's table. -/
def stationEntry (scene st : Nat) : Nat × Nat := (scene + 64 + 16 * st, 16)

/-- The stations that the box nodes a ray has reached link. -/
def State.linked (s : State) (part addr : Nat) (t : Tour) : List Nat :=
  ((t.reached.filter fun x => x.2 = 1).map fun x =>
    let node := s.peekNat part (addr + 128 * x.1) 128
    (List.range 8).filterMap fun i =>
      let link := natBits node (512 + 64 * i) 64
      if natBits link 62 2 = 3 && natBits link 16 46 = 0 then some (natBits link 0 16) else none).flatten

/-- What a call reads of its scene for the rays given: the header, the station's entry and nodes, and the entries of the stations linked
(R242, R252). -/
def State.callReads (s : State) (c : Call) (rays : List Ray) : List (Nat × Nat) :=
  [(c.scene, 64), stationEntry c.scene c.station] ++
  match s.stationAt c.part c.scene c.station with
  | none => []
  | some (addr, bytes) => (addr, bytes) :: ((rays.map fun r =>
      let (rec, v) := s.rayRecs r
      s.linked c.part addr (s.tourOn c addr bytes r.index rec (readRoute v))).flatten.eraseDups.map (stationEntry c.scene))

/-- The rays of a call that its end brings up to date. -/
def State.callRays (s : State) (c : Call) : List Ray :=
  (c.rays.filterMap fun x => s.ray x.1 c.part x.2).filter fun r => r.place == .inCall c.core && s.rayReachable r

/-- The end of a call for one of its rays. -/
def State.endRay (s : State) (c : Call) (set index : Nat) : State :=
  match s.ray set c.part index with
  | none => s
  | some r =>
    if r.place != .inCall c.core then s
    else if !s.rayReachable r then s.loseRay r
    else
      let s := (s.meetRecs r).yardMeet c.part (s.callReads c [r])
      let (rec, v) := s.rayRecs r
      match s.stationAt c.part c.scene c.station with
      | none => s.afterCall r (callRay c.station rec (readFloor v) ⟨[], readRoute v, false, []⟩)
      | some (addr, bytes) =>
        let t := s.tourOn c addr bytes r.index rec (readRoute v)
        s.afterCall r (callRay c.station rec (readFloor v) t)

/-- CALL_END: each ray of a core's call is brought up to date and goes on, once all that the yard reads and writes for it can be served (R69);
on a core that is being vacated the call is abandoned and its rays stay on their platform (R252, R259). Subject: core. -/
def execCallEnd (s : State) : Host.Outcome State Fault Refusal :=
  match s.y.calls.find? fun c => c.core = s.subject.a with
  | none => .next s
  | some c =>
    let called := fun (s : State) => { s with y := { s.y with calls := s.y.calls.filter fun x => x.core != c.core } }
    if s.vacatingCore c.core || (s.core c.core).failed then
      .next (c.rays.foldl (fun (u : State) x => u.onRay x.1 c.part x.2 fun r =>
        if r.place = .inCall c.core then { r with place := .platform } else r) (called s))
    else if s.yardFrozen then .next s
    else
      let rs := s.callRays c
      match s.yardReach c.part (s.callReads c rs ++ (rs.map Ray.templateReads).flatten) (rs.map Ray.records).flatten with
      | (u, false) => .next u
      | (u, true) => .next (c.rays.foldl (fun (u : State) x => u.endRay c x.1 x.2) (called u))

/-- A platform with waiting rays: its scene slot and station, how long its oldest ray has waited in calls, its number of rays. -/
structure Platform where
  slot    : Nat
  scene   : Nat
  station : Nat
  age     : Nat
  rays    : List Ray
  deriving DecidableEq, Repr

/-- Insert a ray by its place in arrival order. -/
def insertRay (r : Ray) : List Ray → List Ray
  | [] => [r]
  | x :: xs => if r.order < x.order then r :: x :: xs else x :: insertRay r xs

/-- The platforms of a partition that wait and stand on no unit (R250). -/
def State.platforms (s : State) (part : Nat) : List Platform :=
  let mine := s.y.scenes.filter fun e => e.2.1 = part
  (mine.map fun e =>
    let rays := s.y.rays.filter fun r => r.set.part = part && r.set.scene = e.2.2 && r.place = .platform
    let stations := rays.foldl (fun (acc : List Nat) r => if acc.contains r.station then acc else acc ++ [r.station]) []
    (stations.filter fun st => !(s.y.calls.any fun c => c.part = part && c.scene = e.2.2 && c.station = st)).map fun st =>
      let rs := (rays.filter fun r => r.station = st).foldl (fun acc r => insertRay r acc) []
      ⟨e.1, e.2.2, st, s.y.started - ((rs.head?.map Ray.since).getD s.y.started), rs⟩).flatten

/-- Is platform `a` called before `b` (R251)? -/
def Platform.before (limit : Nat) (a b : Platform) : Bool :=
  let old := fun (p : Platform) => limit ≤ p.age
  let tie := a.slot < b.slot || (a.slot = b.slot && a.station < b.station)
  if old a || old b then
    if old a && old b then b.age < a.age || (a.age = b.age && tie) else old a
  else b.rays.length < a.rays.length || (a.rays.length = b.rays.length && tie)

/-- The platform that the next call takes (R251); LIMIT 0 stands for 65,536. -/
def State.nextPlatform (s : State) (p : Part) : Option Platform :=
  let limit := if natBits p.ageLimit.toNat 0 16 = 0 then 65536 else natBits p.ageLimit.toNat 0 16
  (s.platforms p.num).foldl (fun (best : Option Platform) x => match best with
    | none => some x
    | some b => if x.before limit b then some x else best) none

/-- The partition that a core belongs to. -/
def State.partOfCore (s : State) (core : Nat) : Option Part :=
  s.q.parts.find? fun p => p.x ≤ core % 16 && core % 16 < p.x + p.w && p.y ≤ core / 16 && core / 16 < p.y + p.h

/-- STATION_CALL: a free unit of a core takes up to 4,096 rays of a platform, oldest first (R250, R251, R259). Subject: core. -/
def execStationCall (s : State) : Host.Outcome State Fault Refusal :=
  let core := s.subject.a
  match s.partOfCore core with
  | none => .next s
  | some p =>
    if (s.y.calls.any fun c => c.core = core) || (s.core core).failed || s.vacatingCore core || s.yardFrozen then .next s
    else match s.nextPlatform p with
      | none => .next s
      | some f =>
        let rs := (f.rays.take 4096).map fun r => (r.set.addr, r.index)
        let s := rs.foldl (fun (u : State) x => u.onRay x.1 p.num x.2 fun r => { r with place := .inCall core }) s
        .next { s with y := { s.y with calls := s.y.calls ++ [⟨core, p.num, f.scene, f.station, rs⟩], started := s.y.started + 1 } }

/-- RAY_RECORD_LOST: a ray in flight whose page is gone leaves it (R249). Subject: set address, ray, partition. -/
def execRayRecordLost (s : State) : Host.Outcome State Fault Refusal :=
  match s.ray s.subject.a s.subject.c s.subject.b with
  | none => .next s
  | some r => if r.place = .offered || r.place = .shading || s.rayReachable r then .next s else .next (s.loseRay r)

/-- Is every member's lane dealt and decided? The verdict on member `j` of a launched any-hit batch: what its lane recorded, or *ignore*
once its train has ended without one (R255). DEDUCED, safe (log 71). -/
def State.memberVerdict (s : State) (b : Batch) (j : Nat) : Option Nat :=
  b.launched.bind fun seq => (s.grid seq).bind fun g =>
    let w := g.launch.width
    (s.trains.find? fun t => t.i.grid = seq && t.i.num = j / w).bind fun t =>
      match t.y.verdicts.find? fun v => v.1 = j % w with
      | some v => some v.2
      | none => if t.life = .ended then some 0 else none

/-- The verdict on a ray's candidate slot, once there is one (R256). -/
def State.verdict (s : State) (r : Ray) (slot : Nat) : Option Nat :=
  match r.verdicts.find? fun v => v.1 = slot with
  | some v => some v.2
  | none =>
    let has := fun (b : Batch) => b.kind = 1 && r.batches.contains b.num && b.members.contains (r.index, slot)
    (s.y.batches.find? has).bind fun b =>
      (b.members.findIdx? fun m => m == (r.index, slot)).bind fun j => s.memberVerdict b j

/-- VERDICT_APPLY: every candidate of a ray has its verdict, which is applied once the ray's records can be served (R69, R256). Subject: set
address, ray, partition. -/
def execVerdictApply (s : State) : Host.Outcome State Fault Refusal :=
  match s.ray s.subject.a s.subject.c s.subject.b with
  | none => .next s
  | some r =>
    if r.place != .anyHit || !(r.cands.all fun c => (s.verdict r c.slot).isSome) || s.yardFrozen then .next s
    else if !s.rayReachable r then .next (s.loseRay r)
    else match s.yardReach r.set.part r.templateReads r.records with
      | (u, false) => .next u
      | (u, true) =>
        let s := u.meetRecs r
        let (rec, v) := s.rayRecs r
        .next (s.afterVerdicts r (applyVerdicts rec (readRoute v) r.cands fun slot => (s.verdict r slot).getD 0))

/-- The batch with this number. -/
def State.batch (s : State) (n : Nat) : Option Batch := s.y.batches.find? fun b => b.num = n

/-- May a batch be launched: is it full, or can no more rays of its set join it (R253, R257)? -/
def State.batchReady (s : State) (b : Batch) : Bool :=
  let same := fun (r : Ray) => r.set.addr = b.set.addr && r.set.part = b.set.part
  let travels := fun (r : Ray) => r.place = .platform || (match r.place with
    | .inCall _ => true
    | _ => false)
  b.capacity ≤ b.members.length ||
  (if b.kind = 1 then !(s.y.rays.any fun r => same r && r.grid = b.owner && travels r)
   else !(s.y.rays.any fun r => same r && (travels r || r.place = .anyHit)))

/-- A batch is dropped. -/
def State.dropBatch (s : State) (b : Batch) : State := { s with y := { s.y with batches := s.y.batches.filter fun o => o.num != b.num } }

/-- A batch that can never be launched (R257): any-hit candidates are ignored, finished rays leave flight; the grid takes an
error. -/
def State.giveUp (s : State) (b : Batch) : State :=
  let s := (s.dropBatch b).onGrid b.owner fun g => { g with error := true }
  b.members.foldl (fun (u : State) m => match u.ray b.set.addr b.set.part m.1 with
    | none => u
    | some r =>
      if b.kind = 1 then u.onRay b.set.addr b.set.part m.1 fun r => { r with verdicts := r.verdicts ++ [(m.2, 0)] }
      else u.leaveFlight r) s

/-- The launch of a batch as a grid in its submitting grid's queue, once its template can be read (R69, R253, R257, R258); while that queue
is full it waits (R125). -/
def State.launchBatch (s : State) (b : Batch) : State :=
  if b.members.isEmpty then s.dropBatch b
  else if s.yardFrozen then s
  else match s.yardReach b.set.part [(b.template, 160)] [] with
  | (s, false) => s
  | (s, true) =>
    let s := s.yardMeet b.set.part [(b.template, 160)]
    let r := readLaunch (s.template b.set.part b.template)
    match s.grid b.owner with
    | none => s
    | some g =>
      if !s.templateOk b.set.part b.template || r.trains * r.width < b.members.length then s.giveUp b
      else if Config.queueEntries ≤ s.queued g.queue then s
      else
        let seq := s.q.nextSeq
        let image := ((s.imageAt b.set.part r.entry).map Image.num).getD 0
        let s := s.acceptGrid b.set.part g.queue image r (some g.seq) b.num
        let s := { s with y := { s.y with batches := s.y.batches.map fun o => if o.num = b.num then { o with launched := some seq } else o } }
        b.members.foldl (fun (u : State) m => u.onRay b.set.addr b.set.part m.1 fun r =>
          { r with place := if b.kind = 1 then r.place else .shading,
                   batches := if r.batches.contains b.num then r.batches else r.batches ++ [b.num] }) s

/-- ANYHIT_BATCH_LAUNCH (R253). Subject: batch. -/
def execAnyhitBatchLaunch (s : State) : Host.Outcome State Fault Refusal :=
  match s.batch s.subject.a with
  | some b => if b.kind = 1 && b.launched.isNone && s.batchReady b then .next (s.launchBatch b) else .next s
  | none => .next s

/-- HIT_BATCH_LAUNCH (R257). Subject: batch. -/
def execHitBatchLaunch (s : State) : Host.Outcome State Fault Refusal :=
  match s.batch s.subject.a with
  | some b => if b.kind != 1 && b.launched.isNone && s.batchReady b then .next (s.launchBatch b) else .next s
  | none => .next s

end Sys2Proof.Machine
end

