-- ==== Sys2Proof/Machine/Ray.lean ====
section
/-! DEFINITION. The ray instructions and the acceptance of rays (R247 to R249, R255). -/
namespace Sys2Proof.Machine

/-- TRAPINFO of 0x28 and 0x29 (R248). -/
def rayInfo (reason ray : Nat) : Dword := BitVec.ofNat 64 (reason * 2 ^ 60 + ray % 2 ^ 32)

/-- Read a ray set record's 512 bits (R247). -/
def readSet (addr part v : Nat) : RaySet :=
  ⟨addr, part, natBits v 0 64, natBits v 64 64, natBits v 128 64, natBits v 192 64, natBits v 256 32, natBits v 288 16⟩

/-- Is a ray set record valid (R247, R249)? Its SCENE must be a scene of the partition. DEDUCED, safe (log 63). -/
def State.setOk (s : State) (q : RaySet) (v : Nat) : Bool :=
  natBits v 304 208 = 0 && 1 ≤ q.hgcount && q.hgcount ≤ 256 && 1 ≤ q.count && q.count ≤ 16777216 && q.rays % 64 = 0 &&
  q.routes % 256 = 0 && q.hitgroups % 32 = 0 && s.isScene q.part q.scene

/-- Is a ray of a set in flight (R249)? -/
def State.inFlight (s : State) (q : RaySet) (i : Nat) : Bool := (s.ray q.addr q.part i).isSome

/-- A lane's failed memory checks: its ray record and its route record, each with the read and write rights (R62, R249). -/
def State.rayFaults (s : State) (q : RaySet) (l i : Nat) : List LaneFault :=
  let check := fun (ea n right : Nat) => (s.globalFault q.part ea n right false false).map fun f => (⟨l, f.1, f.2, ea⟩ : LaneFault)
  let rec_ := q.rays + 64 * i
  let route := q.routes + 256 * i
  [check rec_ 64 rightRead, check rec_ 64 rightWrite, check route 256 rightRead, check route 256 rightWrite].filterMap id

/-- A lane's index check: at or above COUNT (1); in flight, or named by a lower lane (2) (R248, R249). -/
def State.indexFault (s : State) (q : RaySet) (e : List Nat) (idx : Nat → Nat) (l : Nat) : Option Nat :=
  if q.count ≤ idx l then some 1
  else if s.inFlight q (idx l) || e.any (fun k => k < l && idx k = idx l) then some 2
  else none

/-- The trap of the lanes with the lowest REASON (R248). -/
def stationTrap (cause : Nat) (fs : List (Nat × Nat)) (idx : Nat → Nat) : Option (Nat × Mask × Dword) :=
  match (List.range 6).find? fun r => fs.any fun f => f.2 = r with
  | none => none
  | some r =>
    let ls := (fs.filter fun f => f.2 = r).map Prod.fst
    some (cause, maskOf ls fun _ => true, rayInfo r (if r = 0 then 0 else idx (ls.headD 0)))

/-- A ray that `rayq` puts into flight. -/
def RaySet.ray (q : RaySet) (grid i : Nat) : Ray := ⟨q, grid, i, .offered, 0, 0, 0, 0, [], [], [], []⟩

/-- The body of `rayq` once its set record has been read (R249). -/
def submitRays (c : Ctl) (a : Fld) (ac : Nat) (rel : Bool) (q : RaySet) (s : State) : State :=
  let e := s.t.act c
  let ls := lanes e
  let idx := fun l => (s.t.v a l).toNat
  let index := ls.filterMap fun l => (s.indexFault q ls idx l).map fun r => (l, r)
  let memory := (ls.map fun l => if index.any fun f => f.1 = l then [] else s.rayFaults q l (idx l)).flatten
  s.orRaise (worstFault 3 memory) fun s => s.orRaise (stationTrap 0x28 index idx) fun s =>
    if s.t.noRoom ac false then s.hold .wait
    else
      let o := s.newOp (.rays q.addr (ls.map fun l => (l, idx l, none))) ac e (s.t.engineDeps rel) false false none
      let s := s.onT fun t => t.enqueue o
      State.doneEnding { s with y := { s.y with rays := s.y.rays ++ ls.map fun l => q.ray s.t.i.grid (idx l) } } 4

/-- The body of `rayq` (R249). DEDUCED, unsafe (log 64). DEDUCED, safe (log 69). -/
def rayBody (c : Ctl) (d a : Fld) (ac : Nat) (rel : Bool) (s : State) : State :=
  let e := s.t.act c
  let at_ := (s.t.s d).toNat
  if e = 0 then s.doneEnding 4
  else if at_ % 64 ≠ 0 then s.raise 0x0A e (memInfo 1 3 at_)
  else match s.globalFault s.t.i.part at_ 64 rightRead false false with
    | some f => s.raise f.1 e (memInfo f.2 3 at_)
    | none => if !s.mayFetch rel then s.hold .wait else s.withRecord e at_ 64 fun b s =>
        let v := natOfBytes b
        let q := readSet at_ s.t.i.part v
        if !s.setOk q v then s.raise 0x28 e (rayInfo 0 0) else submitRays c a ac rel q s

/-- `rayq` (R249). -/
def execRayq (c : Ctl) (d a : Fld) (ac : BitVec 4) (rel : BitVec 1) (s : State) : Host.Outcome State Fault Refusal :=
  word (.rayq c d a ac rel) false [.s d.toNat 0, .v a.toNat 0] (rayBody c d a ac.toNat (rel == 1#1)) s

/-- The candidate of a lane of an any-hit train. -/
def Train.cand (t : Train) (l : Nat) : List Word := ((t.y.cands.find? fun c => c.1 = l).map Prod.snd).getD [0, 0, 0, 0]

/-- `cand` (R255). -/
def execCand (c : Ctl) (d : Fld) (s : State) : Host.Outcome State Fault Refusal :=
  word (.cand c d) false [.v d.toNat 3]
    (fun s =>
      let e := s.t.act c
      if e = 0 then s.done
      else if s.t.y.kind ≠ 1 then s.raise 0x29 e (rayInfo 0 0)
      else (s.onT fun t => [0, 1, 2, 3].foldl (fun (u : Train) k => u.putV (d.toNat + k) e fun l => (t.cand l).getD k 0) t).done) s

/-- Why a lane's verdict fails (R248, R255). -/
def Train.verdictFault (t : Train) (a : Fld) (l : Nat) : Option Nat :=
  if t.y.verdicts.any fun v => v.1 = l then some 1 else if 2 < (t.v a l).toNat then some 2 else none

/-- `cacc` (R255). -/
def execCacc (c : Ctl) (a : Fld) (s : State) : Host.Outcome State Fault Refusal :=
  word (.cacc c a) false [.v a.toNat 0]
    (fun s =>
      let e := s.t.act c
      let fs := (lanes e).filterMap fun l => (s.t.verdictFault a l).map fun r => (l, r)
      if e = 0 then s.done
      else if s.t.y.kind ≠ 1 then s.raise 0x29 e (rayInfo 0 0)
      else s.orRaise (stationTrap 0x29 fs fun l => ((s.t.cand l).headD 0).toNat) fun s =>
        (s.onT fun t => { t with y := { t.y with verdicts := t.y.verdicts ++ (lanes e).map fun l => (l, (t.v a l).toNat) } }).done) s

/-- Why the yard refuses a ray, if it does, and the templates of its hitgroup entry (R249). -/
def State.refusal (s : State) (q : RaySet) (r : RayRec) : Option Nat × List Nat :=
  let entry := q.hitgroups + 32 * r.hitgroup
  let v := s.peekNat q.part entry 32
  let ts := [natBits v 0 64, natBits v 64 64, natBits v 128 64]
  if (s.stationAt q.part q.scene r.next).isNone || q.hgcount ≤ r.hitgroup || r.flags / 16 ≠ 0 then (some 3, [])
  else if !s.yardMay q.part entry 32 false || natBits v 192 64 ≠ 0 ||
      ts.any (fun t => t != 0 && !(s.yardMay q.part t 160 false && s.templateOk q.part t)) then (some 4, [])
  else (none, ts)

/-- The defined stations of a scene (R242). -/
def State.stationCount (s : State) (part scene : Nat) : Nat :=
  ((List.range (natBits (s.peekNat part scene 64) 0 16)).filter fun st => (s.stationAt part scene st).isSome).length

/-- Granules of platform space that a ray set reserves: room for COUNT entries, and one page for each station (R249). DEDUCED, safe
(log 68). -/
def State.platformNeed (s : State) (q : RaySet) : Nat := granulesFor (4 * q.count) + s.stationCount q.part q.scene

/-- The lowest of the eight scene slots that is free (R249). -/
def State.freeSlot (s : State) : Option Nat := (List.range 8).find? fun i => !(s.y.scenes.any fun e => e.1 = i)

/-- The yard's reads of an offered ray: its record, its scene, its hitgroup entry and the templates that this names (R249). -/
def State.offerReads (s : State) (r : Ray) : List (Nat × Nat) :=
  let q := r.set
  let entry := q.hitgroups + 32 * (readRay (s.peekNat q.part (q.rays + 64 * r.index) 64)).hitgroup
  let v := s.peekNat q.part entry 32
  [(q.rays + 64 * r.index, 64), (q.scene, 64), (q.scene + 64, 16 * natBits (s.peekNat q.part q.scene 64) 0 16), (entry, 32)] ++
    ([natBits v 0 64, natBits v 64 64, natBits v 128 64].filter fun t => t != 0).map fun t => (t, 160)

/-- What becomes of an offered ray: none when it waits for a scene slot or for frames; else the state after it and its REASON, 15 for
accepted (R249, R367). -/
def State.acceptRay (s : State) (r : Ray) : Option (State × Nat) :=
  let q := r.set
  let rec_ := readRay (s.peekNat q.part (q.rays + 64 * r.index) 64)
  match s.refusal q rec_ with
  | (some reason, _) => some (s.leaveFlight r, reason)
  | (none, ts) =>
    let known := s.y.scenes.any fun e => e.2.1 = q.part && e.2.2 = q.scene
    let spaced := s.y.space.any fun e => e.1 = q.part && e.2.1 = q.addr
    let need := if spaced then 0 else s.platformNeed q
    if !known && s.freeSlot.isNone then none
    else if !s.pinsFit q.part need then some (s.leaveFlight r, 5)
    else if s.freeFrames q.part < need then none
    else
      let s := if known then s else { s with y := { s.y with scenes := s.y.scenes ++ [(s.freeSlot.getD 0, q.part, q.scene)] } }
      let (s, gs) := if spaced then (s, []) else s.takeHidden q.part need
      let s := if spaced then s else { s with y := { s.y with space := s.y.space ++ [(q.part, q.addr, gs)] } }
      let s := s.onRay q.addr q.part r.index fun r => { r with hitgroup := rec_.hitgroup, templates := ts }
      let s := { s with m := s.m.deviceWrite q.part (q.routes + 256 * r.index) (bytesOfNat 256 (packRoute [] [] none)) }
      some (s.onPlatform r rec_.next, 15)

/-- What the yard writes as it takes an offered ray: its route record, unless it refuses it (R249). -/
def State.offerWrites (s : State) (r : Ray) : List (Nat × Nat) :=
  if (s.refusal r.set (readRay (s.peekNat r.set.part (r.set.rays + 64 * r.index) 64))).1.isSome then []
  else [(r.set.routes + 256 * r.index, 256)]

/-- One lane of a `rayq`: its ray is accepted, refused, or lost with its page; or it waits, also for what the yard reads of it and writes
(R69). -/
def State.acceptLane (s : State) (set : Nat) (x : Nat × Nat × Option Nat) : State × (Nat × Nat × Option Nat) :=
  if x.2.2.isSome then (s, x)
  else match s.ray set s.t.i.part x.2.1 with
    | none => (s, (x.1, x.2.1, some 15))
    | some r =>
      if !s.rayReachable r then (s.loseRay r, (x.1, x.2.1, some 15))
      else match s.yardReach r.set.part (s.offerReads r) (s.offerWrites r) with
        | (s, false) => (s, x)
        | (s, true) =>
          match (s.yardMeet r.set.part (s.offerReads r)).acceptRay r with
          | none => (s, x)
          | some (s, reason) => (s, (x.1, x.2.1, some reason))

/-- The late record of a `rayq` some of whose rays were refused (R248, R249). -/
def Op.refused (o : Op) (ls : List (Nat × Nat × Option Nat)) : Option Rec :=
  let fs := ls.filterMap fun x => match x.2.2 with
    | some 15 => none
    | some r => some (x.1, r)
    | none => none
  (stationTrap 0x28 fs fun l => ((ls.find? fun x => x.1 = l).map fun x => x.2.1).getD 0).map fun t => o.record t.1 t.2.1 t.2.2

/-- RAY_ACCEPT: the yard accepts or refuses a submitted ray; the operation retires when each of its rays is decided (R249). Subject: train,
operation, lane; a lane beyond the last stands for all that are left. -/
def execRayAccept (s : State) : Host.Outcome State Fault Refusal :=
  let s := s.stage s.subject.a
  match s.t.op s.subject.b with
  | some o =>
    match o.work with
    | .rays set ls =>
      if !s.mayPerform o || s.yardFrozen then .next s
      else
        let lane := s.subject.c
        let (s, ls) := ls.foldl (fun (p : State × List (Nat × Nat × Option Nat)) x =>
          if 64 ≤ lane || x.1 = lane then let (s, y) := p.1.acceptLane set x; (s, p.2 ++ [y]) else (p.1, p.2 ++ [x])) (s, [])
        let o := { o with work := .rays set ls }
        if ls.all fun x => x.2.2.isSome then .next (s.complete { o with stop := o.refused ls })
        else .next (s.onT fun t => t.setOp o)
    | _ => .next s
  | none => .next s

end Sys2Proof.Machine
end

