-- ==== Sys2Proof/Machine/Texture.lean ====
section
/-! DEFINITION. The sampler and the texture instructions (R262 to R264), and the replies of counted loads of every kind (R111). -/
namespace Sys2Proof.Machine

/-- A texture descriptor (R262). -/
structure TexDesc where
  filter : Bool
  addrV  : Nat
  addrU  : Nat
  format : Nat
  levels : Nat
  height : Nat
  width  : Nat
  base   : Nat
  deriving DecidableEq, Repr

/-- Read a descriptor's 256 bits: LEVELS as written, HEIGHT and WIDTH as sizes (R262). -/
def readTex (v : Nat) : TexDesc :=
  ⟨v.testBit 108, natBits v 106 2, natBits v 104 2, natBits v 100 4, natBits v 96 4, natBits v 80 16 + 1, natBits v 64 16 + 1, natBits v 0 56⟩

/-- Are the reserved fields zero and the format defined (R262, R264)? -/
def texClean (v : Nat) : Bool := natBits v 109 147 = 0 && natBits v 56 8 = 0 && natBits v 100 4 ≤ 3

/-- Bytes of a texel (R262). -/
def texelBytes (format : Nat) : Nat :=
  match format with
  | 0 => 4
  | 1 => 4
  | 2 => 8
  | _ => 1

/-- The size of level `l` along an axis (R262). -/
def levelSize (n l : Nat) : Nat := max 1 (n / 2 ^ l)

/-- The bytes of a row of a level, and of the level (R262). -/
def TexDesc.rowBytes (t : TexDesc) (l : Nat) : Nat := alignUp (levelSize t.width l * texelBytes t.format) 16
def TexDesc.levelBytes (t : TexDesc) (l : Nat) : Nat := alignUp (t.rowBytes l * levelSize t.height l) 256

/-- The address of a level (R262). -/
def TexDesc.levelBase (t : TexDesc) (l : Nat) : Nat := (List.range l).foldl (fun a i => a + t.levelBytes i) t.base

/-- ADDR(i) of R263: the texel's index. DEDUCED, unsafe (log 72). -/
def texIndex (mode : Nat) (i : Int) (n : Nat) : Nat :=
  match mode with
  | 0 => (i % (n : Int)).toNat
  | 1 => (min (max i 0) ((n : Int) - 1)).toNat
  | 2 => let j := (i % (2 * (n : Int))).toNat; if j < n then j else 2 * n - 1 - j
  | _ => if 0 ≤ i && i < (n : Int) then i.toNat else 0

/-- A coordinate: a NaN or an infinity is 0 (R263). -/
def texCoord (w : Word) : Dyadic := (finite32 w.toNat).getD Dyadic.zero

/-- Along one axis: the texels' indexes with their weights out of 256 (R263). -/
def texAxis (bilinear : Bool) (mode : Nat) (u : Word) (n : Nat) : List (Nat × Nat) :=
  let x := (texCoord u).mul (Dyadic.ofInt n)
  if bilinear then
    let x := x.sub ⟨1, -1⟩
    let i := x.floor
    let f := (((x.sub (Dyadic.ofInt i)).scale 8).floor).toNat
    [(texIndex mode i n, 256 - f), (texIndex mode (i + 1) n, f)]
  else [(texIndex mode x.floor n, 256)]

/-- The texels of a sample with nonzero weight, as (address, weight out of 65,536) (R263). -/
def TexDesc.texels (t : TexDesc) (u v level : Word) : List (Nat × Nat) :=
  let l := min level.toNat t.levels
  let base := t.levelBase l
  let row := t.rowBytes l
  let ys := texAxis t.filter t.addrV v (levelSize t.height l)
  let xs := texAxis t.filter t.addrU u (levelSize t.width l)
  ((ys.map fun y => xs.map fun x => (base + y.1 * row + x.1 * texelBytes t.format, x.2 * y.2)).flatten).filter fun p => p.2 != 0

/-- A descriptor of the constant space; the trap where it is not legal (R264), or a poisoned word is met. -/
def withDesc (c : Ctl) (k : Nat) (body : TexDesc → State → State) (s : State) : State :=
  match s.readConst k 32 with
  | (s, none) => s.raise 0x0B (s.t.act c) (memInfo 8 4 k)
  | (s, some b) =>
    let v := natOfBytes b
    if texClean v then body (readTex v) s else s.raise 0x0C (s.t.act c) (shapeInfo 15 k)

/-- The body of `tex` (R264). Its descriptor is read as it issues, once an engine may read for the train (R110, R112, R352). -/
def sample (c : Ctl) (d a : Fld) (ac : Nat) (rel : Bool) (lit : Word) (s : State) : State :=
  let e := s.t.act c
  if e = 0 then s.doneEnding 8
  else if !s.mayFetch rel then s.hold .wait
  else withDesc c lit.toNat (fun t s =>
    let reads := (lanes e).map fun l => (l, t.texels (s.t.v a l) (s.t.vk a 1 l) (s.t.vk a 2 l))
    let n := texelBytes t.format
    let faults := (reads.map fun r => r.2.filterMap fun p =>
      (s.globalFault s.t.i.part p.1 n rightRead false false).map fun f => (⟨r.1, f.1, f.2, p.1⟩ : LaneFault)).flatten
    s.orRaise (worstFault 3 faults) fun s =>
      let work := Work.texture t.format d (reads.map fun r => (r.1, r.2.map fun p => (p.1, (s.m.translate s.t.i.part p.1).getD 0, p.2)))
      let acc := (reads.map fun r => r.2.map fun p => s.laneAcc p.1 0 0 r.1).flatten
      if s.t.noRoom ac false || s.linesFull (linesOf acc) then s.hold .wait
      else match s.meetHomes false acc with
        | (s, some g) => s.hold (.park g)
        | (s, none) =>
          let o := { s.newOp work ac e (s.t.engineDeps rel) false false none with
            pulled := acc.any fun a => a.win.isNone && s.m.needsPull a.ua }
          (s.onT fun t => t.enqueue o).doneEnding 8) s

/-- `tex` (R264). -/
def execTex (c : Ctl) (d a : Fld) (ac : BitVec 4) (rel : BitVec 1) (lit : Word) (s : State) : Host.Outcome State Fault Refusal :=
  word (.tex c d a ac rel lit) false [.v d.toNat 3, .v a.toNat 2] (sample c d a ac.toNat (rel == 1#1) lit) s

/-- `texq` (R264), whatever image the core's sampler runs. DESIGN CHOICE, unsafe (log 143). -/
def execTexq (c : Ctl) (d a : Fld) (lit : Word) (s : State) : Host.Outcome State Fault Refusal :=
  word (.texq c d a lit) false [.v d.toNat 3, .v a.toNat 0]
    (fun s =>
      let e := s.t.act c
      if e = 0 then s.doneLit
      else if !s.mayAct Order.plain then s.hold .wait
      else withDesc c lit.toNat (fun t s =>
        let out := fun l =>
          let v := min (s.t.v a l).toNat t.levels
          [levelSize t.width v, levelSize t.height v, t.levels + 1, t.format]
        (s.onT fun t => [0, 1, 2, 3].foldl (fun (u : Train) k => u.putV (d.toNat + k) e fun l => BitVec.ofNat 32 ((out l).getD k 0)) t).doneLit) (s.act Order.plain)) s

/-- A channel of a texel, as a fraction of 255 or as a floating value; absent channels read 0, alpha 1 (R262). -/
inductive Channel where
  | unorm (v : Nat)
  | real (v : FVal)
  deriving DecidableEq, Repr

/-- Channel `k` (R, G, B, A) of a texel's bits (R262). -/
def texChannel (format bits k : Nat) : Channel :=
  match format with
  | 0 => .unorm (natBits bits (8 * k) 8)
  | 1 => if k = 0 then .real (decodeF f32 (natBits bits 0 32)) else .unorm (if k = 3 then 255 else 0)
  | 2 => .real (decodeF h16 (natBits bits (16 * k) 16))
  | _ => if k = 0 then .unorm (natBits bits 0 8) else .unorm (if k = 3 then 255 else 0)

/-- RNE_F32(EXACT_SUM(w × value) ÷ 65,536) over the texels read (R263). DEDUCED, unsafe (log 14). -/
def texSum (ps : List (Nat × Channel)) : Word :=
  let whole := ps.foldl (fun n p => match p.2 with
    | .unorm v => n + p.1 * v
    | .real _ => n) 0
  let reals := ps.filterMap fun p => match p.2 with
    | .real v => some (blockProduct v (.fin false p.1 0))
    | .unorm _ => none
  if reals.isEmpty then BitVec.ofNat 32 (if whole = 0 then 0 else (roundRat f32 .rne false whole (255 * 65536) 0).1)
  else match blockSum reals with
    | .fin n m e => BitVec.ofNat 32 (convertF f32 .rne (.fin n m (e - 16))).1
    | x => BitVec.ofNat 32 (convertF f32 .rne x).1

/-- Read a lane's texels: the store after it and the texels' bits with their weights, or the address of the first that is poisoned. -/
def readTexels (n : Nat) : Store → List (Nat × Nat × Nat) → Store × Except Nat (List (Nat × Nat))
  | m, [] => (m, .ok [])
  | m, (va, ua, w) :: ps =>
    match m.read ua n with
    | (m, none) => (m, .error va)
    | (m, some b) => match readTexels n m ps with
      | (m, .ok r) => (m, .ok ((natOfBytes b, w) :: r))
      | (m, .error va) => (m, .error va)

/-- One lane of a `tex` reply: its four registers, or a poisoned lane, with the poisoned texel's address (R63, R76, R264). What a sampler
image other than the default one makes of the texels is a free value (R261). DESIGN CHOICE, safe (log 102). -/
def State.sampleLane (s : State) (o : Op) (format : Nat) (d : Fld) (l : Nat × List (Nat × Nat × Nat)) : State × Op :=
  match readTexels (texelBytes format) s.m l.2 with
  | (m, .error va) => ({ s with m := m }, o.poison 3 l.1 va)
  | (m, .ok ts) =>
    let out := fun k => match s.image s.t.core 1 with
      | none => texSum (ts.map fun t => (t.2, texChannel format t.1 k))
      | some n => BitVec.ofNat 32 (Config.sequencer n s.tick l.1 k)
    ({ s with m := m, t := s.t.withR (s.t.r.putWords o.prv d.toNat l.1 [out 0, out 1, out 2, out 3]) }, o)

/-- The reply of a `tex`, once the home slices can serve every texel (R69, R264). DEDUCED, safe (log 73). -/
def State.textureReply (s : State) (o : Op) (format : Nat) (d : Fld) (ls : List (Nat × List (Nat × Nat × Nat))) : State :=
  if (ls.all fun l => l.2.all fun p => s.servable p.2.1 false) then
    let (s, o) := ls.foldl (fun (p : State × Op) l => p.1.sampleLane p.2 format d l) (s, o)
    s.complete o
  else s

/-- LOAD_REPLY: a reply of a counted load, a scratchpad load, `ldo`, `oreq` or `tex`, the poisoned reply of an uncounted load, or the
end of a release that is guarded off in every lane (R107, R111). Subject: train,
operation, lane; a lane beyond the last stands for all that are left. -/
def execLoadReply (s : State) : Host.Outcome State Fault Refusal :=
  let s := s.stage s.subject.a
  match s.t.op s.subject.b with
  | some o =>
    if !s.mayPerform o then .next s
    else match o.work with
      | .load n signed d acc => .next (s.loadReply o n signed d acc s.subject.c)
      | .localLoad n signed d acc => .next (s.localReply o n signed d acc s.subject.c)
      | .object d results => .next (s.objectReply o d results)
      | .request d ws => .next (s.requestReply o d ws)
      | .texture format d ls => .next (s.textureReply o format d ls)
      | .reply => .next (s.complete o)
      | .order => .next ((s.onT fun t => t.owe o.after).complete o)
      | _ => .next s
  | none => .next s

/-- An atomic on a remote window is sent to its peer: one lane at a time, each under a tag of its own (R16, R18). DEDUCED, unsafe
(log 114). -/
def State.sendAtomic (s : State) (o : Op) (wide cas : Bool) (aop win : Nat) (acc : List LaneAcc) (a : LaneAcc) : State :=
  let tag := BitVec.ofNat 32 s.k.nextTag
  let acc := acc.map fun b => if b.lane = a.lane then { b with tag := some tag } else b
  let o := match o.work with
    | .atomic space wide cas ret aop d _ => { o with work := .atomic space wide cas ret aop d acc }
    | _ => o
  (s.onT fun t => t.setOp o).send 3 win tag a.ua (if wide then 8 else 4) (bytesOfNat 8 a.x ++ if cas then bytesOfNat 8 a.y else [])
    0 aop o.id a.lane

/-- One lane of an atomic: performed here, or sent to a peer and waiting for its answer. -/
def State.atomicLane (s : State) (op : Nat) (lane : Nat) : State :=
  match s.t.op op with
  | some o =>
    match o.work with
    | .atomic space wide cas ret aop d acc =>
      match acc.find? fun a => a.lane = lane with
      | some a =>
        if a.done || a.tag.isSome || acc.any (fun b => b.lane < lane && !b.done) then s
        else match a.win with
          | some w => s.sendAtomic o wide cas aop w acc a
          | none =>
            if space = 3 && !s.servable a.ua true then s
            else
              let (s, o) := s.performAtomic o space wide cas ret aop d a
              let acc := markDone acc lane
              s.afterLanes { o with work := .atomic space wide cas ret aop d acc } acc
      | none => s
    | _ => s
  | none => s

/-- ATOMIC_PERFORM: lanes of an atomic reach their execution place, in ascending order (R18, R114, R180). Subject: train, operation, lane; a
lane beyond the last stands for all that are left. -/
def execAtomicPerform (s : State) : Host.Outcome State Fault Refusal :=
  let s := s.stage s.subject.a
  match s.t.op s.subject.b with
  | some o =>
    if !s.mayPerform o then .next s
    else match o.work with
      | .atomic _ _ _ _ _ _ acc =>
        .next ((acc.map LaneAcc.lane).foldl (fun (u : State) l =>
          if 64 ≤ s.subject.c || l = s.subject.c then u.atomicLane o.id l else u) s)
      | _ => .next s
  | none => .next s

end Sys2Proof.Machine
end

