-- ==== Sys2Proof/Machine/System.lean ====
section
/-! DEFINITION. State registers, returns, saved contexts, `quies`, `tinv`, `spawn` and `svc` (R339 to R346, R363, R364). -/
namespace Sys2Proof.Machine

/-- A Boolean as a bit of a register. -/
def bitAt (b : Bool) (i : Nat) : Nat := if b then 2 ^ i else 0

/-- TRAPMASK as read (R186). -/
def Train.trapMask (t : Train) : Nat := bitAt t.x.preempt.isSome 2 + bitAt t.x.priv 1 + bitAt t.x.now.mask 0

/-- A state register as a lane reads it, but for CYCLES (R339, R341). -/
def State.stateReg (s : State) (reg lane : Nat) : Dword :=
  let t := s.t
  let n := fun (x : Nat) => BitVec.ofNat 64 x
  match reg with
  | 0x000 => n lane
  | 0x001 => n t.i.width
  | 0x004 => n t.i.num
  | 0x005 => n (s.recOf t).trains
  | 0x006 => n t.i.team
  | 0x007 => n (s.rankOf t).2
  | 0x008 => n (s.rankOf t).1
  | 0x009 => n t.i.grid
  | 0x00A => n t.core
  | 0x00B => n t.i.role
  | 0x010 => t.d.quantum.zeroExtend 64
  | 0x012 => t.old.fpflags.zeroExtend 64
  | 0x020 => t.x.now.cause
  | 0x021 => t.x.now.lanes
  | 0x022 => t.x.now.region
  | 0x023 => t.x.now.pc
  | 0x024 => n t.trapMask
  | 0x025 => t.x.now.info
  | 0x030 => t.x.grace.zeroExtend 64
  | 0x031 => match s.part t.i.part with
    | some p => p.ageLimit.zeroExtend 64
    | none => 0
  | _ => 0

/-- The core's cycle count moves on, by how much is open (R144). DESIGN CHOICE, safe (log 6). -/
def State.countCycles (s : State) : State :=
  s.onCore s.t.core fun c => { c with cycles := c.cycles + Config.cycleGap s.t.core s.tick }

/-- The register that `rdst` or `wrst` names by its form, with its pair (R339). -/
def needsState (form : BitVec 2) (d : Fld) : List Need :=
  match form.toNat with
  | 0 => [.v d.toNat 0]
  | 1 => [.v d.toNat 1]
  | _ => [.s d.toNat 0]

/-- `rdst` of a value by lane (R339). -/
def readState (form : BitVec 2) (d : Fld) (e : Mask) (x : Nat → Dword) (t : Train) : Train :=
  match form.toNat with
  | 0 => t.putV d.toNat e fun l => (x l).extractLsb' 0 32
  | 1 => t.putVV d.toNat e x
  | _ => t.putS d.toNat (x (lowest e))

/-- `rdst` (R339). -/
def execRdst (c : Ctl) (d : Fld) (form : BitVec 2) (reg : BitVec 12) (s : State) : Host.Outcome State Fault Refusal :=
  word (.rdst c d form reg) false (needsState form d)
    (fun s =>
      let e := s.t.act c
      if e = 0 then s.done
      else
        let s := if reg = 0x018#12 then s.countCycles else s
        let x := fun l => if reg = 0x018#12 then (s.core s.t.core).cycles else s.stateReg reg.toNat l
        (s.onT (readState form d e x)).done) s

/-- The state registers that hold a field only a handler may write (R186, R251, R340). -/
def privilegedReg (reg : Nat) : Bool := reg = 0x023 || reg = 0x024 || reg = 0x030 || reg = 0x031

/-- FPFLAGS takes a value, or its group's does (R212, R320). -/
def Train.setFpflags (t : Train) (x : Word) : Train :=
  match t.group with
  | none => t.withR { t.r with fpflags := x }
  | some g => { t with group := some { g with fpset := some x } }

/-- A state register takes a value; what cannot be written stays (R340). -/
def State.setStateReg (s : State) (reg : Nat) (x : Dword) : State :=
  match reg with
  | 0x010 => s.onT fun t => { t with d := { t.d with quantum := x.truncate 32 &&& 0xFF } }
  | 0x012 => s.onT fun t => t.setFpflags (x.truncate 32 &&& 0x1F)
  | 0x023 => s.onT fun t => { t with x := { t.x with now := { t.x.now with pc := x &&& 0xFF_FFFF_FFFF_FFFC } } }
  | 0x024 => s.onT fun t => { t with x := { t.x with now := { t.x.now with mask := x.getLsbD 0 } } }
  | 0x030 => s.onT fun t => { t with x := { t.x with grace := x.truncate 32 } }
  | 0x031 => s.onPart s.t.i.part fun p => { p with ageLimit := x.truncate 32 &&& 0xFFFF }
  | _ => s

/-- The value that `wrst` takes (R340). -/
def Train.stateSource (t : Train) (form : BitVec 2) (d : Fld) (e : Mask) : Dword :=
  match form.toNat with
  | 0 => (t.v d (lowest e)).zeroExtend 64
  | 1 => t.vv d (lowest e)
  | _ => t.s d

/-- `wrst` (R340). -/
def execWrst (c : Ctl) (d : Fld) (form : BitVec 2) (reg : BitVec 12) (s : State) : Host.Outcome State Fault Refusal :=
  word (.wrst c d form reg) (privilegedReg reg.toNat) (needsState form d)
    (fun s =>
      let e := s.t.act c
      if e = 0 then s.done else (s.setStateReg reg.toNat (s.t.stateSource form d e)).done) s

/-- A return from a handler: it may be refused, or have to wait (R185, R188, R195, R199). -/
def returnBody (replay : Bool) (s : State) : State :=
  match s.eretRefusal replay with
  | some 3 => s.stopTeam 3 0x24 3 (refusedInfo 3 s.t.pc) s.t.pc
  | some r => s.refuse r
  | none => if s.eretWaits then s.hold .wait else s.conclude (.eret replay) false false false 4

/-- `eret` (R342). -/
def execEret (k : Bool) (s : State) : Host.Outcome State Fault Refusal := word (.eret k) true [] (returnBody false) s

/-- `eret.replay` (R342). -/
def execEretReplay (k : Bool) (s : State) : Host.Outcome State Fault Refusal := word (.eretReplay k) true [] (returnBody true) s

/-- `tinv`: translations are always current, so it changes nothing (R343). -/
def execTinv (k : Bool) (a : Fld) (kind : BitVec 2) (s : State) : Host.Outcome State Fault Refusal :=
  word (.tinv k a kind) true [.s a.toNat 0] State.done s

/-- `quies` (R346). -/
def execQuies (k : Bool) (d : Fld) (s : State) : Host.Outcome State Fault Refusal :=
  word (.quies k d) true [.s d.toNat 0]
    (fun s => (s.onT fun t => t.putS d.toNat (BitVec.ofNat 64 s.quiescence)).done) s

/-- Must `csave` wait: until every train of the team has taken its pre-emption, and the train's counters have retired (R195)? -/
def State.csaveWaits (s : State) : Bool :=
  !s.t.c.ops.isEmpty ||
  (s.teamTrains s.t.i.grid s.t.i.team).any fun id => match s.train id with
    | some t => t.life = .running && t.x.preempt.isSome
    | none => false

/-- The part of a table from a key on. -/
def fromKey {α : Type} (k : Nat) (m : Sparse α) : Sparse α := m.filter fun e => k ≤ e.1

/-- The context of the train on the issue stage, with the trap registers as they stood at its entry (R196, R199). DEDUCED, safe (log 49). -/
def State.context (s : State) : Context where
  frozen := s.t.x.frozen
  siding := s.t.d.siding
  v := fromKey (120 * 64) s.t.r.v
  s := fromKey 56 s.t.r.s
  p := fromKey 120 s.t.r.p
  err := s.t.c.err
  pins := s.t.pins
  quantum := s.t.d.quantum
  grace := s.t.x.grace
  trap := s.t.x.entry
  gen := (s.myTeam.map Team.matrixGen).getD 0

/-- `csave` (R195, R344): the bytes behind the header are the implementation's and free values; a second one in its entry writes the same
image again. -/
def execCsave (k : Bool) (s : State) : Host.Outcome State Fault Refusal :=
  word (.csave k) true []
    (fun s =>
      if s.csaveWaits then s.hold .wait
      else
        let at_ := if s.t.x.saved then s.t.x.savedAt else s.tick
        let body := (List.range (csaveLength - 64)).map fun i => Config.imageByte at_ i
        let s := match s.myTeam with
          | some m => { s with m := s.m.deviceWrite s.t.i.part (m.record s.t.i.num) (saveHeader csaveLength 0 ++ body) }
          | none => s
        if s.t.x.saved then s.done
        else (s.onT fun t => { t with x := { t.x with saved := true, savedAt := at_, context := some s.context } }).done) s

/-- Does a save image's header fail its checks: VERSION, LENGTH, ENTRIES and the reserved fields (R368)? `bits` is where its reserved
field begins. -/
def saveHeaderBad (v longest bits : Nat) : Bool :=
  natBits v 0 16 ≠ Config.saveVersion || natBits v 16 32 < 64 || longest < natBits v 16 32 || v / 2 ^ bits ≠ 0 || 64 < natBits v 48 8

/-- `crest` reads the headers of both images of the train, and meets their uncorrectable words (R74, R368). -/
def State.meetImages (s : State) : State :=
  match s.myTeam with
  | none => s
  | some m => { s with m := (s.m.meetRange s.t.i.part (m.record s.t.i.num) 64).meetRange s.t.i.part (m.area + 0x2F0000 + 0x20000 * s.t.i.num) 64 }

/-- Do the headers of both images of the train fail (R368)? -/
def State.imagesBad (s : State) : Bool :=
  match s.myTeam with
  | none => true
  | some m =>
    let head := fun va => natOfBytes (s.m.deviceRead s.t.i.part va 64)
    saveHeaderBad (head (m.record s.t.i.num)) 8192 48 || saveHeaderBad (head (m.area + 0x2F0000 + 0x20000 * s.t.i.num)) 131072 56

/-- The pins become those of a context (R90, R196). -/
def State.setPins (s : State) (pins : List (Nat × Nat)) : State :=
  let s := (s.t.pins.filter fun p => !pins.contains p).foldl (fun (u : State) p => u.unpin s.t.i.part p) s
  let new := pins.filter fun p => !s.t.pins.contains p
  let s := s.onT fun t => { t with pins := t.pins.filter fun p => pins.contains p }
  new.foldl State.pin s

/-- The context is loaded (R196, R199). -/
def Train.load (t : Train) (c : Context) : Train :=
  { t with
    r := { t.r with v := (t.r.v.filter fun e => e.1 < 120 * 64) ++ c.v, s := (t.r.s.filter fun e => e.1 < 56) ++ c.s,
                    p := (t.r.p.filter fun e => e.1 < 120) ++ c.p },
    d := { t.d with siding := (t.d.siding.filter fun e => !(c.siding.any fun f => f.index = e.index)) ++ c.siding,
                    quantum := c.quantum },
    c := { t.c with err := c.err },
    x := { t.x with frozen := c.frozen, now := c.trap, grace := c.grace, restored := true } }

/-- Has the train stores of its own that are not performed (R199)? -/
def Train.storing (t : Train) : Bool := t.c.ops.any Op.pendingStore

/-- `crest` (R199, R344). DEDUCED, safe (log 43). -/
def execCrest (k : Bool) (s : State) : Host.Outcome State Fault Refusal :=
  word (.crest k) true []
    (fun s =>
      if !s.t.x.resume then s.refuse 2
      else if s.t.storing then s.hold .wait
      else match s.t.x.context with
        | none => s.stopTeam 3 0x24 4 (refusedInfo 4 s.t.pc) s.t.pc
        | some c =>
          let s := s.meetImages
          if s.imagesBad then s.stopTeam 3 0x24 4 (refusedInfo 4 s.t.pc) s.t.pc
          else
            let (s, again) := s.reissueAll s.t.x.stores
            let s := (s.setPins c.pins).onT fun t => t.load c
            let s := s.onT fun t => { t with c := { t.c with ops := t.c.ops ++ again }, x := { t.x with stores := [] } }
            (s.done).retire) s

/-- The check of a launch record's place: aligned to 32, mapped and readable in all its parts, in no team area: the trap in the lanes `e` (R62,
R196, R363). -/
def State.recordFault (s : State) (e : Mask) (part va : Nat) : Option (Nat × Mask × Dword) :=
  (worstFault 3 ((List.range 5).filterMap fun i =>
    (s.globalFault part (va + 32 * i) 32 rightRead false false).map fun f => ⟨0, f.1, f.2, va + 32 * i⟩)).map fun f => (f.1, e, f.2.2)

/-- The launch of `spawn`: its status, and the state with the grid accepted (R123, R363). -/
def State.spawnGrid (s : State) (queue v : Nat) : State × Nat :=
  let part := s.t.i.part
  let st := s.checkLaunch part queue v
  if st = 0 then
    let r := readLaunch v
    (s.acceptGrid part queue (((s.imageAt part r.entry).map Image.num).getD 0) r none 0, s.q.nextSeq)
  else (s, 2 ^ 63 + st)

/-- The body of `spawn` (R363), a release at system scope, also where it is guarded off in every lane (R107, R118). -/
def spawnBody (c : Ctl) (d a : Fld) (queue : BitVec 4) (s : State) : State :=
  let e := s.t.act c
  let va := (s.t.s a).toNat
  if e = 0 then (s.orderOnly ⟨0, 4, false⟩).doneEnding 4
  else s.orRaise (s.recordFault e s.t.i.part va) fun s =>
    if !s.t.unperformed.isEmpty then s.hold .wait
    else s.withRecord e va 160 fun b s =>
      let (s, x) := s.spawnGrid queue.toNat (natOfBytes b)
      (s.onT fun t => t.putS d.toNat (BitVec.ofNat 64 x)).doneEnding 4

/-- `spawn` (R363). -/
def execSpawn (c : Ctl) (d a : Fld) (queue : BitVec 4) (s : State) : Host.Outcome State Fault Refusal :=
  word (.spawn c d a queue) false [.s d.toNat 0, .s a.toNat 0] (coupled (spawnBody c d a queue)) s

/-- What `svc` returns for a code (R364). -/
def State.svcValue (s : State) (t : Train) (code : Nat) : Dword :=
  let n := fun (x : Nat) => BitVec.ofNat 64 x
  let p := s.part t.i.part
  match code with
  | 0x0000 => 0
  | 0x0001 => n ((p.map fun p => (s.coresOf p).length).getD 0)
  | 0x0002 => n ((p.map fun p => p.hbm * 2 ^ 30).getD 0)
  | 0x0003 => n ((p.map fun p => p.deep * 2 ^ 36).getD 0)
  | 0x0004 => n (s.core t.core).stall
  | 0x0005 => n (Config.eventEntries - s.q.events.length)
  | 0x0010 => n Config.clockMHz
  | _ => BitVec.allOnes 64

/-- `svc` has its answer: it is written, and the word goes on (R364). DEDUCED, safe (log 75). -/
def State.svcDone (s : State) (d : Fld) (x : Dword) : State :=
  (s.onT fun t => (t.setSplit { t.split with asleep := false, asked := none, answer := none }).putS d.toNat x).doneEnding 4

/-- `svc` (R364). -/
def execSvc (c : Ctl) (d : Fld) (code : BitVec 14) (s : State) : Host.Outcome State Fault Refusal :=
  word (.svc c d code) false [.s d.toNat 0]
    (fun s =>
      if s.t.act c = 0 then s.doneEnding 4
      else match s.t.split.answer with
        | some x => s.svcDone d x
        | none => s.hold (.asleep (some code.toNat))) s

/-- The service replies to the `svc` that a slot of the subject train holds (R364); in a chained group its group then issues. Subject:
train, slot. -/
def execSvcReply (s : State) : Host.Outcome State Fault Refusal :=
  let s := s.stage s.subject.a
  let one := s.subject.b = 1
  let sp := s.t.slot one
  match sp.asked with
  | none => .next s
  | some code =>
    if s.t.life ≠ .running || s.t.i.id ≠ s.subject.a || sp.mask = 0 then .next s
    else
      let s := if code = 0x0004 then s.countStall s.t.core else s
      let x := s.svcValue s.t code
      match s.instrAt s.t.i.part sp.pc with
      | some (.svc _ d _) => .next ((s.onT fun t => { t with d := { t.d with cur := one } }).svcDone d x)
      | _ => .next (s.onT fun t => (t.setSlot one { sp with asleep := false, asked := none, answer := some x }).turn)

end Sys2Proof.Machine
end

