-- ==== Sys2Proof/Machine/Service.lean ====
section
/-! DEFINITION. Client requests but for image loads: their checks, replies, mappings, copies, launches, waits, figures, partitions and
catalogue images (R25 to R38, R64, R65, R365, R366). -/
namespace Sys2Proof.Machine

/-- The service replies to a request (R26). -/
def State.reply (s : State) (r : Req) (status : Nat) (values : List Nat) (bytes : List Byte) : State :=
  { s with q := { s.q with replies := s.q.replies ++ [⟨r.reqid, r.kind, r.part, r.endpoint, status, values, bytes⟩] } }

/-- A reply of a status alone. -/
def State.answer (s : State) (r : Req) (status : Nat) : State := s.reply r status [] []

/-- Is the request's header malformed: a nonzero reserved field, or a BODYLEN that disagrees with the message (R26)? -/
def malformed (r : Req) : Bool := r.reserved != 0 || r.bodyLen.toNat != r.bodyGot

/-- BODYLEN of a reply: a figure takes 8 bytes of the body, a byte one (R26). DESIGN CHOICE, unsafe (log 107). -/
def Reply.bodyLen (y : Reply) : Nat := 8 * y.values.length + y.bytes.length

/-- Serve a request that names no partition: its header's check, then `body`. A request by a port that carries no traffic is not
heard; in the red-signal state only `red` answers (R13, R33, R34). DEDUCED, safe (log 87). A malformed header is answered before anybody looks
at whose request it is. DESIGN CHOICE, unsafe (log 140). -/
def serveAny (r : Req) (red : Option (State → State)) (body : State → State) (s : State) : Host.Outcome State Fault Refusal :=
  if !s.portRuns r.port then .next s
  else match s.k.phase with
    | .accepting => .next (if malformed r then s.answer r 0x01 else body s)
    | .redSignal => .next (match red with
      | some f => if malformed r then s.answer r 0x01 else f s
      | none => s.answer r 0x08)
    | _ => .next s

/-- Serve a request for a partition, whose endpoint must be its client (R26). -/
def serve (r : Req) (red : Option (State → State)) (body : State → State) (s : State) : Host.Outcome State Fault Refusal :=
  serveAny r red (fun s => match s.part r.part with
    | none => s.answer r 0x02
    | some p => if p.clients.contains r.endpoint then body s else s.answer r 0x02) s

/-- Is the message under way one that waits already, tried again? Each that waits is known by the step at which it came, in its subject's third
figure, so that an equal one which comes meanwhile is another (R26). DEDUCED, unsafe (log 74). -/
def State.waits (s : State) (i : Instr) : Bool := s.q.pending.contains (.event i s.subject)

/-- A request waits for frames (R367), or a message of a peer for its home slice (R69). -/
def State.park (s : State) (i : Instr) : State :=
  if s.waits i then s else { s with q := { s.q with pending := s.q.pending ++ [.event i ⟨0, 0, s.tick + 1⟩] } }

/-- The message under way waits no more. -/
def State.unpark (s : State) (i : Instr) : State :=
  { s with q := { s.q with pending := s.q.pending.filter fun b => b != Act.event i s.subject } }

/-- Serve a request for a partition that may wait for frames; once it has been answered it waits no more (R367). -/
def serveWaiting (r : Req) (i : Instr) (body : State → State) (s : State) : Host.Outcome State Fault Refusal :=
  match serve r none body s with
  | .next u => .next (if u.q.replies.length = s.q.replies.length then u else u.unpark i)
  | o => o

/-- Serve a request that only the management port takes (R30, R35). -/
def serveMgmt (r : Req) (body : State → State) (s : State) : Host.Outcome State Fault Refusal :=
  serveAny r none (fun s => if r.port = 8 then body s else s.answer r 0x02) s

/-- A request of unknown kind (R26). -/
def execUnknownKindRequest (r : Req) (kind : Nat) (s : State) : Host.Outcome State Fault Refusal :=
  let r := { r with kind := kind }
  serveAny r none (fun s => s.answer r 0x01) s

/-- Is the event table full (R27, R28)? -/
def State.eventsFull (s : State) : Bool := Config.eventEntries ≤ s.q.events.length

/-- The report of a complete event to a wait: its completion status, which is the reply's too, and for a copy the lowest address that it could
not move (R27, R28, R366). DEDUCED, unsafe (log 74). -/
def State.report (s : State) (r : Req) (e : Event) (status : Nat) : State :=
  s.reply r status (status :: e.addr.toList) []

/-- The request that a wait stands for. -/
def Waiting.req (w : Waiting) : Req := ⟨w.reqid, 0x07, w.part, 0, 0, 0, w.endpoint, 0⟩

/-- An event completes with a status. The first wait for it reports it and frees its entry; to the others it is freed already
(R28). DEDUCED, unsafe (log 74). -/
def State.completeEvent (s : State) (seq status : Nat) (addr : Option Nat) : State :=
  let mine := s.q.waiting.filter fun w => w.seq = seq
  match s.q.events.find? fun e => e.seq = seq with
  | none => s
  | some e =>
    let e := { e with status := some status, addr := addr }
    match mine with
    | [] => { s with q := { s.q with events := s.q.events.map fun o => if o.seq = seq then e else o } }
    | w :: ws =>
      let s := { s with q := { s.q with events := s.q.events.filter fun o => o.seq != seq,
                                        waiting := s.q.waiting.filter fun w => w.seq != seq } }
      ws.foldl (fun (u : State) w => u.answer w.req 0x01) (s.report w.req e status)

/-- `wait for event` (R28). -/
def waitBody (r : Req) (seq : Nat) (s : State) : State :=
  if seq = 0 || s.q.nextSeq ≤ seq then s.answer r 0x01
  else if !s.q.issuedBy.contains (seq, r.part) then s.answer r 0x02
  else match s.q.events.find? fun e => e.seq = seq with
    | none => s.answer r 0x01
    | some e => match e.status with
      | some st => { s with q := { s.q with events := s.q.events.filter fun o => o.seq != seq } }.report r e st
      | none => { s with q := { s.q with waiting := s.q.waiting ++ [⟨r.reqid, r.endpoint, r.part, seq⟩] } }

/-- `wait for event` (R28). Its time limit runs out by an event of its own. -/
def execWaitForEvent (r : Req) (seq _ : Nat) (s : State) : Host.Outcome State Fault Refusal :=
  let r := { r with kind := 0x07 }
  serve r none (waitBody r seq) s

/-- The time limit of a pending wait runs out; the work goes on (R28). Of several waits under one identifier, which the client chose, the
one that came first is answered. Subject: request identifier, endpoint. DEDUCED, unsafe (log 74). -/
def execWaitTimeLimit (s : State) : Host.Outcome State Fault Refusal :=
  let mine := fun (w : Waiting) => decide (w.reqid.toNat = s.subject.a) && decide (w.endpoint = s.subject.b)
  match s.q.waiting.find? mine with
  | some w => .next (State.answer { s with q := { s.q with waiting := s.q.waiting.eraseP mine } } w.req 0x07)
  | none => .next s

/-- The size of the pages that a PAGESIZE names (R64, R65). -/
def pageBytes (code : Nat) : Nat :=
  match code with
  | 0 => 2 ^ 16
  | 1 => 2 ^ 21
  | _ => 2 ^ 29

/-- The fields of a map request's attributes (R65). -/
structure Attrs where
  rights   : Nat
  tolerant : Bool
  subst    : Nat
  dormant  : Bool
  page     : Nat
  hint     : Nat
  deriving DecidableEq, Repr

/-- Read the attributes word; none where a reserved field or value stands, or SUBST without TOLERANT (R65). -/
def readAttrs (w : Word) : Option Attrs :=
  let v := w.toNat
  let a : Attrs := ⟨natBits v 0 3, v.testBit 5, natBits v 6 2, v.testBit 8, pageBytes (natBits v 9 2), natBits v 11 2⟩
  if natBits v 3 2 ≠ 0 || v / 2 ^ 13 ≠ 0 || natBits v 9 2 = 3 || a.hint = 3 || (!a.tolerant && a.subst ≠ 0) then none else some a

/-- Is this range one that a map request may take: aligned, below 2^56, and free (R58, R64, R78)? -/
def State.mapsInto (s : State) (part addr len align : Nat) : Bool :=
  addr % align = 0 && len % align = 0 && addr + len ≤ 2 ^ 56 && (len = 0 || clearOf (s.taken part) addr len)

/-- The granules of a new mapping: fast while frames are free and the hint does not say deep, else deep (R65, R71, R77). DESIGN CHOICE, safe (log 24). -/
def State.newGrans (s : State) (part n : Nat) (a : Attrs) : List Gran :=
  let fast := if a.hint = 1 then n - min n (s.deepRoom part) else min n (s.freeFrames part)
  let g := fun (t : Tier) (pin : Bool) => Gran.start part t a.dormant pin
  if a.hint = 2 then List.replicate n (g .fast true)
  else if a.hint = 1 then List.replicate (n - fast) (g .deep false) ++ List.replicate fast (g .fast false)
  else List.replicate fast (g .fast false) ++ List.replicate (n - fast) (g .deep false)

/-- Would some granule of a new mapping start deep? -/
def State.startsDeep (s : State) (part n : Nat) (a : Attrs) : Bool := (s.newGrans part n a).any fun g => g.tier = .deep

/-- Pages are mapped (R64, R65, R68). -/
def State.mapPages (s : State) (part addr len : Nat) (a : Attrs) : State :=
  let n := len / 65536
  let gs := s.newGrans part n a
  let (m, ua, _) := s.m.takeUa len a.page
  { s with m := { (m.addGrans (granuleOf ua) gs) with
      maps := m.maps ++ [⟨part, addr, len, ua, a.page, a.rights, a.tolerant, a.subst, a.hint = 2, false, false⟩] } }

/-- A map request for pages (R27, R64, R65, R71, R73, R78, R367). DEDUCED, safe (log 78). -/
def mapRange (r : Req) (addr len : Nat) (attrs : Word) (i : Instr) (s : State) : State :=
  match readAttrs attrs with
  | none => s.answer r 0x01
  | some a =>
    let n := len / 65536
    if !s.mapsInto r.part addr len a.page then s.answer r 0x01
    else if len = 0 then s.answer r 0x00
    else if !s.sharesFit r.part n || (a.hint = 2 && !s.pinsFit r.part n) ||
        (a.hint ≠ 2 && s.k.flashFull && s.startsDeep r.part n a) then s.answer r 0x03
    else if s.freeFrames r.part + (if a.hint = 2 then 0 else s.deepRoom r.part) < n then s.park i
    else (s.mapPages r.part addr len a).answer r 0x00

/-- Remote-window entries of a partition. -/
def State.windowsOf (s : State) (part : Nat) : Nat := (s.k.windows.filter fun w => w.part = part).length

/-- The number of a new remote-window entry: the lowest not in use (R15, R27). DESIGN CHOICE, unsafe (log 141). -/
def State.freeWindow (s : State) : Nat :=
  ((List.range Config.windowEntries).find? fun n => !(s.k.windows.any fun w => w.num = n)).getD 0

/-- A map request for a remote-window entry (R15, R27, R30). That the peer opens a matching entry is the peer's part: until it has, it
accepts no message (R19). DEDUCED, safe (log 109). -/
def mapWindow (r : Req) (addr len peer peerWindow : Nat) (rights : BitVec 3) (s : State) : State :=
  if !s.mapsInto r.part addr len 65536 || len = 0 then s.answer r 0x01
  else match s.part r.part with
    | none => s.answer r 0x02
    | some p =>
      if p.windows ≤ s.windowsOf r.part then s.answer r 0x03
      else
        let w : Window := ⟨s.k.nextWindow, s.freeWindow, r.part, addr, len, peer, peerWindow, rights.toNat⟩
        State.answer { s with k := { s.k with windows := s.k.windows ++ [w], nextWindow := s.k.nextWindow + 1 } } r 0x00

/-- `map` (R27). -/
def execMap (r : Req) (body : MapBody) (s : State) : Host.Outcome State Fault Refusal :=
  let i := Instr.map r body
  let r := { r with kind := 0x02 }
  serveWaiting r i (match body with
    | .pages addr len attrs => mapRange r addr.toNat len.toNat attrs i
    | .window addr len peer peerWindow rights => mapWindow r addr.toNat len.toNat peer peerWindow rights) s

/-- Is every page, window and held range that a range touches such that it may be unmapped: large pages and windows whole, and nothing
that the device placed (R59, R64)? DEDUCED, safe (log 25). -/
def State.unmapsCleanly (s : State) (part addr len : Nat) : Bool :=
  let hi := addr + len
  (s.m.maps.all fun p =>
    let lo := max addr p.va
    let top := min hi (p.va + p.len)
    p.part != part || top ≤ lo || (!p.held && (lo - p.va) % p.page = 0 && (top - p.va) % p.page = 0)) &&
  s.k.windows.all fun w => w.part != part || w.va + w.len ≤ addr || hi ≤ w.va || (addr ≤ w.va && w.va + w.len ≤ hi)

/-- The entries that `keep` does not keep are closed: later accesses do not see them, and peers' transfers to them are over (R17, R29). -/
def Package.closeWindows (k : Package) (keep : Window → Bool) : Package :=
  let gone := k.windows.filter fun w => !keep w
  { k with windows := k.windows.filter keep, closed := k.closed ++ gone,
           broken := k.broken.filter fun b => !(gone.any fun w => w.num = b.2.1) }

/-- `unmap` (R29, R64, R70, R80, R81). -/
def unmapBody (r : Req) (addr len : Nat) (s : State) : State :=
  if addr % 65536 ≠ 0 || len % 65536 ≠ 0 || !s.unmapsCleanly r.part addr len then s.answer r 0x01
  else
    let out := fun (w : Window) => w.part != r.part || w.va + w.len ≤ addr || addr + len ≤ w.va
    State.answer { s with m := s.m.unmapRange r.part addr len, k := s.k.closeWindows out } r 0x00

/-- `unmap` (R29, R64). -/
def execUnmap (r : Req) (addr len : Dword) (s : State) : Host.Outcome State Fault Refusal :=
  let r := { r with kind := 0x03 }
  serve r none (unmapBody r addr.toNat len.toNat) s

/-- Does a byte of a partition's space allow a copy: mapped with the right, outside windows and team areas (R196, R365)? -/
def State.copyMay (s : State) (part a right : Nat) : Bool := (s.globalFault part a 1 right false false).isNone

/-- Do all bytes of a range, looked at granule by granule? -/
def State.copyMayAll (s : State) (part addr len right : Nat) : Bool :=
  (List.range ((addr + len - 1) / 65536 + 1 - addr / 65536)).all fun i =>
    s.copyMay part (max addr ((addr / 65536 + i) * 65536)) right

/-- Does a copy receive *bad request* (R365)? -/
def State.copyBad (s : State) (part addr len : Nat) (after : List Nat) (right : Nat) : Bool :=
  !s.afterOk part after || (len ≠ 0 && (2 ^ 56 < addr + len || !s.copyMayAll part addr len right))

/-- The number of 256-byte chunks that a range touches (R366). -/
def chunkCount (addr len : Nat) : Nat := if len = 0 then 0 else (addr + len - 1) / 256 + 1 - addr / 256

/-- A copy is accepted (R27, R365). -/
def State.acceptCopy (s : State) (r : Req) (out : Bool) (addr len : Nat) (after : List Nat) (data : Sparse Byte) : State :=
  let c : Copy := ⟨s.q.nextSeq, r.part, r.reqid, r.endpoint, out, addr, len, after, data, List.range (chunkCount addr len), none⟩
  let s := s.newSeq r.part true
  { s with q := { s.q with copies := s.q.copies ++ [c] } }

/-- A copy request (R27, R365): its check, then its number. A copy out replies when it completes. DEDUCED, safe (log 76). -/
def copyBody (r : Req) (out : Bool) (addr len : Nat) (after : List Nat) (data : List Byte) (s : State) : State :=
  if (!out && data.length ≠ len) || s.copyBad r.part addr len after (if out then rightRead else rightWrite) then s.answer r 0x01
  else if s.eventsFull then s.answer r 0x03
  else
    let u := s.acceptCopy r out addr len after (Table.setList 0 [] 0 data)
    if out then u else u.reply r 0x00 [s.q.nextSeq] []

/-- `copy in` (R365). -/
def execCopyIn (r : Req) (addr len : Dword) (after : List Nat) (data : List Byte) (s : State) : Host.Outcome State Fault Refusal :=
  let r := { r with kind := 0x04 }
  serve r none (copyBody r false addr.toNat len.toNat after data) s

/-- `copy out` (R365). -/
def execCopyOut (r : Req) (addr len : Dword) (after : List Nat) (s : State) : Host.Outcome State Fault Refusal :=
  let r := { r with kind := 0x05 }
  serve r none (copyBody r true addr.toNat len.toNat after []) s

/-- The 32-byte words of the bytes from `lo` to `hi`, each as its first byte inside and the one after its last (R366). -/
def wordRanges (lo hi : Nat) : List (Nat × Nat) :=
  (List.range ((hi - 1) / 32 + 1 - lo / 32)).map fun i => (max lo ((lo / 32 + i) * 32), min hi ((lo / 32 + i) * 32 + 32))

/-- The copy has met a word that it could not move. -/
def Copy.miss (c : Copy) (a : Nat) : Copy :=
  let w := a / 32 * 32
  { c with bad := some (match c.bad with
    | some b => min b w
    | none => w) }

/-- One word of a copy at its unified address (R75, R76, R78, R366). -/
def copyWord (ua : Nat → Nat) (acc : Store × Copy) (w : Nat × Nat) : Store × Copy :=
  let (m, c) := acc
  let n := w.2 - w.1
  if c.out then
    match m.read (ua w.1) n with
    | (m, some b) => (m, { c with data := Table.setList 0 c.data (w.1 - c.addr) b })
    | (m, none) => (m, c.miss w.1)
  else
    let (m, ok) := m.write (ua w.1) (Table.getList 0 c.data (w.1 - c.addr) n) (coveredWords (ua w.1) n)
    (m, if ok then c else c.miss w.1)

/-- One chunk of a copy is performed, or waits at its home slice (R69, R366). -/
def State.copyChunk (s : State) (c : Copy) (k : Nat) : State × Copy :=
  let lo := max c.addr ((c.addr / 256 + k) * 256)
  let hi := min (c.addr + c.len) ((c.addr / 256 + k) * 256 + 256)
  let gone : Copy := { c with left := c.left.filter fun j => j != k }
  match (if s.copyMay c.part lo (if c.out then rightRead else rightWrite) then s.m.translate c.part lo else none) with
  | none => (s, gone.miss lo)
  | some ua =>
    if s.servable ua (!c.out) then
      let (m, c) := (wordRanges lo hi).foldl (copyWord fun a => ua + (a - lo)) (s.m, gone)
      ({ s with m := m }, c)
    else ((s.homeAccess ua (!c.out)).getD s, c)

/-- The request that a copy stands for. -/
def Copy.req (c : Copy) : Req := ⟨c.reqid, if c.out then 0x05 else 0x04, c.part, 0, 0, 0, c.endpoint, 0⟩

/-- A copy completes with a status (R365, R366). -/
def State.copyDone (s : State) (c : Copy) (st : Nat) : State :=
  let s := State.completeEvent { s with q := { s.q with copies := s.q.copies.filter fun o => o.seq != c.seq } } c.seq st c.bad
  if c.out then s.reply c.req st (c.seq :: c.bad.toList) (Table.getList 0 c.data 0 c.len) else s

/-- A copy all of whose chunks have been performed completes (R365, R366). -/
def State.copyEnd (s : State) (c : Copy) : State :=
  if c.left.isEmpty then s.copyDone c (if c.bad.isSome then 0x0B else 0x00)
  else { s with q := { s.q with copies := s.q.copies.map fun o => if o.seq = c.seq then c else o } }

/-- The service core that performs a copy fails at run time: the copy completes with *hardware fault*, and its other chunks are not
performed (R38, R366). DEDUCED, unsafe (log 110). -/
def State.copyFailed (s : State) (seq : Nat) : State :=
  match s.q.copies.find? fun c => c.seq = seq with
  | some c => s.copyDone c 0x09
  | none => s

/-- The service cores perform a chunk of an accepted copy whose after list has completed (R27, R366). Subject: sequence number, chunk; a
chunk beyond the last stands for all that are left. -/
def execCopyPerform (s : State) : Host.Outcome State Fault Refusal :=
  match s.q.copies.find? fun c => c.seq = s.subject.a with
  | none => .next s
  | some c =>
    if !(c.after.all fun a => a = 0 || s.completed a) then .next s
    else
      let ks := if chunkCount c.addr c.len ≤ s.subject.b then c.left else c.left.filter fun k => k = s.subject.b
      let (s, c) := ks.foldl (fun (p : State × Copy) k => p.1.copyChunk p.2 k) (s, c)
      .next (s.copyEnd c)

/-- The service reads `n` 32-byte words of a partition's space, which meets the tier map and the uncorrectable words there (R69, R74): the state
after it, and the bytes; none while a line is still to come. A poisoned word is read as it stands. DEDUCED, safe (log 77). -/
def State.serviceRead (s : State) (part va n : Nat) : State × Option (List Byte) :=
  let vas := (List.range n).map fun i => va + 32 * i
  let uas := vas.filterMap (s.m.translate part)
  let u := uas.foldl (fun (u : State) ua => (u.homeAccess ua false).getD u) s
  if uas.all fun ua => u.servable ua false then
    let m := vas.foldl (fun (m : Store) a => m.meetRange part a 32) u.m
    ({ u with m := m }, some (vas.map fun a => m.deviceRead part a 32).flatten)
  else (u, none)

/-- A launch request (R27, R56, R121, R123), which waits while its record's lines are still to come. One that names an image that the partition has
not, or a queue above 15, is a bad request. DESIGN CHOICE, unsafe (log 142). -/
def launchBody (r : Req) (image record queue : Nat) (i : Instr) (s : State) : State :=
  let known := s.q.images.any fun i => i.part = r.part && i.num = image
  if !known || 15 < queue || (s.recordFault 0 r.part record).isSome then s.answer r 0x01
  else match s.serviceRead r.part record 5 with
    | (s, none) => s.park i
    | (s, some b) =>
      let v := natOfBytes b
      let st := s.checkLaunch r.part queue v
      if st ≠ 0 then s.answer r st else (s.acceptGrid r.part queue image (readLaunch v) none 0).reply r 0x00 [s.q.nextSeq] []

/-- `launch` (R123). -/
def execLaunch (r : Req) (image : Nat) (record : Dword) (queue : Nat) (s : State) : Host.Outcome State Fault Refusal :=
  let i := Instr.launch r image record queue
  let r := { r with kind := 0x06 }
  serveWaiting r i (launchBody r image record.toNat queue i) s

/-- A Boolean as a figure. DESIGN CHOICE, safe (log 7). -/
def figureOf (b : Bool) : Nat := if b then 1 else 0

/-- Has a mesh column two failed cores (R10, R32)? -/
def twoFailed (cores : List (Nat × Nat)) : Bool := cores.any fun c => cores.any fun d => c.1 = d.1 && c.2 != d.2

/-- Has a stack more than four failed pseudo-channels (R11, R32)? -/
def stackFailed (channels : List (Nat × Nat)) : Bool :=
  channels.any fun c => 4 < ((channels.filter fun d => d.1 = c.1).map Prod.snd).eraseDups.length

/-- The first step of R31 whose test finds an irrecoverable failure, 0 for none (R32, R34). DEDUCED, safe (log 88). -/
def failingStep (f : SelfTest) : Nat :=
  if !f.imageVerified then 1
  else if !f.serviceCores.isEmpty then 2
  else if twoFailed f.cores then 3
  else if stackFailed f.channels then 4
  else if !f.meshLinks.isEmpty then 5
  else if !f.flashOk then 6
  else if !f.management then 7
  else 0

/-- What bring-up has found when it stops at the failing step: no later step has started (R31). The service cores' tests, and the
management port's training, are made for the responder in any case (R34). DEDUCED, safe (log 88). -/
def testsFound (f : SelfTest) : SelfTest :=
  let n := failingStep f
  let upTo := fun (k : Nat) => n = 0 || k ≤ n
  { f with cores := if upTo 3 then f.cores else [], channels := if upTo 4 then f.channels else [],
           meshLinks := if upTo 5 then f.meshLinks else [], flashUnits := if upTo 6 then f.flashUnits else [],
           flashOk := upTo 6 && f.flashOk, lanes := if upTo 7 then f.lanes else [] }

/-- The spares that step 8 puts in place: a column's spare core, a stack's spare pseudo-channels, a port's spare lane, and flash
blocks (R10, R11, R13, R31), each as the step that tested it and the failed unit. -/
def sparesPlaced (f : SelfTest) : List (Nat × Nat × Nat) :=
  if failingStep f ≠ 0 then []
  else (f.cores.eraseDups.map fun c => (3, c.1, c.2)) ++ (f.channels.eraseDups.map fun c => (4, c.1, c.2)) ++
    (f.flashUnits.eraseDups.map fun u => (6, u, 0)) ++
    ((f.lanes.eraseDups.filter fun l => !portDown f l.1).map fun l => (7, l.1, l.2))

/-- The physical row of its column at which a logical core's row stands: the spare, or the failed core that it replaces, is skipped
(R10). -/
def State.physicalRow (s : State) (x y : Nat) : Nat :=
  match s.k.spares.find? fun e => e.1 = 3 && e.2.1 = x with
  | some e => if e.2.2 ≤ y then y + 1 else y
  | none => y

/-- The service core that runs the red-signal responder: the lowest of base die 0 that passed its built-in test (R34). -/
def responderOf (f : SelfTest) : Option Nat := (List.range 4).find? fun c => !f.serviceCores.contains c

/-- The self-test record: the failing step, then the failing units of each test, and the responder (R33, R34). -/
def State.selfTestRecord (s : State) : List Nat :=
  let f := s.k.selfTest
  let units := fun (l : List Nat) => l.length :: l
  let pairs := fun (l : List (Nat × Nat)) => l.length :: (l.map fun p => [p.1, p.2]).flatten
  [failingStep f, figureOf f.imageVerified] ++ units f.serviceCores ++ pairs f.cores ++ pairs f.channels ++ units f.meshLinks ++
    units f.flashUnits ++ [figureOf f.flashOk] ++ pairs f.lanes ++ [figureOf f.management] ++ units s.k.responder.toList

/-- The figures of a granule: its tier state, whether dormant, its page's substitution count, and its poisoned words (R68, R75, R76, R77). -/
def Store.granFigures (m : Store) (g : Nat) : List Nat :=
  match m.gran g with
  | none => []
  | some e =>
    [match e.tier with
     | .fast => 0
     | .deep => 1
     | .promoting => 2
     | .demoting => 3, figureOf e.dormant, Table.get 0 m.substs (m.pageOf (g * 65536)), (m.poison.filter fun w => w / 2048 = g).length]

/-- The figures of a grid: its life, its event's status, its context descriptor when wholly vacated, and each cause (R124, R143, R185,
R200). -/
def State.gridFigures (s : State) (g : Grid) : List Nat :=
  let life := match g.life with
    | .queued => 0
    | .started => 1
    | .complete => 2
  let status := ((s.q.events.find? fun e => e.seq = g.seq).bind Event.status).getD 0
  let desc := ((s.q.descs.find? fun d => d.seq = g.seq && d.part = g.part && d.state = 1).map Desc.addr).getD 0
  [life, status, desc] ++ (g.causes.map fun c => [c.1, c.2.1, c.2.2.1, c.2.2.2.1.toNat, c.2.2.2.2.toNat]).flatten

/-- The figures of an image: each kernel's template and constant block, then each symbol's kind and value (R53, R56), with the symbols of
kinds 0 to 2 among them; the reply's bytes are their names, one after another without lengths. DESIGN CHOICE, unsafe (log 145). -/
def Image.figures (i : Image) : List Nat :=
  ((i.templates.zip i.consts).map fun p => [p.1, p.2.1]).flatten ++ (i.symbols.map fun y => [y.2.1, y.2.2]).flatten

/-- The figures of an object; `clear` zeroes its counts in the same step (R97). -/
def State.objectFigures (s : State) (o : Object) : List Nat :=
  [o.shortfalls, o.hits, o.gen, (o.nodes.filter fun n => n.state = .resident).length, ((s.part o.part).map Part.drops).getD 0]

/-- What a query answers: the state after it and its figures and bytes; none for an item that the partition has not (R27). -/
def State.queryItem (s : State) (part : Nat) : QueryItem → State × Option (List Nat × List Byte)
  | .object h clear =>
    match s.object part h.toNat with
    | none => (s, none)
    | some o =>
      (if clear then s.onObject part h.toNat fun o => { o with shortfalls := 0, hits := 0 } else s, some (s.objectFigures o, []))
  | .granule a => (s, (s.m.translate part a.toNat).map fun ua => (s.m.granFigures (granuleOf ua), []))
  | .grid seq => (s, (s.grid seq).bind fun g => if g.part = part then some (s.gridFigures g, []) else none)
  | .image n => (s, (s.q.images.find? fun i => i.part = part && i.num = n).map fun i => (i.figures, (i.symbols.map Prod.fst).flatten))
  | .core n =>
    if ((s.part part).map fun p => p.x ≤ n % 16 && n % 16 < p.x + p.w && p.y ≤ n / 16 && n / 16 < p.y + p.h) == some true then
      let s := (s.countStall n).countLatency n
      let c := s.core n
      (s, some ([c.stall % 2 ^ 64, c.resets, figureOf c.failed, c.issues, c.packed, c.latency], []))
    else (s, none)
  | .partition => (s, (s.part part).map fun p => ([p.x, p.y, p.w, p.h, p.hbm, p.deep, p.windows] ++ p.cats ++
      ((s.k.windows.filter fun w => w.part = part).map fun w => [w.num, w.va]).flatten, []))
  | .flash => (s, some ([s.k.spareBlocks, s.k.written, Config.figure 0 s.tick, Config.figure 1 s.tick], []))
  | .port n => (s, some ([figureOf (portDown s.k.selfTest n), Table.get 0 s.k.dropped n, Config.figure 3 n], []))
  | .channel n => (s, some ([Table.get 0 s.k.refreshes n, Table.get 0 s.k.corrected n], []))
  | .selfTest => (s, some (s.selfTestRecord, []))

/-- `query` (R27). In the red-signal state it carries the self-test record (R33). An item that the partition has not is a bad request.
DEDUCED, safe (log 111). -/
def execQuery (r : Req) (item : QueryItem) (s : State) : Host.Outcome State Fault Refusal :=
  let r := { r with kind := 0x08 }
  serve r (some fun s => s.reply r 0x00 s.selfTestRecord [])
    (fun s => match s.queryItem r.part item with
      | (s, some (vs, bs)) => s.reply r 0x00 vs bs
      | (s, none) => s.answer r 0x01) s

/-- The catalogue images that stand in some core's control stores (R35). -/
def State.loadedImages (s : State) : List CatEntry :=
  s.k.catalogue.filter fun c => s.d.cores.any fun e => e.2.stores.contains c.num

/-- The report of `attest` (R36): the format version, the nonce, the device key's digest and certificate, the measurements of the boot
ROM, the service image and the loaded catalogue images, the partition count, the red-signal flag and the substituted spares. DESIGN
CHOICE, unsafe (log 83). -/
def State.attestReport (s : State) (nonce : List Byte) : List Byte :=
  bytesOfNat 4 (Config.figure 5 0) ++ nonce ++ Config.fixedMeasurements.flatten ++
    (s.loadedImages.map fun c => Config.measurement c.bytes).flatten ++ bytesOfNat 1 s.q.parts.length ++
    bytesOfNat 1 (figureOf (s.k.phase = .redSignal)) ++
    (s.k.spares.map fun e => bytesOfNat 1 e.1 ++ bytesOfNat 2 e.2.1 ++ bytesOfNat 2 e.2.2).flatten

/-- The body of `attest`. -/
def attestBody (r : Req) (nonce : List Byte) (s : State) : State :=
  if nonce.length ≠ 32 then s.answer r 0x01
  else
    let b := s.attestReport nonce
    s.reply r 0x00 [] (b ++ Config.attestSignature b)

/-- `attest` (R36). -/
def execAttest (r : Req) (nonce : List Byte) (s : State) : Host.Outcome State Fault Refusal :=
  let r := { r with kind := 0x09 }
  serveAny r (some (attestBody r nonce)) (attestBody r nonce) s

/-- The catalogue number that a choice of a kind names, when an image of that kind holds it; 0 names the default, whose number is the kind's (R35). -/
def State.catalogueChoice (s : State) (kind n : Nat) : Option Nat :=
  let n := if n = 0 then kind else n
  if s.k.catalogue.any fun c => c.num = n && c.kind = kind then some n else none

/-- Do two partitions' rectangles overlap (R30)? -/
def Part.overlaps (p : Part) (b : PartBody) : Bool := p.x < b.x + b.w && b.x < p.x + p.w && p.y < b.y + b.h && b.y < p.y + p.h

/-- Frames, or deep locations, that quarantine still holds of partitions that are gone (R81). -/
def State.orphans (s : State) (kind : Nat) : Nat :=
  (s.m.quarantine.filter fun e => e.kind = kind && !(s.q.parts.any fun p => p.num = e.part)).length

/-- Do the shares that a create request asks exceed what remains (R30)? -/
def State.sharesExceed (s : State) (b : PartBody) : Bool :=
  let sum := fun (f : Part → Nat) => (s.q.parts.map f).foldl (· + ·) 0
  Config.hbmUnits * 16384 < (sum Part.hbm + b.hbm) * 16384 + s.orphans 1 ||
  Config.deepUnits * 1048576 < (sum Part.deep + b.deep) * 1048576 + s.orphans 2 ||
  Config.windowEntries < sum Part.windows + b.windows

/-- The chosen images are loaded into the control stores of every core of a rectangle (R35). -/
def State.loadStores (s : State) (p : Part) : State :=
  p.cores.foldl (fun (u : State) c => u.onCore c fun x => { x with stores := p.cats }) s

/-- A create request's partition (R30, R35, R251). Its catalogue choice is looked at first, then its rectangle and clients (an empty
rectangle, one outside the mesh, or more than 16 clients, is a bad request), then overlap and shares. DEDUCED, unsafe (log 112). It gets the
lowest free number of 0 to 7. DESIGN CHOICE, unsafe (log 141). -/
def createBody (r : Req) (b : PartBody) (s : State) : State :=
  match s.catalogueChoice 1 b.traversal, s.catalogueChoice 2 b.sampler, s.catalogueChoice 3 b.walker with
  | some t, some m, some k =>
    if b.w = 0 || b.h = 0 || 16 < b.x + b.w || 16 < b.y + b.h || 16 < b.clients.length then s.answer r 0x01
    else match (List.range 8).find? fun n => (s.part n).isNone with
      | none => s.answer r 0x03
      | some n =>
        if (s.q.parts.any fun p => p.overlaps b) || s.sharesExceed b then s.answer r 0x03
        else
          let p : Part := ⟨n, b.x, b.y, b.w, b.h, b.hbm, b.deep, b.windows, b.clients, [t, m, k], none, 64, [], 0, [3, 7, 11, 15]⟩
          (State.loadStores { s with q := { s.q with parts := s.q.parts ++ [p] } } p).reply r 0x00 [n] []
  | _, _, _ => s.answer r 0x01

/-- `partition create` (R30, R35). -/
def execPartitionCreate (r : Req) (body : PartBody) (s : State) : Host.Outcome State Fault Refusal :=
  let r := { r with kind := 0x0A }
  serveMgmt r (createBody r body) s

/-- A partition's pages all pass to the quarantine queue (R30, R81). -/
def Store.dropPart (m : Store) (part : Nat) : Store :=
  let m := (m.maps.filter fun p => p.part = part).foldl (fun (m : Store) p => m.release part p.ua p.len) m
  let m := (m.tier.filter fun e => e.2.part = part).foldl (fun (m : Store) e => m.release part (e.1 * 65536) 65536) m
  Store.advance { m with maps := m.maps.filter fun p => p.part != part }

/-- What the yard holds of a partition is gone. -/
def Yard.dropPart (y : Yard) (part : Nat) : Yard :=
  { y with scenes := y.scenes.filter fun e => e.2.1 != part, space := y.space.filter fun e => e.1 != part,
           rays := y.rays.filter fun r => r.set.part != part, batches := y.batches.filter fun b => b.set.part != part,
           calls := y.calls.filter fun c => c.part != part }

/-- The trains of a partition stop with it, and the pins that they hold in other partitions are released (R30, R90). -/
def State.dropTrains (s : State) (part : Nat) : State :=
  let ts := s.trains.filter fun t => t.i.part = part && t.i.id != 0
  let gone := ts.map fun t => t.i.id
  let s := (ts.map Train.kept).flatten.foldl (fun (u : State) p => u.unpin p.1 p.2) s
  { s with t := if gone.contains s.t.i.id then Train.vacant else s.t,
           rest := s.rest.filter fun t => !gone.contains t.i.id,
           k := { s.k with transfers := s.k.transfers.filter fun x => !gone.contains x.train } }

/-- The grids of a partition end with *grid error*, and its events are freed; a wait for other work of it is told so, and a copy under
way is given up without a reply (R28, R30). DEDUCED, unsafe (log 85). -/
def State.dropEvents (s : State) (part : Nat) : State :=
  let grids := (s.d.grids.filter fun g => g.part = part && g.life != .complete).map Grid.seq
  let s := grids.foldl (fun (u : State) n => u.completeEvent n 0x0A none) s
  let mine := (s.q.events.filter fun e => e.part = part).map Event.seq
  let late := s.q.waiting.filter fun w => mine.contains w.seq
  let s := late.foldl (fun (u : State) w => u.answer w.req 0x01) s
  { s with q := { s.q with events := s.q.events.filter fun e => e.part != part,
                           waiting := s.q.waiting.filter fun w => !mine.contains w.seq,
                           issuedBy := s.q.issuedBy.filter fun i => i.2 != part,
                           copies := s.q.copies.filter fun c => c.part != part } }

/-- Cores are no longer held for a grid that is gone (R141). -/
def State.unholdCores (s : State) (seqs : List Nat) : State :=
  (s.d.cores.map Prod.fst).foldl (fun (u : State) c => u.onCore c fun x => match x.held with
    | some g => if seqs.contains g then { x with held := none } else x
    | none => x) s

/-- The barriers, teams and grids of a partition are gone, and the context descriptors that other partitions hold of grids moved to it are
given back (R201). -/
def State.dropGrids (s : State) (part : Nat) : State :=
  let seqs := (s.d.grids.filter fun g => g.part = part).map Grid.seq
  let away := fun (d : Desc) => seqs.contains d.seq && d.part != part
  let s := ((s.unholdCores seqs).q.descs.filter away).foldl (fun (u : State) d => u.giveHidden d.part d.granules) (s.unholdCores seqs)
  let s := { s with q := { s.q with descs := s.q.descs.filter fun d => !away d } }
  { s with d := { s.d with grids := s.d.grids.filter fun g => g.part != part, teams := s.d.teams.filter fun m => !seqs.contains m.grid,
                           bars := s.d.bars.filter fun b => !seqs.contains b.key.grid } }

/-- A partition is destroyed (R30). DEDUCED, unsafe (log 85). -/
def State.dropPart (s : State) (part : Nat) : State :=
  let s := ((s.dropTrains part).dropEvents part).dropGrids part
  let s := s.mapTrains (fun _ => true) fun t => { t with kept := t.kept.filter fun p => p.1 != part }
  { s with
    m := s.m.dropPart part,
    y := s.y.dropPart part,
    o := ⟨s.o.objects.filter fun o => o.part != part, s.o.shapes.filter fun r => r.part != part⟩,
    k := s.k.closeWindows fun w => w.part != part,
    q := { s.q with parts := s.q.parts.filter fun p => p.num != part, images := s.q.images.filter fun i => i.part != part,
                    descs := s.q.descs.filter fun d => d.part != part } }

/-- `partition destroy` (R30). The body names the partition by its number, since R26 ignores PART here; the reply returns it (R27). DEDUCED,
safe (log 84). DESIGN CHOICE, unsafe (log 134). -/
def execPartitionDestroy (r : Req) (part : Nat) (s : State) : Host.Outcome State Fault Refusal :=
  let r := { r with kind := 0x0A }
  serveMgmt r (fun s => if (s.part part).isNone then s.answer r 0x01 else (s.dropPart part).reply r 0x00 [part] []) s

/-- The body of a catalogue request (R35). A header with a nonzero reserved field is refused as one that fails verification (R5).
DEDUCED, safe (log 81). DESIGN CHOICE, safe (log 82). -/
def catalogueBody (r : Req) (kind : Nat) (image : CatalogueImage) (s : State) : State :=
  if kind = 0 || 3 < kind then s.answer r 0x01
  else if !Config.signatureValid image.bytes image.signature || image.reserved ≠ 0 || image.kind ≠ kind then
    s.answer r 0x05
  else match (List.range 60).find? fun i => !(s.k.catalogue.any fun c => c.num = i + 4) with
    | none => s.answer r 0x03
    | some i => State.reply { s with k := { s.k with catalogue := s.k.catalogue ++ [⟨i + 4, kind, image.version, image.bytes⟩] } } r 0x00 [i + 4] []

/-- `catalogue` (R35). -/
def execCatalogue (r : Req) (kind : Nat) (image : CatalogueImage) (s : State) : Host.Outcome State Fault Refusal :=
  let r := { r with kind := 0x0C }
  serveMgmt r (catalogueBody r kind image) s

/-- A team of a moved grid: its area is found a place in the target's global space, and its granules pass to the target's share
(R200). -/
def State.moveArea (s : State) (m : Team) (src dst : Nat) : State :=
  if m.area = 0 then s
  else
    let va := s.freshVa dst areaBytes 65536
    let move := fun (p : Mapping) => if p.part = src && p.va = m.area then { p with part := dst, va := va } else p
    { s with m := { s.m with maps := s.m.maps.map move } }.onTeam m.grid m.idx fun m => { m with area := va }

/-- The granules that a wholly vacated grid holds: its teams' private pages and areas (R201). -/
def State.gridGranules (s : State) (seq : Nat) : List Nat :=
  let ms := s.d.teams.filter fun m => m.grid = seq
  (ms.map Team.frames).flatten ++ ((ms.filter fun m => m.area ≠ 0).map fun m => match (s.grid seq).bind fun g => s.m.translate g.part m.area with
    | some ua => (List.range (areaBytes / 65536)).map fun i => granuleOf ua + i
    | none => []).flatten

/-- A train of a moved grid: it belongs to the target, and keeps its pins, those of the source's nodes among them (R90). -/
def Train.moved (t : Train) (dst : Nat) : Train :=
  let all := t.kept ++ t.pins.map fun p => (t.i.part, p)
  let pins := (all.filter fun p => p.1 = dst).map Prod.snd
  { t with i := { t.i with part := dst }, pins := pins, kept := all.filter fun p => p.1 != dst,
           x := { t.x with context := t.x.context.map fun c => { c with pins := pins } } }

/-- A wholly vacated grid is resumed: no descriptor is written for it again before it has been placed (R200, R201). -/
def State.descTaken (s : State) (seq src : Nat) : State :=
  (s.setDescs (fun d => d.seq = seq && d.part = src && d.state = 1) 2).onGrid seq fun g => { g with resumed := true }

/-- A wholly vacated grid passes to another partition: its granules, areas, trains, number and place in the distribution
(R200, R201). -/
def State.moveGrid (s : State) (seq src dst : Nat) : State :=
  let gs := s.gridGranules seq
  let mine := fun (t : Train) => t.i.grid = seq && t.i.id != 0
  let s := (s.d.teams.filter fun m => m.grid = seq).foldl (fun (u : State) m => u.moveArea m src dst) s
  let s := s.mapTrains mine fun t => t.moved dst
  let tier := s.m.tier.map fun e => if gs.contains e.1 then (e.1, { e.2 with part := dst }) else e
  let s := s.onGrid seq fun g => { g with part := dst }
  { s with
    m := { s.m with tier := tier },
    q := { s.q with events := s.q.events.map fun e => if e.seq = seq then { e with part := dst } else e,
                    issuedBy := s.q.issuedBy.map fun i => if i.1 = seq then (seq, dst) else i } }

/-- The body of a resume context request (R200, R201), whose own event completes as it is accepted. DEDUCED, unsafe (log 86). -/
def resumeBody (r : Req) (desc target : Nat) (i : Instr) (s : State) : State :=
  match s.q.descs.find? fun d => d.addr = desc with
  | none => s.answer r 0x01
  | some d =>
    let s : State := { s with m := (eccWords d.addr 64).foldl Store.meet s.m }
    if d.state ≠ 1 || d.version ≠ Config.saveVersion then s.answer r 0x01
    else if d.part ≠ r.part then s.answer r 0x02
    else match s.part target, s.grid d.seq with
      | some p, some g =>
        let n := d.bytes / 65536
        if !s.placeable p g.launch || (target ≠ d.part && !s.pinsFit target n) then s.answer r 0x06
        else if s.eventsFull then s.answer r 0x03
        else if target ≠ d.part && s.freeFrames target < n then s.park i
        else
          let seq := s.q.nextSeq
          let s := s.newSeq r.part true
          let s := (if target = d.part then s else s.moveGrid d.seq d.part target).descTaken d.seq d.part
          (s.completeEvent seq 0x00 none).reply r 0x00 [seq] []
      | _, _ => s.answer r 0x01

/-- `resume context` (R200, R201). -/
def execResumeContext (r : Req) (desc : Dword) (target : Nat) (s : State) : Host.Outcome State Fault Refusal :=
  let i := Instr.resumeContext r desc target
  let r := { r with kind := 0x0B }
  serveWaiting r i (resumeBody r desc.toNat target i) s

end Sys2Proof.Machine
end

