-- ==== Sys2Proof/Machine/Loader.lean ====
section
/-! DEFINITION. The loader: an image's format, its placement, its relocations, and what it installs (R50 to R56, R82 to R85, R242, R356,
R367). -/
namespace Sys2Proof.Machine

/-- `n` bytes of an image from `off` on, as a number (R4). -/
def leNat (b : List Byte) (off n : Nat) : Nat := natOfBytes ((b.drop off).take n)

/-- The counts and sizes of an image's headers (R50, R51). -/
structure Sizes where
  kernels  : Nat
  text     : Nat
  consts   : Nat
  data     : Nat
  relocs   : Nat
  symbols  : Nat
  strings  : Nat
  shapes   : Nat
  objects  : Nat
  scenes   : Nat
  stations : Nat
  deriving DecidableEq, Repr

/-- An image's length by its headers (R51). -/
def Sizes.total (z : Sizes) : Nat :=
  64 + z.text + z.consts + z.data + z.strings + 16 * (z.symbols + z.relocs + z.objects + z.scenes + z.stations) + 160 * z.kernels +
    64 * z.shapes

/-- The first entry of a table that is not as it should be, as the table's kind and the entry's index. -/
def firstBad {α : Type} (kind : Nat) (ok : α → Bool) (l : List α) : Option (Nat × Nat) :=
  (l.findIdx? fun x => !ok x).map fun i => (kind, i)

/-- Read the headers; else which of them breaks R50 (0) or R51 (1). -/
def readSizes (b : List Byte) : Except (Nat × Nat) Sizes :=
  let h := leNat b 0 32
  let t := leNat b 32 32
  let z : Sizes := ⟨natBits h 192 16, natBits h 160 32, natBits h 128 32, natBits h 96 32, natBits h 64 32, natBits h 32 32,
    natBits t 224 32, natBits t 208 16, natBits t 192 16, natBits t 176 16, natBits t 128 32⟩
  let first := natBits h 224 32 = 0x55534C4E && natBits h 208 16 = 1 && natBits h 0 32 = 0 && 1 ≤ z.kernels && z.kernels ≤ 64 &&
    z.text % 12 = 0
  let second := z.strings % 4 = 0 && z.scenes ≤ 255 && natBits t 160 16 = 0 && natBits t 0 128 = 0 && z.total = b.length
  if !first then .error (0, 0) else if !second then .error (1, 0) else .ok z

/-- The entries of a table as numbers, and the offset behind it. -/
def tableAt (b : List Byte) (off size count : Nat) : List Nat × Nat :=
  ((List.range count).map (fun i => leNat b (off + size * i) size), off + size * count)

/-- A symbol entry (R52). -/
structure Sym where
  nameOff : Nat
  nameLen : Nat
  kind    : Nat
  value   : Nat
  deriving DecidableEq, Repr

/-- A relocation entry (R50). -/
structure Reloc where
  site    : Nat
  section_ : Nat
  kind    : Nat
  symbol  : Nat
  addend  : Int
  deriving DecidableEq, Repr

/-- A station entry (R51). -/
structure StationEntry where
  number : Nat
  bytes  : Nat
  nodes  : Nat
  deriving DecidableEq, Repr

/-- An image's sections and tables (R50 to R52): templates and shape records as numbers; object entries as (offset, count); scenes as
their station entries. -/
structure Parts where
  z         : Sizes
  text      : List Byte
  consts    : List Byte
  data      : List Byte
  strings   : List Byte
  symbols   : List Sym
  relocs    : List Reloc
  templates : List Nat
  shapes    : List Nat
  objects   : List (Nat × Nat)
  scenes    : List (List StationEntry)
  deriving DecidableEq, Repr

/-- Does a symbol entry keep its map (R52)? DEDUCED, unsafe (log 79). -/
def symOk (z : Sizes) (strings : List Byte) (e : Nat) : Bool :=
  let off := natBits e 96 32
  let len := natBits e 90 6
  let kind := natBits e 80 8
  let v := natBits e 0 64
  let bound := match kind with
    | 0 => v ≤ z.text
    | 1 => v ≤ z.consts
    | 2 => v ≤ z.data
    | 3 => v < z.kernels
    | 4 => v < z.shapes
    | 5 => v < z.objects
    | 6 => v < z.scenes
    | _ => false
  1 ≤ len && off + len ≤ z.strings && natBits e 88 2 = 0 && natBits e 64 16 = 0 && bound &&
    ((strings.drop off).take len).all fun c => c.toNat < 128

/-- Read a symbol entry. -/
def readSym (e : Nat) : Sym := ⟨natBits e 96 32, natBits e 90 6, natBits e 80 8, natBits e 0 64⟩

/-- Are the string table's bytes zero outside the names (R51)? -/
def stringsClean (strings : List Byte) (syms : List Sym) : Bool :=
  strings.zipIdx.all fun (c, i) => c == 0 || syms.any fun y => y.nameOff ≤ i && i < y.nameOff + y.nameLen

/-- Does a relocation entry keep its map (R50)? -/
def relocOk (z : Sizes) (e : Nat) : Bool := natBits e 94 2 ≤ 2 && natBits e 91 3 ≤ 4 && natBits e 64 27 = 0 && natBits e 32 32 < z.symbols

/-- Read a relocation entry. -/
def readReloc (e : Nat) : Reloc :=
  ⟨natBits e 96 32, natBits e 94 2, natBits e 91 3, natBits e 32 32, (BitVec.ofNat 32 (natBits e 0 32)).toInt⟩

/-- Does a template keep its layout (R51, R122): reserved fields and the after list zero, every field within its range, text offsets of
packets, and a constant block inside the constant section but for the zeros that pad it to 16 bytes? -/
def templateOk (z : Sizes) (v : Nat) : Bool :=
  let r := readLaunch v
  launchClean v && r.fields && r.after.all (· = 0) && r.entry < z.text && r.entry % 12 = 0 && (r.handler = 0 || (r.handler < z.text && r.handler % 12 = 0)) &&
    r.const ≤ z.consts && r.const + r.constLen < z.consts + 16

/-- Does a shape record keep its layout (R51, R356)? -/
def shapeOk (z : Sizes) (v : Nat) : Bool :=
  let sec := natBits v 56 8
  let base := natBits v 0 56
  natBits v 488 24 = 0 && v.testBit 127 && natBits v 76 51 = 0 && natBits v 64 3 ≤ 4 && 1 ≤ natBits v 67 3 && natBits v 67 3 ≤ 5 &&
    ((sec = 1 && base ≤ z.consts) || (sec = 2 && base ≤ z.data))

/-- Does an object entry keep its layout, its node records inside the data section (R51, R83)? -/
def objectOk (z : Sizes) (e : Nat) : Bool :=
  let off := natBits e 96 32
  let n := natBits e 80 16
  natBits e 0 80 = 0 && 1 ≤ n && off % 32 = 0 && off + 32 * n ≤ z.data

/-- Does a scene entry keep its layout (R51)? -/
def sceneEntryOk (z : Sizes) (e : Nat) : Bool := natBits e 0 80 = 0 && natBits e 96 32 + natBits e 80 16 ≤ z.stations

/-- Does a station entry keep its layout (R51)? -/
def stationEntryOk (e : Nat) : Bool := natBits e 96 16 = 0 && natBits e 0 32 = 0

/-- The sections and tables of an image that keeps the layouts of R50 to R52; else the first that does not, by its kind and index: 0 the
header, 1 the table header, then in the order of the image 2 the string table, 3 symbols, 4 relocations, 5 templates, 6 shape records, 7
object entries, 8 scene entries, 9 station entries. DEDUCED, safe (log 105). -/
def readParts (b : List Byte) : Except (Nat × Nat) Parts :=
  match readSizes b with
  | .error e => .error e
  | .ok z =>
    let cut := fun off n => (b.drop off).take n
    let o1 := 64 + z.text
    let o2 := o1 + z.consts
    let o3 := o2 + z.data
    let o4 := o3 + z.strings
    let strings := cut o3 z.strings
    let (ys, o5) := tableAt b o4 16 z.symbols
    let (rs, o6) := tableAt b o5 16 z.relocs
    let (ts, o7) := tableAt b o6 160 z.kernels
    let (hs, o8) := tableAt b o7 64 z.shapes
    let (os, o9) := tableAt b o8 16 z.objects
    let (cs, o10) := tableAt b o9 16 z.scenes
    let (ss, _) := tableAt b o10 16 z.stations
    let stations := ss.map fun e => (⟨natBits e 112 16, natBits e 64 32, natBits e 32 32⟩ : StationEntry)
    let syms := ys.map readSym
    match firstBad 2 (stringsClean strings) [syms] <|> firstBad 3 (symOk z strings) ys <|> firstBad 4 (relocOk z) rs <|>
        firstBad 5 (templateOk z) ts <|> firstBad 6 (shapeOk z) hs <|> firstBad 7 (objectOk z) os <|>
        firstBad 8 (sceneEntryOk z) cs <|> firstBad 9 stationEntryOk ss with
    | some e => .error e
    | none =>
      .ok { z := z, text := cut 64 z.text, consts := cut o1 z.consts, data := cut o2 z.data, strings := strings, symbols := syms,
             relocs := rs.map readReloc, templates := ts, shapes := hs, objects := os.map fun e => (natBits e 96 32, natBits e 80 16),
             scenes := cs.map fun e => (stations.drop (natBits e 96 32)).take (natBits e 80 16) }

/-- A scene's placed addresses: its descriptor and its stations, in the order of their entries. -/
structure ScenePlace where
  desc     : Nat
  stations : List Nat
  deriving DecidableEq, Repr

/-- A placed constant block (R54, R122): its offset in the section, the bytes that the section holds of it, its length with the zeros
that pad it, and its address. -/
structure Block where
  start : Nat
  own   : Nat
  len   : Nat
  addr  : Nat
  deriving DecidableEq, Repr

/-- Where an image's pieces go (R54), with the constant blocks in the kernels' order. -/
structure Plan where
  text   : Nat
  blocks : List Block
  data   : Nat
  table  : Nat
  scenes : List ScenePlace
  stop   : Nat
  deriving DecidableEq, Repr

/-- Whole granules, at least one, for `n` bytes. -/
def roomFor (n : Nat) : Nat := max 65536 (alignUp n 65536)

/-- The highest declared station number plus 1 (R242). -/
def stationCount (ss : List StationEntry) : Nat := ss.foldl (fun n s => max n (s.number + 1)) 0

/-- Bytes of a scene descriptor (R242). -/
def descBytes (ss : List StationEntry) : Nat := 64 + 16 * stationCount ss

/-- Addresses for sizes, one after another. -/
def laidOut : Nat → List Nat → List Nat
  | _, [] => []
  | a, n :: ns => a :: laidOut (a + roomFor n) ns

/-- Places for the scenes. -/
def planScenes : Nat → List (List StationEntry) → List ScenePlace × Nat
  | a, [] => ([], a)
  | a, ss :: more =>
    let first := a + roomFor (descBytes ss)
    let at_ := laidOut first (ss.map StationEntry.bytes)
    let stop := ss.foldl (fun x s => x + roomFor s.bytes) first
    let (ps, e) := planScenes stop more
    (⟨a, at_⟩ :: ps, e)

/-- The bytes that the constant section holds of a block: up to the start of another block, or the section's end, that comes less than 16
bytes short of its length (R122). DESIGN CHOICE, unsafe (log 126). -/
def ownBytes (starts : List Nat) (total start len : Nat) : Nat :=
  ((total :: starts).filter fun e => start ≤ e && start + len < e + 16 && e ≤ start + len).foldl min (start + len) - start

/-- The places of an image's pieces from an address on (R54). -/
def planFrom (p : Parts) (base : Nat) : Plan :=
  let consts := base + roomFor p.z.text
  let lens := p.templates.map fun v => (readLaunch v).constLen
  let starts := p.templates.map fun v => (readLaunch v).const
  let blocks := ((starts.zip lens).zip (laidOut consts lens)).map fun (b, a) =>
    (⟨b.1, ownBytes starts p.z.consts b.1 b.2, b.2, a⟩ : Block)
  let data := lens.foldl (fun x n => x + roomFor n) consts
  let table := data + roomFor p.z.data
  let (scenes, stop) := planScenes (table + roomFor (160 * p.z.kernels)) p.scenes
  ⟨base, blocks, data, table, scenes, stop⟩

/-- The plan at the lowest free place: a multiple of 192 and of 64 KiB (R54). -/
def State.planImage (s : State) (part : Nat) (p : Parts) : Plan := planFrom p (s.freshVa part (planFrom p 0).stop 196608)

/-- The address of the byte at an offset of the constant section: in the first block that holds it. At a border that no block's byte
follows, the block that starts there, else the one that ends there, else the first block. DESIGN CHOICE, unsafe (log 126). -/
def Plan.constAddr (pl : Plan) (off : Nat) : Nat :=
  let find := fun (p : Block → Bool) => pl.blocks.find? p
  match find (fun b => b.start ≤ off && off < b.start + b.own) <|> find (fun b => b.start = off) <|>
      find (fun b => b.start + b.own = off) <|> pl.blocks.head? with
  | some b => b.addr + (off - b.start)
  | none => off

/-- The lowest `n` indices below 65,536 that are not in use (R53). -/
def freeIndices (used : List Nat) (n : Nat) : List Nat := ((List.range 65536).filter fun i => !used.contains i).take n

/-- The value S of a symbol after placement (R52). -/
def symValue (pl : Plan) (shapes handles : List Nat) (y : Sym) : Nat :=
  match y.kind with
  | 0 => pl.text + y.value
  | 1 => pl.constAddr y.value
  | 2 => pl.data + y.value
  | 3 => pl.table + 160 * y.value
  | 4 => shapes.getD y.value 0
  | 5 => handles.getD y.value 0
  | _ => ((pl.scenes[y.value]?).map ScenePlace.desc).getD 0

/-- Does a relocation kind accept a symbol kind (R52)? -/
def accepts (sym kind : Nat) : Bool :=
  match sym with
  | 0 => kind ≤ 3
  | 4 => kind = 3 || kind = 4
  | 5 => kind = 1 || kind = 3
  | _ => kind = 0 || kind = 1 || kind = 3

/-- Bytes of a relocation's site (R54). -/
def siteBytes (kind : Nat) : Nat := if kind = 0 then 8 else 4

/-- An image's three sections. -/
structure Sections where
  text   : List Byte
  consts : List Byte
  data   : List Byte
  deriving DecidableEq, Repr

/-- A section by its number in a relocation (R50). -/
def Sections.get (x : Sections) (n : Nat) : List Byte :=
  match n with
  | 0 => x.text
  | 1 => x.consts
  | _ => x.data

/-- Write bytes into a section. -/
def Sections.put (x : Sections) (n off : Nat) (b : List Byte) : Sections :=
  let patch := fun (l : List Byte) => l.take off ++ b ++ l.drop (off + b.length)
  match n with
  | 0 => { x with text := patch x.text }
  | 1 => { x with consts := patch x.consts }
  | _ => { x with data := patch x.data }

/-- May V be written at a relocation's site (R54, R55)? -/
def relocFits (pl : Plan) (x : Sections) (r : Reloc) (sym : Nat) (v : Int) : Bool :=
  let p : Int := pl.text + (r.site - r.site % 12)
  accepts sym r.kind && r.site + siteBytes r.kind ≤ (x.get r.section_).length &&
  (match r.kind with
   | 0 => 0 ≤ v && v < 2 ^ 56
   | 1 => 0 ≤ v && v < 2 ^ 32
   | 2 => r.section_ = 0 && (v - p) % 12 = 0 && -(2 ^ 20 : Int) ≤ (v - p) / 12 && (v - p) / 12 < 2 ^ 20
   | 3 => -(2 ^ 31 : Int) ≤ v && v < 2 ^ 32
   | _ => 0 ≤ v && v ≤ 65535)

/-- Write V at a relocation's site (R54). -/
def relocWrite (pl : Plan) (x : Sections) (r : Reloc) (v : Int) : Sections :=
  let p : Int := pl.text + (r.site - r.site % 12)
  let old := leNat (x.get r.section_) r.site 4
  let out := fun (n : Nat) (w : Int) => x.put r.section_ r.site (bytesOfNat n (w % 2 ^ (8 * n)).toNat)
  match r.kind with
  | 0 => out 8 v
  | 2 => out 4 (old - old % 2 ^ 21 + ((v - p) / 12) % 2 ^ 21)
  | 4 => out 4 (old - old % 2 ^ 16 + v)
  | _ => out 4 v

/-- Relocate an image: its sections, and the first relocation that fails, by symbol, section and site (R54, R55). -/
def relocate (pl : Plan) (p : Parts) (values : List Nat) : Sections × Option (Nat × Nat × Nat) :=
  p.relocs.foldl (fun (acc : Sections × Option (Nat × Nat × Nat)) r =>
    let (x, bad) := acc
    let sym := ((p.symbols[r.symbol]?).map Sym.kind).getD 7
    let v : Int := (values.getD r.symbol 0 : Nat) + r.addend
    if relocFits pl x r sym v then (relocWrite pl x r v, bad)
    else (x, match bad with
      | some b => some b
      | none => some (r.symbol, r.section_, r.site))) (⟨p.text, p.consts, p.data⟩, none)

/-- A shape record after placement; none where it breaks R356. -/
def placeShape (pl : Plan) (part index v : Nat) : Option Shape :=
  let off := natBits v 0 56
  let base := if natBits v 56 8 = 1 then pl.constAddr off else pl.data + off
  let esz := 2 ^ natBits v 64 3
  let rank := natBits v 67 3
  let ext := (List.range 5).map fun i => natBits v (128 + 32 * i) 32
  let str := (List.range 5).map fun i => natBits v (288 + 40 * i) 40
  let ok := (ext.take rank).all (· ≠ 0) && (ext.drop rank).all (· = 0) && (str.drop rank).all (· = 0) && base % esz = 0 &&
    str.all fun x => x % esz = 0
  if ok then some ⟨part, index, str, ext, natBits v 70 6, rank, esz, base⟩ else none

/-- A node record as installed (R83, R85), with whether its reserved fields are zero. -/
def readNode (v k : Nat) : Node × Bool :=
  let init := k = 0 || v.testBit 112
  (⟨natBits v 0 64, BitVec.ofNat 32 (natBits v 64 32), natBits v 96 16, (List.range 4).map fun i => natBits v (128 + 16 * i) 16,
    if init then .resident else .absent, 0⟩, natBits v 192 64 = 0 && natBits v 113 15 = 0)

/-- The first address of each granule of a payload. -/
def payloadGrans (n : Node) : List Nat := (List.range n.granules).map fun i => n.payload + 65536 * i

/-- Is a node record legal by itself: its error, children, payload (R83, R84)? -/
def nodeOk (lo hi count : Nat) (n : Node) : Bool :=
  let e := decodeF f32 n.error.toNat
  !(ltF e (decodeF f32 0)) && eqF e e && n.children.all (· < count) && 1 ≤ n.granules && n.granules ≤ 4096 &&
    n.payload % 65536 = 0 && lo ≤ n.payload && n.payload + 65536 * n.granules ≤ hi

/-- The nodes that child links reach from the root, level by level, at most 17 levels. -/
def reached (ns : List Node) : Nat → List Nat → List Nat
  | 0, level => level
  | fuel + 1, level =>
    let next := (level.map fun k => ((ns[k]?).map Node.children).getD []).flatten.filter (· ≠ 0)
    if next.isEmpty then level else level ++ reached ns fuel next

/-- No value twice, and none of `seen`. -/
def distinctFrom (seen : List Nat) : List Nat → Bool
  | [] => true
  | x :: xs => !seen.contains x && distinctFrom (x :: seen) xs

/-- Do the links form one tree over all nodes, at most 16 nodes deep below the root (R84)? -/
def treeOk (ns : List Node) : Bool :=
  let parents := fun k => (ns.filter fun n => n.children.contains k).length
  ((List.range ns.length).drop 1).all (fun k => parents k = 1) &&
  (let r := reached ns 16 [0]
   (List.range ns.length).all fun k => r.contains k)

/-- The nodes of an object whose records stand in the data section; none where it fails R84. -/
def readObject (data : List Byte) (lo : Nat) (e : Nat × Nat) : Option (List Node) :=
  let rs := (List.range e.2).map fun k => readNode (leNat data (e.1 + 32 * k) 32) k
  let ns := rs.map Prod.fst
  if rs.all Prod.snd && ns.all (nodeOk lo (lo + data.length) e.2) && treeOk ns then some ns else none

/-- Do no two payloads of the image's objects share a granule (R84)? -/
def payloadsApart (os : List (List Node)) : Bool := distinctFrom [] (os.flatten.map payloadGrans).flatten

/-- How a node of a station is read: by box links, by leaf links, or not reached (R242). -/
structure Seen where
  boxes  : List Nat
  leaves : List Nat
  deriving DecidableEq, Repr

/-- The links of a box node, as (KIND, reserved field, TARGET) (R243). -/
def nodeLinks (node : Nat) : List (Nat × Nat × Nat) :=
  (List.range 8).map fun i =>
    let w := natBits node (512 + 64 * i) 64
    (natBits w 62 2, natBits w 16 46, natBits w 0 16)

/-- Is a leaf node's reserved part zero (R244)? -/
def leafClean (node : Nat) : Bool :=
  natBits node 704 320 = 0 && [0, 352].all fun o => natBits node (o + 320 + 16) 16 = 0 && natBits node (o + 320 + 2) 6 = 0

/-- Check the nodes of a station in ascending order; a link goes only upward, so each is known as box or leaf when its turn comes
(R242 to R244). -/
def stationNodes (at_ : Nat → Nat) (count : Nat) (defined : List Nat) : Nat → Nat → Seen → Bool
  | 0, _, _ => true
  | fuel + 1, k, seen =>
    if seen.boxes.contains k then
      let ls := nodeLinks (at_ k)
      let box := (ls.filter fun l => l.1 = 1).map fun l => l.2.2
      let leaf := (ls.filter fun l => l.1 = 2).map fun l => l.2.2
      let ok := natBits (at_ k) 120 8 = 0 && ls.all (fun l => l.2.1 = 0) && (box ++ leaf).all (fun j => k < j && j < count) &&
        (ls.filter fun l => l.1 = 3).all fun l => defined.contains l.2.2
      let seen : Seen := ⟨seen.boxes ++ box, seen.leaves ++ leaf⟩
      ok && !(seen.boxes.any fun j => seen.leaves.contains j) && stationNodes at_ count defined fuel (k + 1) seen
    else (!seen.leaves.contains k || leafClean (at_ k)) && stationNodes at_ count defined fuel (k + 1) seen

/-- May a scene be installed (R242)? -/
def sceneOk (data : List Byte) (ss : List StationEntry) : Bool :=
  let nums := ss.map StationEntry.number
  nums.contains 0 && distinctFrom [] nums && ss.all fun s =>
    s.bytes % 128 = 0 && 128 ≤ s.bytes && s.bytes ≤ 131072 && s.nodes + s.bytes ≤ data.length &&
    stationNodes (fun k => leNat data (s.nodes + 128 * k) 128) (s.bytes / 128) nums (s.bytes / 128) 0 ⟨[0], []⟩

/-- A scene descriptor's bytes (R242). -/
def descriptorBytes (ss : List StationEntry) (at_ : List Nat) : List Byte :=
  bytesOfNat 64 (stationCount ss) ++ ((List.range (stationCount ss)).map fun n =>
    bytesOfNat 16 (match (ss.zip at_).find? fun e => e.1.number = n with
      | some (e, a) => a + e.bytes * 2 ^ 64 + 2 ^ 96
      | none => 0)).flatten

/-- A template after placement (R51, R56). -/
def placeTemplate (pl : Plan) (i v : Nat) : Nat :=
  let r := readLaunch v
  let c := ((pl.blocks[i]?).map Block.addr).getD 0
  v + pl.text + (if r.handler = 0 then 0 else pl.text * 2 ^ 64) + c * 2 ^ 128 - r.const * 2 ^ 128

/-- An image ready to be installed. -/
structure Ready where
  parts   : Parts
  plan    : Plan
  sects   : Sections
  shapes  : List Shape
  handles : List Nat
  objects : List (List Node)
  values  : List Nat
  bad     : Option (Nat × Nat × Nat)
  deriving DecidableEq, Repr

/-- The first pass: the image as it would be installed; where its format fails, the first failure by its kind and index: those of
`readParts`, then 10 an object, 11 payloads that share a granule, 12 a scene, 13 a shape record (R55). DEDUCED, safe (log 105). -/
def State.readImage (s : State) (part : Nat) (b : List Byte) : Except (Nat × Nat) Ready :=
  match readParts b with
  | .error e => .error e
  | .ok p =>
    let pl := s.planImage part p
    let xs := freeIndices ((s.o.shapes.filter fun r => r.part = part).map Shape.index) p.z.shapes
    let hs := freeIndices ((s.o.objects.filter fun o => o.part = part).map Object.handle) p.z.objects
    let values := p.symbols.map (symValue pl xs hs)
    let (sects, bad) := relocate pl p values
    let shapes := (p.shapes.zipIdx).map fun (v, i) => placeShape pl part (xs.getD i 0) v
    let objects := p.objects.map (readObject sects.data pl.data)
    match firstBad 10 Option.isSome objects <|> firstBad 11 payloadsApart [objects.filterMap id] <|>
        firstBad 12 (sceneOk sects.data) p.scenes <|> firstBad 13 Option.isSome shapes with
    | some e => .error e
    | none => .ok ⟨p, pl, sects, shapes.filterMap id, hs, objects.filterMap id, values, bad⟩

/-- The granules that hold an image's shape records, its object entries, and each object's node records with its residency table, of 4
bytes a node (R59, R82). DESIGN CHOICE, safe (log 128). -/
def Ready.tables (x : Ready) : Nat × Nat × List Nat :=
  (granulesFor (64 * x.shapes.length), granulesFor (32 * x.objects.length), x.objects.map fun ns => granulesFor (36 * ns.length))

/-- The number of those granules. -/
def Ready.tableGranules (x : Ready) : Nat := x.tables.1 + x.tables.2.1 + x.tables.2.2.foldl (· + ·) 0

/-- The pinned granules of an image: text, constants, templates, scene descriptors, stations and tables (R59, R82, R242). -/
def Ready.pinned (x : Ready) : Nat :=
  (x.plan.data - x.plan.text + (x.plan.stop - x.plan.table)) / 65536 + x.tableGranules

/-- The granules of the data section, by number from its start, that hold payloads of resident nodes, and those of the others (R85). -/
def Ready.payloads (x : Ready) (resident : Bool) : List Nat :=
  ((x.objects.flatten.filter fun n => (n.state = .resident) == resident).map payloadGrans).flatten.map fun a => (a - x.plan.data) / 65536

/-- The granules of the data section. -/
def Ready.dataGranules (x : Ready) : Nat := if x.parts.z.data = 0 then 0 else granulesFor x.parts.z.data

/-- The tier records of the data section (R65, R85): payloads of resident nodes fast, of others deep, the rest fast while frames are
free. -/
def Ready.dataGrans (x : Ready) (part frames : Nat) : List Gran :=
  let fast := x.payloads true
  let deep := x.payloads false
  ((List.range x.dataGranules).foldl (fun (acc : List Gran × Nat) i =>
    let g := fun (t : Tier) => Gran.start part t false false
    if fast.contains i then (acc.1 ++ [g .fast], acc.2)
    else if deep.contains i || acc.2 = 0 then (acc.1 ++ [g .deep], acc.2)
    else (acc.1 ++ [g .fast], acc.2 - 1)) ([], frames)).1

/-- The frames that an image needs whatever is free: for its pinned granules and the payloads of resident nodes (R85, R367). -/
def Ready.frames (x : Ready) : Nat := x.pinned + (x.payloads true).length

/-- Its data section's tier records, with the frames that are free now. -/
def State.dataGrans (s : State) (part : Nat) (x : Ready) : List Gran := x.dataGrans part (s.freeFrames part - x.frames)

/-- Have the shares room for an image now, in frames and in deep locations (R367)? -/
def State.imageFits (s : State) (part : Nat) (x : Ready) : Bool :=
  x.frames ≤ s.freeFrames part && ((s.dataGrans part x).filter fun g => g.tier = .deep).length ≤ s.deepRoom part

/-- The second pass: what is full, if anything: the shape table 0, the object directory 1, the shares 2, the event table 3 (R53, R55,
R367). Payloads of resident nodes need frames as pinned granules do. An image for which no place below 2^56 is free finds the shares full. The
event table, which R55 does not name, is looked at last. DESIGN CHOICE, safe (log 125). -/
def State.imageLacks (s : State) (part : Nat) (x : Ready) : Option Nat :=
  if 65536 < (s.o.shapes.filter fun r => r.part = part).length + x.parts.z.shapes then some 0
  else if 65536 < (s.o.objects.filter fun o => o.part = part).length + x.parts.z.objects then some 1
  else if !s.pinsFit part x.frames || !s.sharesFit part (x.pinned + x.dataGranules) || s.deepShare part < (x.payloads false).length ||
    2 ^ 56 < x.plan.stop then some 2
  else if s.eventsFull then some 3
  else none

/-- Map the data section (R54). -/
def State.mapData (s : State) (part : Nat) (x : Ready) : State × Bool :=
  let n := x.dataGranules
  if n = 0 then (s, false)
  else
    let gs := s.dataGrans part x
    let (m, ua, reused) := s.m.takeUa (n * 65536) 65536
    ({ s with m := { (m.addGrans (granuleOf ua) gs) with
        maps := m.maps ++ [⟨part, x.plan.data, n * 65536, ua, 65536, 7, false, 0, false, false, true⟩] } }, reused)

/-- The held ranges of an image, as (address, bytes, rights) (R59, R242). Constant blocks and templates may be read and written, by copies
too, and take no atomic. DESIGN CHOICE, unsafe (log 127). -/
def Ready.ranges (x : Ready) : List (Nat × Nat × Nat) :=
  let first := (x.plan.blocks.head?).map Block.addr
  [(x.plan.text, x.parts.z.text, 1), (first.getD 0, x.plan.data - first.getD 0, 3), (x.plan.table, 160 * x.parts.z.kernels, 3)] ++
  ((x.parts.scenes.zip x.plan.scenes).map fun (ss, pl) =>
    (pl.desc, descBytes ss, 1) :: ((ss.zip pl.stations).map fun (e, a) => (a, e.bytes, 3))).flatten

/-- What is written where (R54, R56, R242). -/
def Ready.writes (x : Ready) : List (Nat × List Byte) :=
  [(x.plan.text, x.sects.text), (x.plan.data, x.sects.data)] ++
  (x.plan.blocks.map fun b => (b.addr, (x.sects.consts.drop b.start).take b.own ++ List.replicate (b.len - b.own) 0)) ++
  (x.parts.templates.zipIdx.map fun (v, i) => (x.plan.table + 160 * i, bytesOfNat 160 (placeTemplate x.plan i v))) ++
  ((x.parts.scenes.zip x.plan.scenes).map fun (ss, pl) =>
    (pl.desc, descriptorBytes ss pl.stations) ::
      ((ss.zip pl.stations).map fun (e, a) => (a, (x.sects.data.drop e.nodes).take e.bytes))).flatten

/-- The image as the service keeps it. -/
def Ready.image (x : Ready) (num part seq : Nat) (tables : List Nat) : Image where
  num := num
  part := part
  seq := seq
  text := x.plan.text
  textLen := x.parts.z.text
  consts := x.plan.blocks.map fun b => (b.addr, b.len)
  data := x.plan.data
  dataLen := x.parts.z.data
  templates := (List.range x.parts.z.kernels).map fun i => x.plan.table + 160 * i
  symbols := (x.parts.symbols.zip x.values).map fun (y, v) => ((x.parts.strings.drop y.nameOff).take y.nameLen, y.kind, v)
  scenes := x.plan.scenes.map ScenePlace.desc
  tables := tables

/-- The pages of an image: held ranges, then the data section, then the granules of its tables, which are in no space; the epoch advances
where released pages are reused (R59, R80, R82). DEDUCED, safe (log 80). -/
def State.placeImage (s : State) (part : Nat) (x : Ready) : State × List Nat :=
  let (s, again) := x.ranges.foldl (fun (acc : State × Bool) e =>
    let (s, r) := acc.1.holdPages part e.1 e.2.1 e.2.2 false
    (s, acc.2 || r)) (s, false)
  let (s, r) := s.mapData part x
  let n := x.tableGranules
  let (s, ua, h) := if n = 0 then (s, 0, false) else s.takePinned part n 65536
  let s := if again || r || h then { s with m := s.m.advance } else s
  ({ s with m := x.writes.foldl (fun (m : Store) w => m.deviceWrite part w.1 w.2) s.m }, (List.range n).map fun i => granuleOf ua + i)

/-- The directory entries of an image's objects (R82): the granules `dir` hold the entries, `trees` the node records and residency tables
of one after another. -/
def entriesOf (part : Nat) (dir : List Nat) : List (Nat × List Node) → List Nat → List Object
  | [], _ => []
  | (h, ns) :: more, trees =>
    let n := granulesFor (36 * ns.length)
    ⟨part, h, trees.headD 0 * 65536, dir ++ trees.take n, ns, 1, 0, 0⟩ :: entriesOf part dir more (trees.drop n)

/-- The directory entries of an image whose table granules are `gs`. -/
def Ready.entries (x : Ready) (part : Nat) (gs : List Nat) : List Object :=
  let (shapes, dir, _) := x.tables
  entriesOf part ((gs.drop shapes).take dir) (x.handles.zip x.objects) (gs.drop (shapes + dir))

/-- An image is installed: its pages, records and entries, and its event, complete with them (R53 to R56, R85). Image numbers count up from 1
over the whole device. DESIGN CHOICE, unsafe (log 141). -/
def State.installImage (s : State) (part : Nat) (x : Ready) : State :=
  let num := s.q.nextImage
  let seq := s.q.nextSeq
  let (s, gs) := s.placeImage part x
  let s := s.newSeq part true
  let s := { s with
    o := ⟨s.o.objects ++ x.entries part gs, s.o.shapes ++ x.shapes⟩,
    q := { s.q with images := s.q.images ++ [x.image num part seq gs], nextImage := num + 1 } }
  s.completeEvent seq 0x00 none

/-- The body of a load request (R50 to R56, R367). A format failure is named by its kind and index, a full table by its number, a failed
relocation by its symbol, section and site. -/
def loadBody (r : Req) (b : List Byte) (i : Instr) (s : State) : State :=
  match s.readImage r.part b with
  | .error (kind, n) => s.reply r 0x01 [kind, n] []
  | .ok x =>
    match s.imageLacks r.part x with
    | some full => s.reply r 0x03 [full] []
    | none => match x.bad with
      | some (y, sec, site) =>
        let name := ((x.parts.symbols[y]?).map fun y => (x.parts.strings.drop y.nameOff).take y.nameLen).getD []
        s.reply r 0x04 [y, sec, site] name
      | none =>
        if s.imageFits r.part x then (s.installImage r.part x).reply r 0x00 [s.q.nextImage, s.q.nextSeq] []
        else s.park i

/-- `load image` (R53, R54, R55). -/
def execLoadImage (r : Req) (image : List Byte) (s : State) : Host.Outcome State Fault Refusal :=
  let i := Instr.loadImage r image
  let r := { r with kind := 0x01 }
  serveWaiting r i (loadBody r image i) s

end Sys2Proof.Machine
end

