-- ==== Sys2Proof/Machine/Sched.lean ====
section
/-! DEFINITION. Completion of grids, pre-emption and switch-out, the placing of saved teams again, parked trains, and the failure of a
core (R38, R66, R141 to R143, R192 to R199, R257 to R259). -/
namespace Sys2Proof.Machine

/-- The verdicts of an any-hit batch whose grid completes pass to its rays, *ignore* where a lane left none; the rays of another batch
leave flight (R255, R257). -/
def State.settleBatch (s : State) (g : Grid) : State :=
  match s.batchOf g with
  | none => s
  | some b =>
    let s := b.members.zipIdx.foldl (fun (u : State) x =>
      let (m, j) := x
      if b.kind = 1 then
        let v := (s.memberVerdict b j).getD 0
        u.onRay b.set.addr b.set.part m.1 fun r =>
          if !r.batches.contains b.num || r.verdicts.any fun e => e.1 = m.2 then r else { r with verdicts := r.verdicts ++ [(m.2, v)] }
      else match u.ray b.set.addr b.set.part m.1 with
        | some r => if r.batches.contains b.num then u.leaveFlight r else u
        | none => u) s
    s.dropBatch b

/-- Has the grid ended: every cluster dealt, every team done, its rays out of flight, and the grids launched for them complete
(R143, R258)? -/
def State.gridEnded (s : State) (g : Grid) : Bool :=
  g.life = .started && !g.undealt && (s.d.teams.all fun m => m.grid != g.seq || m.life = .done) &&
  !(s.y.rays.any fun r => r.grid = g.seq) && s.d.grids.all fun h => h.parent != some g.seq || h.life = .complete

/-- The status of a grid's event (R143). -/
def Grid.status (g : Grid) : Nat := if g.failed then 0x09 else if g.error then 0x0A else 0x00

/-- What the device held for a grid is given back: team areas and pages, descriptors, barriers, teams, and its ended trains
(R143, R201). -/
def State.clearGrid (s : State) (seq : Nat) : State :=
  let s := ((s.d.teams.filter fun m => m.grid = seq).map Team.idx).foldl (fun (u : State) i => u.releaseTeam seq i) s
  let s := (s.q.descs.filter fun d => d.seq = seq).foldl (fun (u : State) d => u.giveHidden d.part d.granules) s
  { s with
    t := if s.t.i.grid = seq && s.t.life = .ended then Train.vacant else s.t,
    rest := s.rest.filter fun t => !(t.i.grid = seq && t.life = .ended),
    q := { s.q with descs := s.q.descs.filter fun d => d.seq != seq },
    d := { s.d with teams := s.d.teams.filter fun m => m.grid != seq, bars := s.d.bars.filter fun b => b.key.grid != seq } }

/-- GRID_COMPLETE: a grid that has ended completes its event; an error passes to the grid whose rays it was launched for (R143, R258).
Subject: sequence number. -/
def execGridComplete (s : State) : Host.Outcome State Fault Refusal :=
  match s.grid s.subject.a with
  | none => .next s
  | some g =>
    if !s.gridEnded g then .next s
    else
      let s := ((s.settleBatch g).clearGrid g.seq).onGrid g.seq fun g => { g with life := .complete }
      let s := match g.parent with
        | some p => if g.status = 0x0A then s.onGrid p fun h => { h with error := true } else s
        | none => s
      .next (s.completeEvent g.seq g.status none)

/-- A pre-emption is given to a train; one held in a handler is counted from now on against GRACE (R193, R194). A train in a NESTED entry, which a
pre-emption alone makes, has its request already, and nesting has one level only (R193). DEDUCED, unsafe (log 144). -/
def Train.givePreempt (t : Train) (reason : Nat) : Train :=
  if t.life = .running && t.x.preempt.isNone && !t.nested then
    { t with x := { t.x with preempt := some reason, graceRun := if t.x.priv && t.x.now.mask then some t.x.grace else none } }
  else t

/-- Every train of the listed teams is given a pre-emption. -/
def State.preemptTeams (s : State) (ts : List (Nat × Nat)) (reason : Nat) : State :=
  s.mapTrains (fun t => ts.contains (t.i.grid, t.i.team) && t.i.id != 0) fun t => t.givePreempt reason

/-- A call on a core is abandoned, and its rays stay on their platform (R259). -/
def State.abandonCall (s : State) (core : Nat) : State :=
  match s.y.calls.find? fun c => c.core = core with
  | none => s
  | some c =>
    let s := { s with y := { s.y with calls := s.y.calls.filter fun x => x.core != core } }
    c.rays.foldl (fun (u : State) x => u.onRay x.1 c.part x.2 fun r => if r.place = .inCall core then { r with place := .platform } else r) s

/-- May this team be vacated for a grid of priority `prio`, and is its core not held yet (R141)? -/
def State.vacatable (s : State) (part prio : Nat) (m : Team) : Bool := (s.core m.core).held.isNone && s.mayVacate part prio m

/-- The placed teams of a team's cluster. -/
def State.clusterOf (s : State) (m : Team) : List Team :=
  s.d.teams.filter fun o => o.grid = m.grid && o.cluster = m.cluster && o.life = .placed

/-- Is the first cluster a victim before the second: lower priority, then the grid accepted last, then the higher index (R141)? -/
def State.victimFirst (s : State) (a b : Team) : Bool :=
  let prio := fun (m : Team) => ((s.grid m.grid).map Grid.prio).getD 0
  prio a < prio b || (prio a = prio b && (b.grid < a.grid || (a.grid = b.grid && b.cluster < a.cluster)))

/-- Insert a team into the order of victims, one for each cluster. -/
def State.insertVictim (s : State) (m : Team) : List Team → List Team
  | [] => [m]
  | o :: os => if o.grid = m.grid && o.cluster = m.cluster then o :: os else if s.victimFirst m o then m :: o :: os else o :: s.insertVictim m os

/-- Names of teams. -/
def teamNames (ms : List Team) : List (Nat × Nat) := ms.map fun m => (m.grid, m.idx)

/-- Take whole clusters in the order of victims until one core would pass the check; that core, and the teams taken (R141). -/
def State.victimsByOrder (s : State) (p : Part) (g : Grid) : List Team → List (Nat × Nat) → Option (List Nat × List (Nat × Nat))
  | [], _ => none
  | m :: ms, gone =>
    let gone := gone ++ teamNames (s.clusterOf m)
    match (s.views p g.seq gone).find? fun v => v.fits g.launch true with
    | some v => some ([v.core], gone)
    | none => s.victimsByOrder p g ms gone

/-- The first rectangle that would pass the check without the teams of lower priority on it, and their whole clusters (R141). -/
def State.victimsByRectangle (s : State) (p : Part) (g : Grid) : Option (List Nat × List (Nat × Nat)) :=
  let r := g.launch
  let anchors := ((List.range p.h).map fun j => (List.range p.w).map fun i => (i, j)).flatten.filter fun a =>
    a.1 + r.clw ≤ p.w && a.2 + r.clh ≤ p.h
  anchors.findSome? fun a =>
    let cs := rectangle r.clw r.clh (p.x + a.1) (p.y + a.2)
    let on := s.d.teams.filter fun m => s.vacatable p.num g.prio m && cs.contains m.core
    let gone := (on.map fun m => teamNames (s.clusterOf m)).flatten
    if clusterFits (s.views p g.seq gone) r cs then some (cs, gone) else none

/-- The cores chosen for the current grid of a partition, and the teams to vacate for it, when its next team or cluster fits no core (R141).
DEDUCED, safe (log 56). -/
def State.victims (s : State) (p : Part) : Option (Grid × List Nat × List (Nat × Nat)) :=
  match s.dealOrder p with
  | [] => none
  | g :: _ =>
    let waits := s.d.cores.any fun c => c.2.held = some g.seq
    if g.launch.whole || waits || (findPlace p p.lastCore (s.views p g.seq []) g.launch).isSome then none
    else
      let found := if g.launch.clw * g.launch.clh = 1 then
          let order := (s.d.teams.filter fun m => s.vacatable p.num g.prio m).foldl (fun acc m => s.insertVictim m acc) []
          s.victimsByOrder p g order []
        else s.victimsByRectangle p g
      found.map fun v => (g, v)

/-- The cores chosen for a grid, and those of the teams to be vacated, are held for it, and the latter's calls are abandoned (R141, R259). A
chosen core on which no team is vacated is held too. DEDUCED, safe (log 56). -/
def State.holdCores (s : State) (cs : List Nat) (gone : List (Nat × Nat)) (seq : Nat) : State :=
  let left := (s.d.teams.filter fun m => gone.contains (m.grid, m.idx)).map Team.core
  let s := (cs ++ left).foldl (fun (u : State) c => u.onCore c fun x => { x with held := some seq }) s
  left.foldl State.abandonCall s

/-- PREEMPT_REQUEST: spatial pre-emption of the teams that R141 chooses, the subject's among them. Subject: sequence number, team, REASON;
the long-service REASON 1 is switch-out's own. -/
def execPreemptRequest (s : State) : Host.Outcome State Fault Refusal :=
  match (s.grid s.subject.a).bind fun g => s.part g.part with
  | none => .next s
  | some p =>
    match s.victims p with
    | some (g, cs, gone) =>
      if s.subject.c = 0 && gone.contains (s.subject.a, s.subject.b) then .next ((s.holdCores cs gone g.seq).preemptTeams gone 0) else .next s
    | none => .next s

/-- GRACE_EXPIRY: a held pre-emption has not been taken within its limit (R194). Subject: train. DEDUCED, safe (log 58). -/
def execGraceExpiry (s : State) : Host.Outcome State Fault Refusal :=
  let u := s.stage s.subject.a
  match u.t.x.preempt, u.t.x.graceRun with
  | some reason, some _ =>
    if u.t.life = .running && u.t.i.id = s.subject.a && u.t.x.priv then
      let info := reason * 2 ^ 60 + bitAt u.matrixBit 1 + bitAt (!u.t.m.ice.isEmpty) 0
      .next (u.stopTeam 2 0x23 0 (BitVec.ofNat 64 info) u.t.split.pc)
    else .next s
  | _, _ => .next s

/-- Registers that nothing has restored: free values within the budgets (R195, R198). DESIGN CHOICE, safe (log 48). -/
def leftoverRegs (tick : Nat) (i : Ident) : Regs :=
  let v := (List.range (i.regs * 64)).foldl (fun (acc : Sparse Word) k =>
    if k % 64 < i.width then Table.set 0 acc k ((Config.leftover tick k).truncate 32) else acc) []
  let s := (List.range i.uregs).foldl (fun (acc : Sparse Dword) k => Table.set 0 acc k (Config.leftover tick (65536 + k))) []
  let p := (List.range i.preds).foldl (fun (acc : Sparse Mask) k =>
    if k = 0 then acc else Table.set 0 acc k (Config.leftover tick (131072 + k))) []
  { Regs.reset with v := v, s := s, p := p }

/-- The trap registers of a resume entry (R198). -/
def resumeRegs (t : Train) : TrapRegs := ⟨0x3_0022, t.live, 0, 0, BitVec.ofNat 64 (2 * 2 ^ 60) + t.x.info, true⟩

/-- A vacated train enters its handler on its new core (R198); its tiles stand as the device saved them, unless their generation has
passed (R203). -/
def Train.replace (t : Train) (tick core quarter slot record area : Nat) (lost : Bool) : Train :=
  let t := { t with
    life := .running, core := core, quarter := quarter, seat := slot, r := leftoverRegs tick t.i,
    m := if lost then { t.m with z := [], mat := [], ice := [], lost := some 0 } else t.m,
    x := { t.x with frozen := [], preempt := none, graceRun := none, floor := t.d.depth } }
  t.enter (resumeRegs t) true record area

/-- The pages that a switched-out team waits for are made ready: each holds a frame (R192). -/
def State.makeReady (s : State) (gs : List Nat) : State :=
  gs.foldl (fun (u : State) g => if u.m.tierOf g == some .deep then { u with m := u.m.promote g } else u) s

/-- A vacated team is placed again on a core (R142, R198). DEDUCED, safe (log 59). -/
def State.replaceTeam (s : State) (g : Grid) (m : Team) (core : Nat) : State :=
  let ptr := (s.core core).quarter
  let lost := m.savedGen != m.matrixGen
  let s := s.makeReady m.awaits
  let s := s.mapTrains (fun t => t.i.grid = g.seq && t.i.team = m.idx && t.life = .vacated && t.i.id != 0) fun t =>
    t.replace s.tick core ((ptr + t.i.num) % 4) (s.slotFor core ptr t.i.num) (m.record t.i.num) m.area lost
  let s := s.onTeam g.seq m.idx fun m =>
    { m with life := .placed, core := core, ptr := ptr, awaits := [], obuf := if lost then [] else m.obuf, resv := if lost then [] else m.resv }
  let s := s.onCore core fun c => { c with quarter := (ptr + g.launch.trains) % 4 }
  s.writeHeader g.part g.seq m.idx 0 0 0

/-- A grid's descriptor is not resumable while a team is placed (R201). -/
def State.undescribe (s : State) (g : Grid) : State := s.setDescs (fun d => d.seq = g.seq && d.part = g.part && d.state = 1) 0

/-- TEAM_REPLACE: the distributor places a vacated cluster again, whole, where nothing else is dealt first (R127, R142, R198). Subject:
sequence number, team. -/
def execTeamReplace (s : State) : Host.Outcome State Fault Refusal :=
  match s.team s.subject.a s.subject.b, s.grid s.subject.a with
  | some m, some g =>
    match s.nextDeal g.part with
    | some (h, .again k cs) =>
      if h.seq ≠ g.seq || m.cluster ≠ k then .next s
      else
        let ms := s.d.teams.filter fun o => o.grid = g.seq && o.cluster = k && o.life = .vacated
        let s := ms.foldl (fun (u : State) o => u.replaceTeam g o (cs.getD o.rank 0)) s
        let s := s.onGrid g.seq fun g => { g with back := g.back.filter fun j => j != k }
        .next ((s.undescribe g).served g cs.getLast?)
    | _ => .next s
  | _, _ => .next s

/-- The granule that a slot of a train is parked for (R66). -/
def Train.parkedAt (t : Train) (one : Bool) : Option Nat := (t.slot one).parked

/-- A parked slot's wait for its page is over (R66). -/
def Train.unpark (t : Train) (one : Bool) : Train := t.setSlot one { t.slot one with parked := none }

/-- A parked access of the train on the issue stage issues again with every lane not yet performed, once its granules have frames; with its
translation gone it ends in its record (R66, R80). -/
def State.resumeOp (s : State) (o : Op) : State :=
  let (u, o) := s.reissueMet o
  if o.done then u.complete o else u.onT fun t => t.setOp { o with pulled := true }

/-- PARK_RESUME: the page is ready, its granule holding a frame, and a parked slot issues its instruction again, or a parked access is
issued again (R66). Subject: train, slot 0 or 1, or 2 and the operation. -/
def execParkResume (s : State) : Host.Outcome State Fault Refusal :=
  let s := s.stage s.subject.a
  if s.t.i.id ≠ s.subject.a then .next s
  else if 2 ≤ s.subject.b then
    match s.t.op s.subject.c with
    | some o => if o.parked && !o.done then .next (s.resumeOp o) else .next s
    | none => .next s
  else
    let one := s.subject.b = 1
    match s.t.parkedAt one with
    | none => .next s
    | some g =>
      match s.m.tierOf g with
      | some .deep => if s.frameFree s.t.i.part then .next (State.onT { s with m := s.m.promote g } fun t => t.unpark one) else .next s
      | _ => .next (s.onT fun t => t.unpark one)

/-- SWITCH_OUT: the service requests pre-emption, REASON 1, of the cluster of a parked train whose grid can be saved (R192). Subject:
train, slot. DEDUCED, safe (log 61). -/
def execSwitchOut (s : State) : Host.Outcome State Fault Refusal :=
  match s.train s.subject.a with
  | none => .next s
  | some t =>
    match t.parkedAt (s.subject.b = 1), s.team t.i.grid t.i.team, s.grid t.i.grid with
    | some _, some m, some g =>
      if t.life ≠ .running || g.launch.handler = 0 || g.launch.whole || t.x.preempt.isSome || t.nested then .next s
      else
        let names := teamNames (s.clusterOf m)
        let wants := fun (o : Team) => ((s.trains.filter fun x => x.i.grid = o.grid && x.i.team = o.idx).map fun x =>
          [x.parkedAt false, x.parkedAt true].filterMap id).flatten
        let s := names.foldl (fun (u : State) n => u.onTeam n.1 n.2 fun o => { o with awaits := o.awaits ++ wants o }) s
        .next (s.preemptTeams names 1)
    | _, _, _ => .next s

/-- A grid with a team on a failed core: its trains end at once, nothing more of it is dealt, and it will complete with *hardware fault*
(R38). DEDUCED, unsafe (log 60). Cores that are held for it (R141) are held no more. DESIGN CHOICE, safe (log 135). -/
def State.failGrid (s : State) (seq : Nat) : State :=
  let s := (s.unholdCores [seq]).onGrid seq fun g => { g with failed := true, dealt := g.launch.clusters, back := [] }
  let ids := (s.trains.filter fun t => t.i.grid = seq && (t.life = .running || t.life = .vacated) && t.i.id != 0).map fun t => t.i.id
  let s := ids.foldl (fun (u : State) id => u.withTrain id fun w => (w.onT fun t => { t.endLanes with x := { t.x with preempt := none } }).tryEnd) s
  s.onGrid seq fun g => { g with back := [] }

/-- CORE_FAILURE: a core fails beyond correction at run time and is withdrawn; the grids with teams on it end (R38). A service core's
failure ends the copy that it performed (R366). Subject: core; a service core from 256, and its copy's sequence number. -/
def execCoreFailure (s : State) : Host.Outcome State Fault Refusal :=
  let c := s.subject.a
  if s.k.phase ≠ .accepting then .next s
  else if Config.cores ≤ c then .next (s.copyFailed s.subject.b)
  else if (s.core c).failed then .next s
  else
    let seqs := ((s.d.teams.filter fun m => m.life = .placed && m.core = c).map Team.grid).foldl (fun (acc : List Nat) n =>
      if acc.contains n then acc else acc ++ [n]) []
    let s := (s.abandonCall c).unholdCores (s.core c).held.toList
    let s := s.onCore c fun x => { x with failed := true }
    .next (seqs.foldl (fun (u : State) n => u.failGrid n) s)

end Sys2Proof.Machine
end

