-- ==== Sys2Proof/Machine/Tier.lean ====
section
/-! DEFINITION. The events of the tiers: accesses at their home slices, arrivals, demotions, evictions, zero fills, refreshes, the quarantine
queue and the flash (R69 to R81). -/
namespace Sys2Proof.Machine

/-- Does a pending operation read, or write, this line? -/
def Op.wants (o : Op) (line : Nat) (writes : Bool) : Bool := o.homes.any fun h => lineOf h.1 = line && h.2 == writes

/-- The operations of a train that find their line in a deep granule with no free frame. An access leaves its granule and its train parks, until it
is issued again with every lane not yet performed; an engine operation waits (R66, R69, R360). A granule that an access issued has met stays out
of the deep tier until it has been performed (`inUse`), so that one comes here only in a state in which no access has met it. DEDUCED, safe
(log 19). -/
def Train.parkAt (t : Train) (line : Nat) (writes : Bool) : Train :=
  { t with c := { t.c with ops := t.c.ops.map fun o => match o.work with
    | .engine .. => { o with pulled := o.pulled || o.wants line writes }
    | _ => { o with parked := o.parked || o.wants line writes } } }

/-- The operations of a train that need a pull of their line (R72). -/
def Train.pullAt (t : Train) (line : Nat) (writes : Bool) : Train :=
  { t with c := { t.c with ops := t.c.ops.map fun o => { o with pulled := o.pulled || o.wants line writes } } }

/-- A pending access of a train reaches the home slice of its line and is met by its granule's tier state (R69, R70, R78). -/
def State.meetHome (s : State) (train core line : Nat) (writes : Bool) : State :=
  match s.homeAccess (line * 256) writes with
  | some u =>
    if s.m.needsPull (line * 256) then (u.mapTrains (fun t => t.i.id = train) fun t => t.pullAt line writes).noteStall core else u
  | none => (s.mapTrains (fun t => t.i.id = train) fun t => t.parkAt line writes).noteStall core

/-- A word turns uncorrectable; the first read that meets it handles it (R74). -/
def Store.spoil (m : Store) (w : Nat) : Store := if m.latent.contains w || m.poison.contains w then m else { m with latent := w :: m.latent }

/-- A word of a train's private pages, which are not tolerant, is found uncorrectable (R59, R74, R76). -/
def Train.spoilPriv (t : Train) (w : Nat) : Train := if t.privBad.contains w then t else { t with privBad := w :: t.privBad }

/-- ECC corrects an error on a line, which its pseudo-channel counts (R38, R74). -/
def State.noteCorrected (s : State) (line : Nat) : State :=
  let n := Config.channelOf line
  { s with k := { s.k with corrected := Table.set 0 s.k.corrected n (Table.get 0 s.k.corrected n + 1) } }

/-- HOME_SLICE_ACCESS: a pending access of a train reaches the home slice of its line, or a memory controller finds an error. Subject: line,
kind, train; an odd kind writes. Kind div 2 names, from 1 to 8, the 32-byte word of the line that the controller finds uncorrectable on the
way (R74); 9 an uncorrectable word of the train's private pages, lane × 2048 + offset div 32; 10 one of any granule, by its number; 11 an
error on the line that ECC corrects. DESIGN CHOICE, unsafe (log 20). -/
def execHomeSliceAccess (s : State) : Host.Outcome State Fault Refusal :=
  let line := s.subject.a
  let writes := s.subject.b % 2 = 1
  let k := s.subject.b / 2
  match s.train s.subject.c with
  | none => .next s
  | some t =>
    if k ≤ 8 then
      if !(t.c.ops.any fun o => o.wants line writes) then .next s
      else
        let s := s.meetHome t.i.id t.core line writes
        .next (if k = 0 then s else { s with m := s.m.spoil (line * 8 + k - 1) })
    else if k = 9 then .next (s.mapTrains (fun u => u.i.id = t.i.id) fun u => u.spoilPriv line)
    else if k = 10 then .next (if (s.m.gran (line / 2048)).isSome then { s with m := s.m.spoil line } else s)
    else if k = 11 then .next (s.noteCorrected line)
    else .next s

/-- LINE_ARRIVAL: a line of a promoting granule arrives in its frame; the last one commits the promotion (R69, R70). Subject: line, and 1
where the flash could not read it, so that its words count as uncorrectable (R73). -/
def execLineArrival (s : State) : Host.Outcome State Fault Refusal :=
  let g := s.subject.a / 256
  let line := s.subject.a % 256
  match s.m.gran g with
  | none => .next s
  | some e =>
    if e.tier ≠ .promoting || e.lines.contains line then .next s
    else
      let bad := s.subject.b = 1
      let words := (List.range 8).map fun i => s.subject.a * 8 + i
      let m := if bad then words.foldl Store.meet { s.m with latent := words ++ s.m.latent.filter fun w => !words.contains w } else s.m
      let (e', commit) := e.arrive line
      let m := m.onGran g fun _ => e'
      if commit then .next (State.settleNode { s with m := m.promotionCommit e.part g } e.part g) else .next { s with m := m }

/-- DEMOTION_LINE_WRITTEN: the shunter writes a line of a demoting granule to the deep tier, which counts its bytes; the last one, which waits for
the accesses in flight to the granule, commits the demotion (R66, R70, R73). Subject: line. DEDUCED, safe (log 19). -/
def execDemotionLineWritten (s : State) : Host.Outcome State Fault Refusal :=
  let g := s.subject.a / 256
  let line := s.subject.a % 256
  match s.m.gran g with
  | none => .next s
  | some e =>
    if e.tier ≠ .demoting || e.lines.contains line || (e.lines.length = 255 && s.inUse g) then .next s
    else
      let m := ((List.range 8).map fun i => s.subject.a * 8 + i).foldl Store.meet s.m
      let ls := e.lines ++ [line]
      let s := { s with k := { s.k with written := s.k.written + 256 } }
      if ls.length = 256 then
        let m := (m.onGran g fun e => { e with tier := .deep, lines := [] }).demotionCommit e.part g
        .next (State.settleNode { s with m := m } e.part g)
      else .next { s with m := m.onGran g fun e => { e with lines := ls } }

/-- The frames that a request which waits needs of a partition at once (R200, R367); one that waits for a line needs those of its accesses. -/
def State.pendingFrames (s : State) (part : Nat) : Act → Nat
  | .event (.loadImage r image) _ => if r.part = part then (match s.readImage part image with
      | .ok x => x.frames
      | .error _ => 0) else 0
  | .event (.map r (.pages _ len attrs)) _ => if r.part = part && (readAttrs attrs).any (fun a => a.hint = 2) then len.toNat / 65536 else 0
  | .event (.resumeContext _ desc target) _ => if target = part then ((s.q.descs.find? fun d => d.addr = desc.toNat).map fun d => d.bytes / 65536).getD 0
      else 0
  | _ => 0

/-- The frames that the head of a partition's refinement queue needs (R89, R93). -/
def State.refineFrames (s : State) (p : Part) : Nat :=
  match p.refine with
  | [] => 0
  | (h, n, _) :: _ => match s.object p.num h with
    | some o => if (o.node n).state = .absent then ((s.m.payload p.num (o.node n)).filter fun g => s.m.tierOf g == some .deep).length else 0
    | none => 0

/-- The frames that each thing which waits for some needs of a partition: requests, a refinement, the grids that may be dealt next, context
descriptors, and the platform space of ray sets (R71, R89, R192, R201, R249, R367). -/
def State.frameNeeds (s : State) (p : Part) : List Nat :=
  s.q.pending.map (s.pendingFrames p.num) ++ [s.refineFrames p] ++ (s.dealOrder p).map s.dealFrames ++
  ((s.d.grids.filter fun g => g.part = p.num && s.descWanted g).map Grid.descGranules) ++
  (s.y.rays.filter fun r => r.set.part = p.num && r.place = .offered && !(s.y.space.any fun e => e.1 = p.num && e.2.1 = r.set.addr)).map fun r =>
    s.platformNeed r.set

/-- Does something of a partition wait for frames: no frame is free, or something needs more than are (R71)? DESIGN CHOICE, safe (log 18). -/
def State.framesWanted (s : State) (p : Part) : Bool := !s.frameFree p.num || (s.frameNeeds p).any fun n => s.freeFrames p.num < n

/-- EVICTION_REQUEST: the shunter chooses an unpinned fast granule of a partition that needs frames and starts its demotion; one of a
node's evicts the node (R71, R98). Subject: partition, granule. -/
def execEvictionRequest (s : State) : Host.Outcome State Fault Refusal :=
  let g := s.subject.b
  match s.part s.subject.a with
  | none => .next s
  | some p =>
    if !s.evictable p.num g || !s.framesWanted p then .next s
    else match s.ownerOf p.num g with
      | none => .next { s with m := s.m.demote g }
      | some (h, n) => match s.object p.num h with
        | none => .next { s with m := s.m.demote g }
        | some o =>
          if o.resident n then .next (s.evictNode p.num h n)
          else .next (State.settleNode { s with m := s.m.demote g } p.num g)

/-- DORMANT_ZERO_FILL: the zero fill of a granule completes (R78). Subject: granule. -/
def execDormantZeroFill (s : State) : Host.Outcome State Fault Refusal :=
  match s.m.gran s.subject.a with
  | some e => if e.filling then .next { s with m := s.m.zeroFill s.subject.a } else .next s
  | none => .next s

/-- Pseudo-channels of the device (R11). -/
def channels : Nat := 512

/-- FORCED_REFRESH: a pseudo-channel's forced-refresh count rises (R79). Subject: pseudo-channel. DESIGN CHOICE, safe (log 28). -/
def execForcedRefresh (s : State) : Host.Outcome State Fault Refusal :=
  let n := s.subject.a
  if channels ≤ n then .next s
  else .next { s with k := { s.k with refreshes := Table.set 0 s.k.refreshes n (Table.get 0 s.k.refreshes n + 1) } }

/-- QUARANTINE_RELEASE: what was freed at an epoch that Q has passed may be used again; a unified range is given out again (R81). A
descriptor that waited for frames is written (R201). Subject: index in the queue. DEDUCED, safe (log 99). -/
def execQuarantineRelease (s : State) : Host.Outcome State Fault Refusal :=
  match s.m.quarantine[s.subject.a]? with
  | none => .next s
  | some e =>
    if s.quiescence ≤ e.epoch then .next s
    else
      let s := { s with m := { s.m with quarantine := s.m.quarantine.eraseIdx s.subject.a,
                                        freeUa := if e.kind = 0 then s.m.freeUa ++ [(e.ua, e.len)] else s.m.freeUa } }
      .next (((s.d.grids.filter fun g => g.part = e.part).map Grid.seq).foldl (fun (u : State) n => u.describe n) s)

/-- BAD_BLOCK_RETIREMENT: the spare blocks that remain; with too few, what would start deep or go deep is refused (R73). Subject: spare
blocks left. DESIGN CHOICE, safe (log 27). -/
def execBadBlockRetirement (s : State) : Host.Outcome State Fault Refusal :=
  let n := s.subject.a
  .next { s with k := { s.k with spareBlocks := n, flashFull := s.k.flashFull || n < Config.minSpare } }

end Sys2Proof.Machine
end

