-- ==== Sys2Proof/Machine/Package.lean ====
section
/-! DEFINITION. The package: bring-up, power and its arbiter, and the messages of peers (R13 to R24, R31 to R34, R101). -/
namespace Sys2Proof.Machine

/-- Does no responder run: no service core of base die 0 passes, or the management port cannot be trained (R34)? -/
def noResponder (f : SelfTest) : Bool := !f.management || (responderOf f).isNone

/-- The device after bring-up's tests: what they found, the spares in place, and the responder where one is needed (R31 to R34). -/
def State.broughtUp (s : State) (f : SelfTest) : State :=
  let phase : Phase := if failingStep f = 0 then .accepting else if noResponder f then .dark else .redSignal
  { s with k := { s.k with phase := phase, indicator := failingStep f ≠ 0, selfTest := testsFound f, spares := sparesPlaced f,
                           responder := if phase = .redSignal then responderOf f else none, spareBlocks := Config.figure 6 0 } }

/-- The module without power: nothing survives but what will come from outside (R21, R24). DEDUCED, safe (log 90). -/
def State.unpowered (s : State) : State :=
  { State.reset with agenda := s.agenda, tick := s.tick, k := { State.reset.k with phase := .off } }

/-- BRING_UP: the image is verified and the tests run in order (R31). Power-on begins it from a device that holds nothing
(R24). DESIGN CHOICE, safe (log 89). -/
def execBringUp (found : SelfTest) (s : State) : Host.Outcome State Fault Refusal :=
  match s.k.phase with
  | .comingUp => .next (s.broughtUp found)
  | .off => .next (s.unpowered.broughtUp found)
  | _ => .next s

/-- POWER_OFF (R24). -/
def execPowerOff (s : State) : Host.Outcome State Fault Refusal := .next s.unpowered

/-- SHUTDOWN_TRIP (R21). -/
def execShutdownTrip (s : State) : Host.Outcome State Fault Refusal := .next s.unpowered

/-- The largest grant of a client above its floor, in steps of 0.5 W (R22). -/
def largestGrant (client : Nat) : Nat :=
  if client < 256 then 10 else if client < 264 then 50 else if client < 272 then 20 else if client < 276 then 28 else 0

/-- What the arbiter may give above the floors: 2,000 W less 760 W, in steps of 0.5 W (R22). DEDUCED, safe (log 92). -/
def grantBudget : Nat := 2480

/-- The steps granted. -/
def Power.used (p : Power) : Nat := (p.grants.map Prod.snd).foldl (· + ·) 0

/-- Put a client among others, the one whose last grant is oldest first (R23). -/
def Power.insertOldest (p : Power) (c : Nat) : List Nat → List Nat
  | [] => [c]
  | d :: ds => if Table.get 0 p.last c < Table.get 0 p.last d then c :: d :: ds else d :: p.insertOldest c ds

/-- Reclaim messages go to the clients above their floors, the oldest last grant first (R23). DEDUCED, safe (log 93). -/
def Power.reclaim (p : Power) : Power :=
  { p with reclaimed := (p.grants.map Prod.fst).foldl (fun l c => p.insertOldest c l) [] }

/-- A client is given steps. -/
def Power.give (p : Power) (client steps : Nat) : Power :=
  { p with grants := Table.set 0 p.grants client (Table.get 0 p.grants client + steps),
           last := Table.set 0 p.last client (p.clock + 1), clock := p.clock + 1 }

/-- The arbiter serves requests in order until the budget cannot cover one (R23). -/
def Power.serve : List (Nat × Nat) → Power → Power
  | [], p => { p with waiting := [] }
  | w :: ws, p => if p.used + w.2 ≤ grantBudget then Power.serve ws (p.give w.1 w.2) else Power.reclaim { p with waiting := w :: ws }

/-- The arbiter serves its pending requests, unless the throttle withholds every grant (R21, R23). -/
def Power.next (p : Power) : Power := if p.throttled then p else Power.serve p.waiting p

/-- What a client holds and has asked for. -/
def Power.asked (p : Power) (client : Nat) : Nat :=
  Table.get 0 p.grants client + ((p.waiting.filter fun w => w.1 = client).map Prod.snd).foldl (· + ·) 0

/-- Change the arbiter, unless the module is off (R24). -/
def State.onPower (s : State) (f : Power → Power) : State :=
  if s.k.phase = .off then s else { s with k := { s.k with power := f s.k.power } }

/-- GRANT_REQUEST: a request, cut to the client's largest grant, joins the queue (R22, R23). Subject: client, steps. DESIGN CHOICE, safe (log 91). -/
def execGrantRequest (s : State) : Host.Outcome State Fault Refusal :=
  .next (s.onPower fun p =>
    let n := min s.subject.b (largestGrant s.subject.a - p.asked s.subject.a)
    if n = 0 then p else Power.next { p with waiting := p.waiting ++ [(s.subject.a, n)] })

/-- RECLAIM_RETURN: a reclaimed client's excess returns, and pending requests are served again (R23). Subject: client. -/
def execReclaimReturn (s : State) : Host.Outcome State Fault Refusal :=
  .next (s.onPower fun p =>
    if p.reclaimed.contains s.subject.a then
      Power.next { p with grants := Table.set 0 p.grants s.subject.a 0, reclaimed := p.reclaimed.filter fun c => c != s.subject.a }
    else p)

/-- THROTTLE_TRIP: every grant above the floor is withdrawn (R21). -/
def execThrottleTrip (s : State) : Host.Outcome State Fault Refusal :=
  .next (s.onPower fun p => { p with grants := [], reclaimed := [], throttled := true })

/-- THROTTLE_RELEASE: the arbiter serves requests again. The grants that the trip withdrew do not come back of themselves: their clients
ask again (R21, R23). DEDUCED, safe (log 93). -/
def execThrottleRelease (s : State) : Host.Outcome State Fault Refusal :=
  .next (s.onPower fun p => Power.next { p with throttled := false })

/-- UNSUPPORTED_PACKET: dropped and counted at a port that runs; a port that does not run receives nothing (R13, R14, R20). Subject:
port. -/
def execUnsupportedPacket (s : State) : Host.Outcome State Fault Refusal :=
  .next (if s.portRuns s.subject.a then s.dropAt s.subject.a else s)

/-- The window entry that accepts a peer's message: it names that peer, grants the right, and the bytes lie in one chunk of it
(R15, R16, R19). -/
def State.accepts (s : State) (source window right off n : Nat) : Option Window :=
  s.k.windows.find? fun w => w.num = window && w.peer = source && hasRight w.rights right && decide (0 < n) &&
    decide (off % 256 + n ≤ 256) && decide (off + n ≤ w.len)

/-- The unified address of an offset of an entry, when the page shown there grants the access (R61, R65). DESIGN CHOICE, unsafe (log 94). -/
def State.exposed (s : State) (w : Window) (off right : Nat) : Option Nat :=
  let va := (Config.exposedPage w.num).toNat * 65536 + off
  if s.copyMay w.part va right then s.m.translate w.part va else none

/-- Reply to a peer under its transfer tag (R16). DEDUCED, unsafe (log 96). -/
def State.answerPeer (s : State) (w : Window) (kind : Nat) (tag : Word) (off : Nat) (data : List Byte) (value : Dword) : State :=
  s.sendMessage kind w.peer w.peerWindow tag off data.length data value 0

/-- A peer's message meets the entry that it names and the home slice: by a port that does not run it is not received (R13, R20, R24), and
one on the management port, or that nothing accepts, is dropped and counted there (R19, R20); it waits where the granule is not ready
(R69), else it is performed. DEDUCED, safe (log 97). -/
def State.peerAccess (s : State) (i : Instr) (port source window right off n : Nat) (perform : State → Window → Nat → State) : State :=
  if !s.portRuns port then s
  else match (if port = 8 then none else s.accepts source window right off n) with
    | none => (s.unpark i).dropAt port
    | some w => match s.exposed w off right with
      | none => (s.unpark i).dropAt port
      | some ua =>
        if s.servable ua (right ≠ rightRead) then perform (s.unpark i) w ua
        else ((s.homeAccess ua (right ≠ rightRead)).getD s).park i

/-- A chunk of a peer's transfer is not written: no chunk of the transfer that comes later is (R17). It is remembered, by source, window number
and tag, until the window entry is closed. DESIGN CHOICE, unsafe (log 136). -/
def State.breakTransfer (s : State) (m : PeerWrite) : State :=
  let b := (m.source, m.window, m.tag)
  if s.k.broken.contains b then s else { s with k := { s.k with broken := s.k.broken ++ [b] } }

/-- WRITE_CHUNK: the chunk is written as one unit and acknowledged. One whose check fails, or that belongs to a transfer in which one has
failed, is not written, and neither is one that covers a poisoned word in part; the acknowledge then carries the status 1 (R16, R17, R76,
R101). DEDUCED, unsafe (log 96). -/
def execWriteChunk (m : PeerWrite) (s : State) : Host.Outcome State Fault Refusal :=
  .next (s.peerAccess (.writeChunk m) m.port m.source m.window rightWrite m.offset m.data.length fun s w ua =>
    if !m.crcOk || s.k.broken.contains (m.source, m.window, m.tag) then (s.breakTransfer m).answerPeer w 5 m.tag m.offset [] 1
    else match s.m.write ua m.data (coveredWords ua m.data.length) with
      | (mem, true) => State.answerPeer { s with m := mem } w 5 m.tag m.offset [] 0
      | (mem, false) => (State.breakTransfer { s with m := mem } m).answerPeer w 5 m.tag m.offset [] 1)

/-- READ_REQUEST: the chunk is read as one unit; data that no ECC vouches for are answered with an error status (R16, R76). -/
def execReadRequest (m : PeerRead) (s : State) : Host.Outcome State Fault Refusal :=
  .next (s.peerAccess (.readRequest m) m.port m.source m.window rightRead m.offset m.length fun s w ua =>
    match s.m.read ua m.length with
    | (mem, some b) => State.answerPeer { s with m := mem } w 2 m.tag m.offset b 0
    | (mem, none) => State.answerPeer { s with m := mem } w 5 m.tag m.offset [] 1)

/-- The bytes of an atomic request's word; none for one that no rule allows: misaligned, or an operation that R281 reserves. -/
def atomicBytes (m : PeerAtomic) : Nat :=
  let n := if m.wide then 8 else 4
  if m.offset % n ≠ 0 || (!m.cas && (9 < m.aop.toNat || (m.wide && m.aop = 9))) then 0 else n

/-- ATOMIC_REQUEST: one read-modify-write at the home slice; the prior value is sent (R16, R18, R76). -/
def execAtomicRequest (m : PeerAtomic) (s : State) : Host.Outcome State Fault Refusal :=
  .next (s.peerAccess (.atomicRequest m) m.port m.source m.window rightAtomic m.offset (atomicBytes m) fun s w ua =>
    match s.m.read ua (atomicBytes m) with
    | (mem, none) => State.answerPeer { s with m := mem } w 5 m.tag m.offset [] 1
    | (mem, some b) =>
      let old := natOfBytes b
      let new := atomNew (8 * (atomicBytes m)) m.cas m.aop.toNat old (m.operand.toNat % 2 ^ (8 * (atomicBytes m))) (m.operand2.toNat % 2 ^ (8 * (atomicBytes m)))
      State.answerPeer { s with m := mem.put ua (bytesOfNat (atomicBytes m) new) [] } w 4 m.tag m.offset [] (BitVec.ofNat 64 old))

/-- The chunk or atomic that a tag and an offset name (R16). -/
def State.transfer (s : State) (tag : Word) (offset : Nat) : Option Transfer :=
  s.k.transfers.find? fun x => x.tag = tag && x.offset = offset

/-- It awaits its peer no more. -/
def State.endTransfer (s : State) (x : Transfer) : State := { s with k := { s.k with transfers := s.k.transfers.erase x } }

/-- The train of a transfer stands on the stage; its operation, if it has not completed. -/
def State.transferOp (s : State) (x : Transfer) : State × Option Op :=
  let s := s.stage x.train
  (s, (s.t.op x.op).bind fun o => if o.done then none else some o)

/-- A transfer that failed: a chunk with every chunk of its operation not yet written, or an atomic, is settled with an error mark (R17,
R19, R179). -/
def State.failTransfer (s : State) (o : Op) : State :=
  let s := s.dropTransfers o.id
  match o.work with
  | .atomic space wide cas ret aop d acc =>
    s.complete { o with work := .atomic space wide cas ret aop d (acc.map fun a => { a with done := true }), err := true }
  | _ => s.failOp o

/-- What comes of a transfer of this device, by a port that runs: `f` for its operation, and nothing where it awaits nothing. The reply or
acknowledgement is matched by its tag and offset alone; R19 has the target test the stamped endpoint and the window number and says of no
such test at the source. DESIGN CHOICE, unsafe (log 139). -/
def State.atSource (s : State) (port : Nat) (tag : Word) (offset : Nat) (i : Instr) (f : State → Transfer → Op → State) : State :=
  if !s.portRuns port then s
  else if port = 8 then s.dropAt 8
  else match s.transfer tag offset with
    | none => s.unpark i
    | some x => match s.transferOp x with
      | (s, none) => (s.endTransfer x).unpark i
      | (s, some o) => f s x o

/-- MESSAGE_ABANDON (R17). Subject: tag, offset. -/
def execMessageAbandon (s : State) : Host.Outcome State Fault Refusal :=
  match s.transfer (BitVec.ofNat 32 s.subject.a) s.subject.b with
  | none => .next s
  | some x => match s.transferOp x with
    | (s, none) => .next (s.endTransfer x)
    | (s, some o) => .next ((s.endTransfer x).failTransfer o)

/-- Is the unit of an operation a write chunk (R16)? -/
def Op.writesChunk (o : Op) (unit : Nat) : Bool :=
  match o.work with
  | .engine us .. => (us[unit]?.bind EUnit.key).any fun k => k.1 = 7
  | _ => false

/-- The acknowledge that the subject carries (R16): the tag, the offset, and one number whose bytes are the status, the port, two bytes of
window number and above them the source endpoint. -/
def State.ack (s : State) : PeerAck :=
  let c := s.subject.c
  ⟨c / 2 ^ 8 % 2 ^ 8, c / 2 ^ 32, c / 2 ^ 16 % 2 ^ 16, s.subject.b, BitVec.ofNat 32 s.subject.a, c % 2 ^ 8⟩

/-- ACKNOWLEDGE: the chunk is settled at the source, with an error mark where the status is not 0 (R16, R17). Subject: an acknowledge. -/
def execAcknowledge (s : State) : Host.Outcome State Fault Refusal :=
  let m := s.ack
  .next (s.atSource m.port m.tag m.offset .acknowledge fun s x o =>
    if m.status = 0 && o.writesChunk x.unit then (s.endTransfer x).settleUnit o x.unit false false else (s.endTransfer x).failTransfer o)

/-- The moves of a remote read unit with their bytes out of the chunk that came. -/
def chunkBytes (ms : List Move) (data : List Byte) : List (Move × List Byte) :=
  let lo := (readSpan ms (((ms.head?.bind Move.from?).map Loc.addr).getD 0)).1
  ms.filterMap fun m => m.from?.map fun l => (m, (data.drop (l.addr - lo)).take m.len)

/-- The bytes that a read unit asked for. -/
def spanBytes (ms : List Move) : Nat :=
  let p := readSpan ms (((ms.head?.bind Move.from?).map Loc.addr).getD 0)
  p.2 - p.1

/-- A reply's chunk is checked and written as one unit, once its home slices can serve it and others may see it (R16, R17, R69, R103). -/
def State.landChunk (s : State) (m : PeerReply) (x : Transfer) (o : Op) : State :=
  let i := Instr.readReply m
  match o.work with
  | .engine us .. =>
    match us[x.unit]? with
    | some u =>
      if u.settled || o.writesChunk x.unit then s
      else if !m.crcOk || m.data.length ≠ spanBytes u.moves then ((s.unpark i).endTransfer x).failTransfer o
      else if s.frozen then s.park i
      else if s.unitServable u then
        let (s, err) := ((s.unpark i).endTransfer x).writeUnit (cleanMoves us) (chunkBytes u.moves m.data) false
        s.settleUnit o x.unit false err
      else
        let homes := (u.moves.map Move.global).flatten
        (homes.foldl (fun (s : State) h => (s.homeAccess h.1 (h.2 = rightWrite)).getD s) s).park i
    | none => s
  | _ => s

/-- READ_REPLY (R16, R17). DEDUCED, unsafe (log 98). -/
def execReadReply (m : PeerReply) (s : State) : Host.Outcome State Fault Refusal :=
  .next (s.atSource m.port m.tag m.offset (.readReply m) fun s x o => s.landChunk m x o)

/-- ATOMIC_REPLY: the prior value is delivered to the issuing train's lane (R16, R117). -/
def execAtomicReply (m : PeerReply) (s : State) : Host.Outcome State Fault Refusal :=
  .next (s.atSource m.port m.tag m.offset (.atomicReply m) fun s x o =>
    match o.work with
    | .atomic space wide cas ret aop d acc =>
      if !m.crcOk then (s.endTransfer x).failTransfer o
      else
        let s := (s.endTransfer x).giveOld o wide ret d x.unit m.prior.toNat
        let acc := markDone acc x.unit
        s.afterLanes { o with work := .atomic space wide cas ret aop d acc } acc
    | _ => s)

end Sys2Proof.Machine
end

