-- ==== Sys2Proof/Machine/Uniform.lean ====
section
/-! DEFINITION. The uniform, predicate and guard instructions (R296 to R302). -/
namespace Sys2Proof.Machine

/-- `smov` (R297). -/
def execSmov (c : Ctl) (d a : Fld) (s : State) : Host.Outcome State Fault Refusal :=
  word (.smov c d a) false [.s d.toNat 0, .s a.toNat 0] (uniform c d fun t => t.s a) s

/-- `smovi` (R297). -/
def execSmovi (c : Ctl) (d : Fld) (i : BitVec 14) (s : State) : Host.Outcome State Fault Refusal :=
  word (.smovi c d i) false [.s d.toNat 0] (uniform c d fun _ => i.signExtend 64) s

/-- `smovk` (R297). -/
def execSmovk (c : Ctl) (d : Fld) (lit : Word) (s : State) : Host.Outcome State Fault Refusal :=
  word (.smovk c d lit) false [.s d.toNat 0] (uniformLit c d fun _ => lit.zeroExtend 64) s

/-- `sadd` (R297). -/
def execSadd (c : Ctl) (d a b : Fld) (s : State) : Host.Outcome State Fault Refusal :=
  word (.sadd c d a b) false (needsU d a b) (uniform c d fun t => t.s a + t.s b) s

/-- `ssub` (R297). -/
def execSsub (c : Ctl) (d a b : Fld) (s : State) : Host.Outcome State Fault Refusal :=
  word (.ssub c d a b) false (needsU d a b) (uniform c d fun t => t.s a - t.s b) s

/-- `smul` (R297). -/
def execSmul (c : Ctl) (d a b : Fld) (s : State) : Host.Outcome State Fault Refusal :=
  word (.smul c d a b) false (needsU d a b) (uniform c d fun t => t.s a * t.s b) s

/-- `sand` (R297). -/
def execSand (c : Ctl) (d a b : Fld) (s : State) : Host.Outcome State Fault Refusal :=
  word (.sand c d a b) false (needsU d a b) (uniform c d fun t => t.s a &&& t.s b) s

/-- `sor` (R297). -/
def execSor (c : Ctl) (d a b : Fld) (s : State) : Host.Outcome State Fault Refusal :=
  word (.sor c d a b) false (needsU d a b) (uniform c d fun t => t.s a ||| t.s b) s

/-- `sxor` (R297). -/
def execSxor (c : Ctl) (d a b : Fld) (s : State) : Host.Outcome State Fault Refusal :=
  word (.sxor c d a b) false (needsU d a b) (uniform c d fun t => t.s a ^^^ t.s b) s

/-- `sshl` (R297). -/
def execSshl (c : Ctl) (d a b : Fld) (s : State) : Host.Outcome State Fault Refusal :=
  word (.sshl c d a b) false (needsU d a b) (uniform c d fun t => if 64 ≤ (t.s b).toNat then 0 else t.s a <<< (t.s b).toNat) s

/-- `sshr` (R297). -/
def execSshr (c : Ctl) (d a b : Fld) (s : State) : Host.Outcome State Fault Refusal :=
  word (.sshr c d a b) false (needsU d a b) (uniform c d fun t => if 64 ≤ (t.s b).toNat then 0 else t.s a >>> (t.s b).toNat) s

/-- `saddi` (R297). -/
def execSaddi (c : Ctl) (d a n : Fld) (s : State) : Host.Outcome State Fault Refusal :=
  word (.saddi c d a n) false [.s d.toNat 0, .s a.toNat 0] (uniform c d fun t => t.s a + n.signExtend 64) s

/-- `scmp.eq` (R298). -/
def execScmpEq (c : Ctl) (d a b : Fld) (s : State) : Host.Outcome State Fault Refusal :=
  word (.scmpEq c d a b) false [.p d.toNat, .s a.toNat 0, .s b.toNat 0]
    (predicate c d fun t => if t.s a == t.s b then BitVec.allOnes 64 else 0) s

/-- `scmp.lt.i64` (R298). -/
def execScmpLtI64 (c : Ctl) (d a b : Fld) (s : State) : Host.Outcome State Fault Refusal :=
  word (.scmpLtI64 c d a b) false [.p d.toNat, .s a.toNat 0, .s b.toNat 0]
    (predicate c d fun t => if (t.s a).slt (t.s b) then BitVec.allOnes 64 else 0) s

/-- `scmp.lt.n64` (R298). -/
def execScmpLtN64 (c : Ctl) (d a b : Fld) (s : State) : Host.Outcome State Fault Refusal :=
  word (.scmpLtN64 c d a b) false [.p d.toNat, .s a.toNat 0, .s b.toNat 0]
    (predicate c d fun t => if (t.s a).ult (t.s b) then BitVec.allOnes 64 else 0) s

/-- The fault of an `sld` offset: beyond 64 KiB, or misaligned (R299). -/
def constFault (off n : Nat) (m : Mask) : Option (Nat × Mask × Dword) :=
  if 65536 ≤ off then some (0x0A, m, memInfo 0 4 off)
  else if off % n ≠ 0 then some (0x0A, m, memInfo 1 4 off)
  else none

/-- `sld`'s effect: its checks in either case, TRAPLANES naming the split where no lane takes part (log 121); then the value widened to 64
bits; a poisoned word raises a late record and writes nothing. It is a plain load, which an acquire holds (R102, R296, R299). DESIGN
CHOICE, unsafe (log 121). -/
def loadConst (c : Ctl) (d a : Fld) (w : BitVec 3) (off : BitVec 4) (s : State) : State :=
  let e := s.t.act c
  let (n, signed) := accessSize w
  let ea := (s.t.s a).toNat + off.toNat * n
  s.orRaise (constFault ea n (if e = 0 then s.t.splitLanes else e)) fun s =>
    if e = 0 then s.done
    else if !s.mayAct Order.plain then s.hold .wait
    else
      match (s.act Order.plain).readConst ea n with
      | (s, some b) => (s.onT fun t => t.putS d.toNat (widen 64 n signed (natOfBytes b))).done
      | (s, none) => (s.poisonReply e (memInfo 8 4 ea)).done

/-- `sld` (R299). -/
def execSld (c : Ctl) (d a : Fld) (w : BitVec 3) (off : BitVec 4) (s : State) : Host.Outcome State Fault Refusal :=
  word (.sld c d a w off) false [.s d.toNat 0, .s a.toNat 0] (loadConst c d a w off) s

/-- `rdln`: lane n's value when lane n takes part; otherwise sd keeps its value (R300). -/
def execRdln (c : Ctl) (d a : Fld) (n : BitVec 6) (s : State) : Host.Outcome State Fault Refusal :=
  word (.rdln c d a n) false [.s d.toNat 0, .v a.toNat 0]
    (fun s => (s.onT fun t =>
      if (t.act c).getLsbD n.toNat then t.putS d.toNat ((t.v a n.toNat).zeroExtend 64) else t).done) s

/-- `pand` (R301). -/
def execPand (c : Ctl) (d a b : Fld) (s : State) : Host.Outcome State Fault Refusal :=
  word (.pand c d a b) false (needsP d a b) (predicate c d fun t => t.p a &&& t.p b) s

/-- `por` (R301). -/
def execPor (c : Ctl) (d a b : Fld) (s : State) : Host.Outcome State Fault Refusal :=
  word (.por c d a b) false (needsP d a b) (predicate c d fun t => t.p a ||| t.p b) s

/-- `pxor` (R301). -/
def execPxor (c : Ctl) (d a b : Fld) (s : State) : Host.Outcome State Fault Refusal :=
  word (.pxor c d a b) false (needsP d a b) (predicate c d fun t => t.p a ^^^ t.p b) s

/-- `pandn` (R301). -/
def execPandn (c : Ctl) (d a b : Fld) (s : State) : Host.Outcome State Fault Refusal :=
  word (.pandn c d a b) false (needsP d a b) (predicate c d fun t => t.p a &&& ~~~t.p b) s

/-- `pmov` (R301). -/
def execPmov (c : Ctl) (d a : Fld) (s : State) : Host.Outcome State Fault Refusal :=
  word (.pmov c d a) false [.p d.toNat, .p a.toNat] (predicate c d fun t => t.p a) s

/-- `pnot` (R301). -/
def execPnot (c : Ctl) (d a : Fld) (s : State) : Host.Outcome State Fault Refusal :=
  word (.pnot c d a) false [.p d.toNat, .p a.toNat] (predicate c d fun t => ~~~t.p a) s

/-- `guard`: latch N points at predicate pa from the next word on, when the word's own guard is true in some lane (R302). -/
def execGuard (c : Ctl) (latch : BitVec 1) (a : Fld) (s : State) : Host.Outcome State Fault Refusal :=
  word (.guard c latch a) false [.p a.toNat]
    (fun s => (s.onT fun t =>
      if t.once c then (if latch = 1 then t.withR { t.r with g1 := a } else t.withR { t.r with g0 := a }) else t).done) s

/-- `pset` (R301). -/
def execPset (c : Ctl) (d : Fld) (v : BitVec 1) (s : State) : Host.Outcome State Fault Refusal :=
  word (.pset c d v) false [.p d.toNat] (predicate c d fun _ => if v = 1 then BitVec.allOnes 64 else 0) s

end Sys2Proof.Machine
end

