-- ==== Sys2Proof/Machine/Dispatch.lean ====
section
/-! DEFINITION. The dispatch: one arm per constructor of Instr, each one call of its meaning. -/
namespace Sys2Proof.Machine

def exec (i : Instr) (s : State) : Host.Outcome State Fault Refusal :=
  match i with
  | .nop c => Sys2Proof.Machine.execNop c s
  | .mov c d a => Sys2Proof.Machine.execMov c d a s
  | .add c d a b => Sys2Proof.Machine.execAdd c d a b s
  | .addS c d a b => Sys2Proof.Machine.execAddS c d a b s
  | .sub c d a b => Sys2Proof.Machine.execSub c d a b s
  | .subS c d a b => Sys2Proof.Machine.execSubS c d a b s
  | .addB64 c d a b => Sys2Proof.Machine.execAddB64 c d a b s
  | .subB64 c d a b => Sys2Proof.Machine.execSubB64 c d a b s
  | .mul c d a b => Sys2Proof.Machine.execMul c d a b s
  | .mulS c d a b => Sys2Proof.Machine.execMulS c d a b s
  | .mulhI32 c d a b => Sys2Proof.Machine.execMulhI32 c d a b s
  | .mulhN32 c d a b => Sys2Proof.Machine.execMulhN32 c d a b s
  | .mad c d a b => Sys2Proof.Machine.execMad c d a b s
  | .madS c d a b => Sys2Proof.Machine.execMadS c d a b s
  | .minI32 c d a b => Sys2Proof.Machine.execMinI32 c d a b s
  | .minN32 c d a b => Sys2Proof.Machine.execMinN32 c d a b s
  | .maxI32 c d a b => Sys2Proof.Machine.execMaxI32 c d a b s
  | .maxN32 c d a b => Sys2Proof.Machine.execMaxN32 c d a b s
  | .and c d a b => Sys2Proof.Machine.execAnd c d a b s
  | .andS c d a b => Sys2Proof.Machine.execAndS c d a b s
  | .or c d a b => Sys2Proof.Machine.execOr c d a b s
  | .orS c d a b => Sys2Proof.Machine.execOrS c d a b s
  | .xor c d a b => Sys2Proof.Machine.execXor c d a b s
  | .xorS c d a b => Sys2Proof.Machine.execXorS c d a b s
  | .andn c d a b => Sys2Proof.Machine.execAndn c d a b s
  | .shl c d a b => Sys2Proof.Machine.execShl c d a b s
  | .shr c d a b => Sys2Proof.Machine.execShr c d a b s
  | .sar c d a b => Sys2Proof.Machine.execSar c d a b s
  | .rol c d a b => Sys2Proof.Machine.execRol c d a b s
  | .shli c d a n => Sys2Proof.Machine.execShli c d a n s
  | .shri c d a n => Sys2Proof.Machine.execShri c d a n s
  | .sari c d a n => Sys2Proof.Machine.execSari c d a n s
  | .addi c d a n => Sys2Proof.Machine.execAddi c d a n s
  | .andi c d a n => Sys2Proof.Machine.execAndi c d a n s
  | .bfx c d a b => Sys2Proof.Machine.execBfx c d a b s
  | .bfi c d a b => Sys2Proof.Machine.execBfi c d a b s
  | .abs c d a => Sys2Proof.Machine.execAbs c d a s
  | .neg c d a => Sys2Proof.Machine.execNeg c d a s
  | .clz c d a => Sys2Proof.Machine.execClz c d a s
  | .popc c d a => Sys2Proof.Machine.execPopc c d a s
  | .brev c d a => Sys2Proof.Machine.execBrev c d a s
  | .lea c d a b => Sys2Proof.Machine.execLea c d a b s
  | .sel c d a b => Sys2Proof.Machine.execSel c d a b s
  | .movi c d imm => Sys2Proof.Machine.execMovi c d imm s
  | .movk c d lit => Sys2Proof.Machine.execMovk c d lit s
  | .movS c d a pair => Sys2Proof.Machine.execMovS c d a pair s
  | .cmpEq c d a b => Sys2Proof.Machine.execCmpEq c d a b s
  | .cmpEqS c d a b => Sys2Proof.Machine.execCmpEqS c d a b s
  | .cmpNe c d a b => Sys2Proof.Machine.execCmpNe c d a b s
  | .cmpNeS c d a b => Sys2Proof.Machine.execCmpNeS c d a b s
  | .cmpLtI32 c d a b => Sys2Proof.Machine.execCmpLtI32 c d a b s
  | .cmpLtI32S c d a b => Sys2Proof.Machine.execCmpLtI32S c d a b s
  | .cmpLeI32 c d a b => Sys2Proof.Machine.execCmpLeI32 c d a b s
  | .cmpLeI32S c d a b => Sys2Proof.Machine.execCmpLeI32S c d a b s
  | .cmpLtN32 c d a b => Sys2Proof.Machine.execCmpLtN32 c d a b s
  | .cmpLtN32S c d a b => Sys2Proof.Machine.execCmpLtN32S c d a b s
  | .cmpLeN32 c d a b => Sys2Proof.Machine.execCmpLeN32 c d a b s
  | .cmpLeN32S c d a b => Sys2Proof.Machine.execCmpLeN32S c d a b s
  | .cmpiEq c d a n => Sys2Proof.Machine.execCmpiEq c d a n s
  | .cmpiLtI32 c d a n => Sys2Proof.Machine.execCmpiLtI32 c d a n s
  | .cmpiLtN32 c d a n => Sys2Proof.Machine.execCmpiLtN32 c d a n s
  | .fadd c d a b => Sys2Proof.Machine.execFadd c d a b s
  | .faddS c d a b => Sys2Proof.Machine.execFaddS c d a b s
  | .fsub c d a b => Sys2Proof.Machine.execFsub c d a b s
  | .fsubS c d a b => Sys2Proof.Machine.execFsubS c d a b s
  | .fmul c d a b => Sys2Proof.Machine.execFmul c d a b s
  | .fmulS c d a b => Sys2Proof.Machine.execFmulS c d a b s
  | .ffma c d a b => Sys2Proof.Machine.execFfma c d a b s
  | .ffmaS c d a b => Sys2Proof.Machine.execFfmaS c d a b s
  | .fmin c d a b => Sys2Proof.Machine.execFmin c d a b s
  | .fmax c d a b => Sys2Proof.Machine.execFmax c d a b s
  | .fabs c d a => Sys2Proof.Machine.execFabs c d a s
  | .fneg c d a => Sys2Proof.Machine.execFneg c d a s
  | .faddF64 c d a b => Sys2Proof.Machine.execFaddF64 c d a b s
  | .fmulF64 c d a b => Sys2Proof.Machine.execFmulF64 c d a b s
  | .ffmaF64 c d a b => Sys2Proof.Machine.execFfmaF64 c d a b s
  | .fsubF64 c d a b => Sys2Proof.Machine.execFsubF64 c d a b s
  | .faddH16x2 c d a b => Sys2Proof.Machine.execFaddH16x2 c d a b s
  | .fmulH16x2 c d a b => Sys2Proof.Machine.execFmulH16x2 c d a b s
  | .ffmaH16x2 c d a b => Sys2Proof.Machine.execFfmaH16x2 c d a b s
  | .faddBf16x2 c d a b => Sys2Proof.Machine.execFaddBf16x2 c d a b s
  | .fmulBf16x2 c d a b => Sys2Proof.Machine.execFmulBf16x2 c d a b s
  | .ffmaBf16x2 c d a b => Sys2Proof.Machine.execFfmaBf16x2 c d a b s
  | .fdot2Bf16 c d a b => Sys2Proof.Machine.execFdot2Bf16 c d a b s
  | .fscale c d a b => Sys2Proof.Machine.execFscale c d a b s
  | .fcmpEqF32 c d a b => Sys2Proof.Machine.execFcmpEqF32 c d a b s
  | .fcmpNeF32 c d a b => Sys2Proof.Machine.execFcmpNeF32 c d a b s
  | .fcmpLtF32 c d a b => Sys2Proof.Machine.execFcmpLtF32 c d a b s
  | .fcmpLeF32 c d a b => Sys2Proof.Machine.execFcmpLeF32 c d a b s
  | .fcmpUnF32 c d a b => Sys2Proof.Machine.execFcmpUnF32 c d a b s
  | .fcmpEqF64 c d a b => Sys2Proof.Machine.execFcmpEqF64 c d a b s
  | .fcmpLtF64 c d a b => Sys2Proof.Machine.execFcmpLtF64 c d a b s
  | .fcmpLeF64 c d a b => Sys2Proof.Machine.execFcmpLeF64 c d a b s
  | .fclass c d a => Sys2Proof.Machine.execFclass c d a s
  | .frnd c d a mode => Sys2Proof.Machine.execFrnd c d a mode s
  | .fcvt c d a mode pair => Sys2Proof.Machine.execFcvt c d a mode pair s
  | .fcvtPk c d a mode pair => Sys2Proof.Machine.execFcvtPk c d a mode pair s
  | .frcp c d a => Sys2Proof.Machine.execFrcp c d a s
  | .frsq c d a => Sys2Proof.Machine.execFrsq c d a s
  | .fsqrt c d a => Sys2Proof.Machine.execFsqrt c d a s
  | .fexp2 c d a => Sys2Proof.Machine.execFexp2 c d a s
  | .flog2 c d a => Sys2Proof.Machine.execFlog2 c d a s
  | .fsinpi c d a => Sys2Proof.Machine.execFsinpi c d a s
  | .fcospi c d a => Sys2Proof.Machine.execFcospi c d a s
  | .ftanh c d a => Sys2Proof.Machine.execFtanh c d a s
  | .fdiv c d a b => Sys2Proof.Machine.execFdiv c d a b s
  | .smov c d a => Sys2Proof.Machine.execSmov c d a s
  | .smovi c d imm => Sys2Proof.Machine.execSmovi c d imm s
  | .smovk c d lit => Sys2Proof.Machine.execSmovk c d lit s
  | .sadd c d a b => Sys2Proof.Machine.execSadd c d a b s
  | .ssub c d a b => Sys2Proof.Machine.execSsub c d a b s
  | .smul c d a b => Sys2Proof.Machine.execSmul c d a b s
  | .sand c d a b => Sys2Proof.Machine.execSand c d a b s
  | .sor c d a b => Sys2Proof.Machine.execSor c d a b s
  | .sxor c d a b => Sys2Proof.Machine.execSxor c d a b s
  | .sshl c d a b => Sys2Proof.Machine.execSshl c d a b s
  | .sshr c d a b => Sys2Proof.Machine.execSshr c d a b s
  | .saddi c d a n => Sys2Proof.Machine.execSaddi c d a n s
  | .scmpEq c d a b => Sys2Proof.Machine.execScmpEq c d a b s
  | .scmpLtI64 c d a b => Sys2Proof.Machine.execScmpLtI64 c d a b s
  | .scmpLtN64 c d a b => Sys2Proof.Machine.execScmpLtN64 c d a b s
  | .sld c d a w off => Sys2Proof.Machine.execSld c d a w off s
  | .rdln c d a lane => Sys2Proof.Machine.execRdln c d a lane s
  | .pand c d a b => Sys2Proof.Machine.execPand c d a b s
  | .por c d a b => Sys2Proof.Machine.execPor c d a b s
  | .pxor c d a b => Sys2Proof.Machine.execPxor c d a b s
  | .pandn c d a b => Sys2Proof.Machine.execPandn c d a b s
  | .pmov c d a => Sys2Proof.Machine.execPmov c d a s
  | .pnot c d a => Sys2Proof.Machine.execPnot c d a s
  | .guard c latch a => Sys2Proof.Machine.execGuard c latch a s
  | .pset c d v => Sys2Proof.Machine.execPset c d v s
  | .shflIdx c d a b => Sys2Proof.Machine.execShflIdx c d a b s
  | .shflUp c d a b => Sys2Proof.Machine.execShflUp c d a b s
  | .shflDn c d a b => Sys2Proof.Machine.execShflDn c d a b s
  | .shflXor c d a b => Sys2Proof.Machine.execShflXor c d a b s
  | .voteAny c d a => Sys2Proof.Machine.execVoteAny c d a s
  | .voteAll c d a => Sys2Proof.Machine.execVoteAll c d a s
  | .ballot c d a => Sys2Proof.Machine.execBallot c d a s
  | .matchLanes c d a => Sys2Proof.Machine.execMatchLanes c d a s
  | .redux c d a op => Sys2Proof.Machine.execRedux c d a op s
  | .scan c d a op => Sys2Proof.Machine.execScan c d a op s
  | .wid c d => Sys2Proof.Machine.execWid c d s
  | .elect c d => Sys2Proof.Machine.execElect c d s
  | .bra c off => Sys2Proof.Machine.execBra c off s
  | .call c off => Sys2Proof.Machine.execCall c off s
  | .ret c => Sys2Proof.Machine.execRet c s
  | .jmpi c a => Sys2Proof.Machine.execJmpi c a s
  | .fork k off => Sys2Proof.Machine.execFork k off s
  | .join k => Sys2Proof.Machine.execJoin k s
  | .exit c => Sys2Proof.Machine.execExit c s
  | .idem k => Sys2Proof.Machine.execIdem k s
  | .trap c n => Sys2Proof.Machine.execTrap c n s
  | .brk c n => Sys2Proof.Machine.execBrk c n s
  | .barArrive k pd bar => Sys2Proof.Machine.execBarArrive k pd bar s
  | .barWait k pa bar => Sys2Proof.Machine.execBarWait k pa bar s
  | .barSync k bar => Sys2Proof.Machine.execBarSync k bar s
  | .barDrop k pd bar => Sys2Proof.Machine.execBarDrop k pd bar s
  | .barExpect k sb bar => Sys2Proof.Machine.execBarExpect k sb bar s
  | .barTry k pd pa bar sb => Sys2Proof.Machine.execBarTry k pd pa bar sb s
  | .wait k ac lim => Sys2Proof.Machine.execWait k ac lim s
  | .fence c sc => Sys2Proof.Machine.execFence c sc s
  | .yield c => Sys2Proof.Machine.execYield c s
  | .ldp c d a w off => Sys2Proof.Machine.execLdp c d a w off s
  | .stp c d a w off => Sys2Proof.Machine.execStp c d a w off s
  | .lds c d a w off => Sys2Proof.Machine.execLds c d a w off s
  | .sts c d a w off => Sys2Proof.Machine.execSts c d a w off s
  | .ldc c d a w off => Sys2Proof.Machine.execLdc c d a w off s
  | .stc c d a w off => Sys2Proof.Machine.execStc c d a w off s
  | .ldg c d p off ac sz => Sys2Proof.Machine.execLdg c d p off ac sz s
  | .stg c d p off ac sz => Sys2Proof.Machine.execStg c d p off ac sz s
  | .ldgAcq c d p sc sz ac => Sys2Proof.Machine.execLdgAcq c d p sc sz ac s
  | .stgRel c d p sc sz ac => Sys2Proof.Machine.execStgRel c d p sc sz ac s
  | .ldk c d a w off => Sys2Proof.Machine.execLdk c d a w off s
  | .ldo c d a ac => Sys2Proof.Machine.execLdo c d a ac s
  | .odrop c a => Sys2Proof.Machine.execOdrop c a s
  | .oreqRefine c d a ac => Sys2Proof.Machine.execOreqRefine c d a ac s
  | .oreqEvict c d a ac => Sys2Proof.Machine.execOreqEvict c d a ac s
  | .pfg c a => Sys2Proof.Machine.execPfg c a s
  | .atom c d a b lit => Sys2Proof.Machine.execAtom c d a b lit s
  | .acas c d a b lit => Sys2Proof.Machine.execAcas c d a b lit s
  | .red c a b lit => Sys2Proof.Machine.execRed c a b lit s
  | .tcopy c d a ac rel lit => Sys2Proof.Machine.execTcopy c d a ac rel lit s
  | .tgath c d a ac rel => Sys2Proof.Machine.execTgath c d a ac rel s
  | .tscat c d a ac rel => Sys2Proof.Machine.execTscat c d a ac rel s
  | .obres c ob lit => Sys2Proof.Machine.execObres c ob lit s
  | .obld c barn ob a ac lvl rel => Sys2Proof.Machine.execObld c barn ob a ac lvl rel s
  | .mma c zt a b lit => Sys2Proof.Machine.execMma c zt a b lit s
  | .zclr c zt => Sys2Proof.Machine.execZclr c zt s
  | .zmov c d zs grp => Sys2Proof.Machine.execZmov c d zs grp s
  | .zst c barn zt a ac lvl rel => Sys2Proof.Machine.execZst c barn zt a ac lvl rel s
  | .rayq c d a ac rel => Sys2Proof.Machine.execRayq c d a ac rel s
  | .cand c d => Sys2Proof.Machine.execCand c d s
  | .cacc c a => Sys2Proof.Machine.execCacc c a s
  | .tex c d a ac rel lit => Sys2Proof.Machine.execTex c d a ac rel lit s
  | .texq c d a lit => Sys2Proof.Machine.execTexq c d a lit s
  | .spawn c d a queue => Sys2Proof.Machine.execSpawn c d a queue s
  | .svc c d code => Sys2Proof.Machine.execSvc c d code s
  | .rdst c d form reg => Sys2Proof.Machine.execRdst c d form reg s
  | .wrst c d form reg => Sys2Proof.Machine.execWrst c d form reg s
  | .eret k => Sys2Proof.Machine.execEret k s
  | .eretReplay k => Sys2Proof.Machine.execEretReplay k s
  | .tinv k a kind => Sys2Proof.Machine.execTinv k a kind s
  | .csave k => Sys2Proof.Machine.execCsave k s
  | .crest k => Sys2Proof.Machine.execCrest k s
  | .zsave k a => Sys2Proof.Machine.execZsave k a s
  | .zload k a => Sys2Proof.Machine.execZload k a s
  | .quies k d => Sys2Proof.Machine.execQuies k d s
  | .loadImage r image => Sys2Proof.Machine.execLoadImage r image s
  | .map r body => Sys2Proof.Machine.execMap r body s
  | .unmap r addr len => Sys2Proof.Machine.execUnmap r addr len s
  | .copyIn r addr len after data => Sys2Proof.Machine.execCopyIn r addr len after data s
  | .copyOut r addr len after => Sys2Proof.Machine.execCopyOut r addr len after s
  | .launch r image record queue => Sys2Proof.Machine.execLaunch r image record queue s
  | .waitForEvent r seq ms => Sys2Proof.Machine.execWaitForEvent r seq ms s
  | .query r item => Sys2Proof.Machine.execQuery r item s
  | .attest r nonce => Sys2Proof.Machine.execAttest r nonce s
  | .partitionCreate r body => Sys2Proof.Machine.execPartitionCreate r body s
  | .partitionDestroy r part => Sys2Proof.Machine.execPartitionDestroy r part s
  | .resumeContext r desc target => Sys2Proof.Machine.execResumeContext r desc target s
  | .catalogue r kind image => Sys2Proof.Machine.execCatalogue r kind image s
  | .bringUp found => Sys2Proof.Machine.execBringUp found s
  | .writeChunk m => Sys2Proof.Machine.execWriteChunk m s
  | .readRequest m => Sys2Proof.Machine.execReadRequest m s
  | .readReply m => Sys2Proof.Machine.execReadReply m s
  | .atomicRequest m => Sys2Proof.Machine.execAtomicRequest m s
  | .atomicReply m => Sys2Proof.Machine.execAtomicReply m s
  | .illegalInstruction packet word => Sys2Proof.Machine.execIllegalInstruction packet word s
  | .unknownKindRequest r kind => Sys2Proof.Machine.execUnknownKindRequest r kind s
  | .copyPerform => Sys2Proof.Machine.execCopyPerform s
  | .waitTimeLimit => Sys2Proof.Machine.execWaitTimeLimit s
  | .powerOff => Sys2Proof.Machine.execPowerOff s
  | .throttleTrip => Sys2Proof.Machine.execThrottleTrip s
  | .throttleRelease => Sys2Proof.Machine.execThrottleRelease s
  | .shutdownTrip => Sys2Proof.Machine.execShutdownTrip s
  | .grantRequest => Sys2Proof.Machine.execGrantRequest s
  | .reclaimReturn => Sys2Proof.Machine.execReclaimReturn s
  | .acknowledge => Sys2Proof.Machine.execAcknowledge s
  | .messageAbandon => Sys2Proof.Machine.execMessageAbandon s
  | .homeSliceAccess => Sys2Proof.Machine.execHomeSliceAccess s
  | .lineArrival => Sys2Proof.Machine.execLineArrival s
  | .demotionLineWritten => Sys2Proof.Machine.execDemotionLineWritten s
  | .evictionRequest => Sys2Proof.Machine.execEvictionRequest s
  | .dormantZeroFill => Sys2Proof.Machine.execDormantZeroFill s
  | .forcedRefresh => Sys2Proof.Machine.execForcedRefresh s
  | .quarantineRelease => Sys2Proof.Machine.execQuarantineRelease s
  | .parkResume => Sys2Proof.Machine.execParkResume s
  | .switchOut => Sys2Proof.Machine.execSwitchOut s
  | .loadReply => Sys2Proof.Machine.execLoadReply s
  | .storePerformed => Sys2Proof.Machine.execStorePerformed s
  | .atomicPerform => Sys2Proof.Machine.execAtomicPerform s
  | .engineTranslate => Sys2Proof.Machine.execEngineTranslate s
  | .engineUnitSettle => Sys2Proof.Machine.execEngineUnitSettle s
  | .refineServe => Sys2Proof.Machine.execRefineServe s
  | .teamDeal => Sys2Proof.Machine.execTeamDeal s
  | .quantumExpiry => Sys2Proof.Machine.execQuantumExpiry s
  | .gridComplete => Sys2Proof.Machine.execGridComplete s
  | .trapEntry => Sys2Proof.Machine.execTrapEntry s
  | .preemptRequest => Sys2Proof.Machine.execPreemptRequest s
  | .graceExpiry => Sys2Proof.Machine.execGraceExpiry s
  | .teamReplace => Sys2Proof.Machine.execTeamReplace s
  | .matrixHang => Sys2Proof.Machine.execMatrixHang s
  | .arrayReset => Sys2Proof.Machine.execArrayReset s
  | .mmaCommit => Sys2Proof.Machine.execMmaCommit s
  | .coreFailure => Sys2Proof.Machine.execCoreFailure s
  | .barTryTimeout => Sys2Proof.Machine.execBarTryTimeout s
  | .rayAccept => Sys2Proof.Machine.execRayAccept s
  | .rayRecordLost => Sys2Proof.Machine.execRayRecordLost s
  | .stationCall => Sys2Proof.Machine.execStationCall s
  | .callEnd => Sys2Proof.Machine.execCallEnd s
  | .anyhitBatchLaunch => Sys2Proof.Machine.execAnyhitBatchLaunch s
  | .verdictApply => Sys2Proof.Machine.execVerdictApply s
  | .hitBatchLaunch => Sys2Proof.Machine.execHitBatchLaunch s
  | .svcReply => Sys2Proof.Machine.execSvcReply s
  | .unsupportedPacket => Sys2Proof.Machine.execUnsupportedPacket s
  | .badBlockRetirement => Sys2Proof.Machine.execBadBlockRetirement s

end Sys2Proof.Machine
end

