-- ==== Sys2Proof/Machine/Step.lean ====
section
/-! DEFINITION. One step of the machine: the head of the agenda moves; when the agenda is empty, one of the acts that may come
next, the choice among several a free value. -/
namespace Sys2Proof.Machine

/-- One act: an event with its subject, or the next issue boundary of a train. -/
def act (a : Act) (s : State) : Host.Outcome State Fault Refusal :=
  match a with
  | .event i subject => exec i { s with subject := subject }
  | .issue id => issueTurn exec id s

/-- The act that a state without agenda makes, and nothing when none may come. -/
def pickAct (s : State) : Option Act :=
  match s.acts exec with
  | [] => none
  | [a] => some a
  | as => as[Config.choice s.tick % as.length]?

/-- One step. -/
def step (s : State) : Host.Outcome State Fault Refusal :=
  match s.agenda with
  | a :: rest => act a { s with agenda := rest, tick := s.tick + 1 }
  | [] => match pickAct s with
    | some a => act a { s with tick := s.tick + 1 }
    | none => .next { s with tick := s.tick + 1 }

/-- The state with the instruction whose bits are `w` where the next step fetches: on the bench, at the start of its text. -/
def State.withFetchWord (s : State) (nbits w : Nat) : State :=
  let v := w % 2 ^ nbits
  s.onBench (bytesOfWord (BitVec.ofNat 32 v) ++ bytesOfWord (BitVec.ofNat 32 (v / 2 ^ 32)) ++ [0, 0, 0, 0])

end Sys2Proof.Machine
end

