-- ==== Sys2Proof/Safety.lean ====
section
/-! DEFINITION. What counts as a safe run, and the terms in which the claims are stated: when a word may issue, what it leaves alone,
what it writes. -/
namespace Sys2Proof

/-- No number of steps from this state ends in a fault or a refusal: the machine answers a next state each time. -/
def Safe (s : Machine.State) : Prop := ∀ n, ∃ t, core.run n s = .next t

/-- The distance of two exact numbers. -/
def Dyadic.dist (x y : Dyadic) : Dyadic := let d := x.sub y; ⟨d.m.natAbs, d.e⟩

/-- Is it a number: neither a NaN nor an infinity? -/
def FVal.isNumber (x : FVal) : Bool := !x.isNan && !x.isInf

/-- `v` is no worse an approximation of `x` under the rounding mode than `k` is (R208): RNE the nearest, RU the least one not below,
RD the greatest one not above, RZ the one of these nearer to zero. -/
def Rounds (mode : RMode) (v x k : Dyadic) : Prop :=
  match mode with
  | .rne => (Dyadic.dist v x).le (Dyadic.dist k x) = true
  | .ru => x.le v = true ∧ (x.le k = true → v.le k = true)
  | .rd => v.le x = true ∧ (k.le x = true → k.le v = true)
  | .rz => if 0 ≤ x.m then v.le x = true ∧ (k.le x = true → k.le v = true) else x.le v = true ∧ (x.le k = true → v.le k = true)

end Sys2Proof

namespace Sys2Proof.Machine

/-- A word of the train on the issue stage may have its effect: the train runs, some lane has not exited, and the word is no part of
a chained group. -/
def State.Issuing (s : State) : Prop := s.t.life = .running ∧ s.t.live ≠ 0 ∧ s.t.group = none

/-- A word that passes the checks that every word meets: well formed, its registers within the role's budgets, and none of them still to be
written by a scratchpad load (R137, R147, R272). -/
def State.Admits (s : State) (i : Instr) (needs : List Need) : Prop :=
  s.Issuing ∧ i.wellFormed = true ∧ ∀ n ∈ needs, s.t.inBudget n = true ∧ s.t.awaited n = false

/-- The instruction answers a next state, and `P` holds of it. -/
def Answers (i : Instr) (s : State) (P : State → Prop) : Prop := ∃ t, exec i s = .next t ∧ P t

/-- Every byte that a program can name stands as before: global memory, the train's private space, every scratchpad and operand
buffer. -/
def SameBytes (s t : State) : Prop :=
  (∀ ua, Table.get 0 t.m.mem ua = Table.get 0 s.m.mem ua) ∧
  (∀ lane off, Table.get 0 t.t.priv (privKey lane off) = Table.get 0 s.t.priv (privKey lane off)) ∧
  (∀ grid team off, t.scratchRead grid team off 1 = s.scratchRead grid team off 1) ∧
  (∀ grid team off, t.obufRead grid team off 1 = s.obufRead grid team off 1)

/-- The current split is the only one that could issue, and nothing waits to be merged or popped: the other slot is empty and no
siding entry of the present mode stands. -/
def Train.Lone (t : Train) : Prop :=
  (t.slot (!t.d.cur)).mask = 0 ∧ t.d.depth ≤ t.base ∧ t.split.mask ≠ 0 ∧ t.split.held = false ∧ t.split.asleep = false ∧
  t.split.recs = [] ∧ t.split.half = none

/-- The bytes of a word, with the literal that it takes (R266). -/
def wordBytes (i : Instr) : Dword := if (literalOf i).isSome then 8 else 4

/-- A split at the word `len` bytes on (R266). -/
def Split.after (sp : Split) (len : Dword) : Split := { sp with pc := sp.pc + len }

/-- The same behind a word that ends the idempotent region (R149, R189). -/
def Split.afterEnding (sp : Split) (len : Dword) : Split :=
  { sp with pc := sp.pc + len, region := sp.pc + len, count := sp.count + 1 }

/-- Where the current split stands alone the word leaves `sp` in its slot and counts in its turn, and nothing else of the divergence state
changes (R150). -/
def Leaves (s t : State) (sp : Split) : Prop := s.t.Lone → t.t.d = { (s.t.setSplit sp).d with used := s.t.d.used + 1 }

/-- Nothing has changed but the train's registers, its divergence state (the program counters, the live slots and the turn) and the
count of groups issued: no memory, no barrier, no other train, no trap register, no counter, no tile; and neither which lanes have
exited nor QUANTUM. A split that stands alone is at the word `len` bytes on, with the rest of the divergence state as it was. -/
def OnlyRegs (s t : State) (len : Dword) : Prop :=
  t = { s with t := { s.t with r := t.t.r, d := t.t.d, c := { s.t.c with issued := s.t.c.issued + 1 } } } ∧
  t.t.d.exited = s.t.d.exited ∧ t.t.d.quantum = s.t.d.quantum ∧ SameBytes s t ∧ Leaves s t (s.t.split.after len)

/-- Lane register `d` gets `f` in the lanes of `e`. Every other lane register, of either bank, and every other register keeps its
value. -/
def WritesV (s t : State) (d : Nat) (e : Mask) (f : Nat → Word) : Prop :=
  (∀ n l, l < 64 → t.t.r.getV s.t.x.priv n l = if n = d ∧ e.getLsbD l = true then f l else s.t.r.getV s.t.x.priv n l) ∧
  (∀ n l, 120 ≤ n → t.t.r.getV (!s.t.x.priv) n l = s.t.r.getV (!s.t.x.priv) n l) ∧
  t.t.r = { s.t.r with v := t.t.r.v, bank := { s.t.r.bank with v := t.t.r.bank.v } }

/-- The same for a pair: register `d` gets the low word of `f`, register `d + 1` the high word (R4). -/
def WritesVV (s t : State) (d : Nat) (e : Mask) (f : Nat → Dword) : Prop :=
  (∀ n l, l < 64 → t.t.r.getV s.t.x.priv n l =
    if n = d ∧ e.getLsbD l = true then (f l).extractLsb' 0 32
    else if n = d + 1 ∧ e.getLsbD l = true then (f l).extractLsb' 32 32 else s.t.r.getV s.t.x.priv n l) ∧
  (∀ n l, 120 ≤ n → t.t.r.getV (!s.t.x.priv) n l = s.t.r.getV (!s.t.x.priv) n l) ∧
  t.t.r = { s.t.r with v := t.t.r.v, bank := { s.t.r.bank with v := t.t.r.bank.v } }

/-- The same for a quad, lowest register first (R269). -/
def WritesQuad (s t : State) (d : Nat) (e : Mask) (f : Nat → Nat → Word) : Prop :=
  (∀ n l, l < 64 → t.t.r.getV s.t.x.priv n l =
    if d ≤ n ∧ n < d + 4 ∧ e.getLsbD l = true then f l (n - d) else s.t.r.getV s.t.x.priv n l) ∧
  (∀ n l, 120 ≤ n → t.t.r.getV (!s.t.x.priv) n l = s.t.r.getV (!s.t.x.priv) n l) ∧
  t.t.r = { s.t.r with v := t.t.r.v, bank := { s.t.r.bank with v := t.t.r.bank.v } }

/-- `t` with FPFLAGS as it stands in `s`. -/
def ButFlags (s t : State) : State := t.onT fun u => u.withR { u.r with fpflags := s.t.r.fpflags }

/-- FPFLAGS gains the flags that `g` raises in the lanes of `e`, and no other bit of it changes (R304). -/
def RaisesFlags (s t : State) (e : Mask) (g : Nat → Flags) : Prop :=
  ∀ i, t.t.r.fpflags.getLsbD i = (s.t.r.fpflags.getLsbD i || (lanes e).any fun l => (g l).bits.getLsbD i)

/-- Predicate `d` gets `f` in the lanes of `e`; p0 reads 1 and keeps nothing (R147). Every other predicate, of either bank, and every
other register keeps its value. -/
def WritesP (s t : State) (d : Nat) (e : Mask) (f : Nat → Bool) : Prop :=
  (∀ n l, l < 64 → (t.t.r.getP s.t.x.priv n).getLsbD l =
    if n = d ∧ n ≠ 0 ∧ e.getLsbD l = true then f l else (s.t.r.getP s.t.x.priv n).getLsbD l) ∧
  (∀ n, 120 ≤ n → t.t.r.getP (!s.t.x.priv) n = s.t.r.getP (!s.t.x.priv) n) ∧
  t.t.r = { s.t.r with p := t.t.r.p, bank := { s.t.r.bank with p := t.t.r.bank.p } }

/-- Uniform register `d` gets `x` when `on`. Every other uniform register, of either bank, and every other register keeps its
value. -/
def WritesS (s t : State) (d : Nat) (on : Bool) (x : Dword) : Prop :=
  (∀ n, t.t.r.getS s.t.x.priv n = if n = d ∧ on = true then x else s.t.r.getS s.t.x.priv n) ∧
  (∀ n, 56 ≤ n → t.t.r.getS (!s.t.x.priv) n = s.t.r.getS (!s.t.x.priv) n) ∧
  t.t.r = { s.t.r with s := t.t.r.s, bank := { s.t.r.bank with s := t.t.r.bank.s } }

/-- `s` after one more group of its train has issued, with the divergence state that stands in `t`. -/
def Moved (s t : State) : State := s.onT fun u => { u with d := t.t.d, c := { u.c with issued := u.c.issued + 1 } }

/-- Neither which lanes have exited nor QUANTUM has changed. -/
def SameLanes (s t : State) : Prop := t.t.d.exited = s.t.d.exited ∧ t.t.d.quantum = s.t.d.quantum

/-- Word i of a loaded value of `n` bytes, widened when it is shorter than a word (R279, R349). -/
def loadedWord (n : Nat) (signed : Bool) (v i : Nat) : Word :=
  if n ≤ 4 then BitVec.ofInt 32 (if signed = true ∧ 2 ^ (8 * n - 1) ≤ v then (v : Int) - 2 ^ (8 * n) else v)
  else BitVec.ofNat 32 (v / 2 ^ (32 * i))

/-- In the lanes of `e`, the register, pair or quad from `d` upward gets the value `f` of `n` bytes. Every other lane register, of
either bank, and every other register keeps its value. -/
def WritesData (s t : State) (d n : Nat) (signed : Bool) (e : Mask) (f : Nat → Nat) : Prop :=
  (∀ k l, l < 64 → t.t.r.getV s.t.x.priv k l =
    if d ≤ k ∧ k ≤ d + extraRegs n ∧ e.getLsbD l = true then loadedWord n signed (f l) (k - d) else s.t.r.getV s.t.x.priv k l) ∧
  (∀ k l, 120 ≤ k → t.t.r.getV (!s.t.x.priv) k l = s.t.r.getV (!s.t.x.priv) k l) ∧
  t.t.r = { s.t.r with v := t.t.r.v, bank := { s.t.r.bank with v := t.t.r.bank.v } }

/-- Every scratchpad byte, and every other figure of a team, but for what `f` says of the scratchpads. -/
def WritesScratch (s t : State) (f : Nat → Nat → Option Byte) : Prop :=
  t.d.teams.map (fun m => { m with scratch := [] }) = s.d.teams.map (fun m => { m with scratch := [] }) ∧
  ∀ grid team off, (s.team grid team).isSome = true →
    t.scratchRead grid team off 1 = if grid = s.t.i.grid then
      (match f team off with
       | some b => [b]
       | none => s.scratchRead grid team off 1) else s.scratchRead grid team off 1

/-- `s` after one more group of its train has issued that leaves `sp` in the current slot, and nothing else has changed. -/
def Next (s : State) (sp : Split) : State :=
  s.onT fun u => { u.setSplit sp with d := { (u.setSplit sp).d with used := u.d.used + 1 },
                                      c := { u.c with issued := u.c.issued + 1 } }

/-- Every lane's handle names an object of the train's partition whose tree storage reads well (R96). -/
def State.Handles (s : State) (e : Mask) (h : Nat → Word) : Prop :=
  ∀ l ∈ lanes e, (h l).toNat < 0x10000 ∧ ∃ o, s.obj (h l) = some o ∧ s.treeBad o = false

/-- One more operation that stores nothing may be queued on a counter: no acquire is outstanding, and the counter has room. -/
def Train.CanQueue (t : Train) (ac : Nat) : Prop := t.acquiring = false ∧ t.outstanding ac < 255

/-- The same of an operation that reads for an engine at its issue, behind acquires and fences (R103, R109). -/
def State.CanFetch (s : State) (ac : Nat) : Prop := s.mayFetch false = true ∧ s.t.outstanding ac < 255

/-- `t` differs from `s` in that the train has one more operation queued, behind all others, and one more group issued: no register
and no byte has changed, and the split, where it stands alone, is left as `sp`. -/
def Queues (s t : State) (o : Op) (sp : Split) : Prop :=
  t.t.c = { s.t.c with ops := s.t.c.ops ++ [o], next := s.t.c.next + 1, issued := s.t.c.issued + 1 } ∧ t.t.r = s.t.r ∧
  t.t.m = s.t.m ∧ t.t.x = s.t.x ∧ SameLanes s t ∧ SameBytes s t ∧ Leaves s t sp

/-- Byte `i` of an access at offset `ea` of the constant space of the train's grid: zero behind the block, otherwise the byte that its page
holds; a page that is not there, or is dormant, reads zero (R58, R60, R78). -/
def State.constByte (s : State) (ea i : Nat) : Byte :=
  let r := s.recOf s.t
  if r.constLen ≤ ea + i then 0
  else match s.m.translate s.t.i.part (r.const + ea) with
    | none => 0
    | some ua => if s.m.dormant ua then 0 else Table.get 0 s.m.mem (ua + i)

/-- No word of the constant block that `n` bytes at offset `ea` touch has an error, met or not (R74). -/
def State.ConstGood (s : State) (ea n : Nat) : Prop :=
  let r := s.recOf s.t
  ∀ ua, ea < r.constLen → s.m.translate s.t.i.part (r.const + ea) = some ua → ∀ w ∈ eccWords ua n, w ∉ s.m.latent ∧ w ∉ s.m.poison

/-- `s` with a read made at its issue in the lanes of `e`, which may have overtaken accesses of its split (R103). -/
def State.read (s : State) (e : Mask) : State := if e = 0 then s else s.act Order.plain

/-- `t` with what an access that is guarded off in every lane leaves of its order `k` (R107): a release an operation with no access, which
follows the split's earlier accesses; where there are none of those, and as an acquire alone, nothing. -/
def State.Ordered (s t : State) (k : Order) : State :=
  if k.relAt ≠ 0 ∧ s.t.unperformed ≠ [] then t.onT fun u => u.enqueue
    { s.newOp .order 16 0 ((s.t.strictly k).map Op.id) k.acquire false none with
      acq := k.acqAt, rel := k.relAt, fenced := k.fenced, after := s.t.after k }
  else t

/-- A hit's key on station `st` (R245). -/
def Hit.key (h : Hit) (st : Nat) : HitKey := ⟨h.t, st, h.prim.toNat⟩

/-- A candidate's key on station `st` (R245). -/
def Cand.key (c : Cand) (st : Nat) : HitKey := ⟨c.t, st, c.prim.toNat⟩

/-- A candidate hit as a candidate in slot 0, and a candidate as a hit (R252, R256). -/
def Hit.cand (h : Hit) : Cand := ⟨0, h.t, h.prim, h.bary, h.kind⟩
/-- A candidate as a hit. -/
def Cand.hit (c : Cand) : Hit := ⟨c.t, c.prim, c.bary, c.kind, true⟩

/-- `q'` is the ray record `q` once CLOSEST has become the least of its key and those of the hits `hs` on station
`st`: none of them could become it any more, and it is the old one or one of them (R245, R252, R256). -/
def RayRec.Closest (q q' : RayRec) (st : Nat) (hs : List Hit) : Prop :=
  (∀ h ∈ hs, q'.takes (h.key st) = false) ∧
  (q' = q ∨ ∃ h ∈ hs, q.takes (h.key st) = true ∧ q'.key = some (h.key st) ∧ q' = q.take h.t h.prim h.bary st h.kind)

/-- What a ray is after a call's end or its verdicts, which leave `a` of it (R250, R252, R256, R257): its records are written, and it goes to a
station's platform, waits for its verdicts, or finishes and, with a hit or miss template, waits in its batch. With no any-hit template its
candidates are accepted. `u` is the state before, `t` the one after. -/
def After.Settles (a : After) (u t : State) (r : Ray) : Prop :=
  let here := t.ray r.set.addr r.set.part r.index
  let done := fun (b : After) => match b.fate with
    | .finish state =>
      t.m.mem = (u.writeRay r { b with r := { b.r with next := 0xFFFFFFFF, status := withState b.r.status state } }).m.mem ∧
      here = if r.templates.getD (if state = 4 then 1 else 2) 0 = 0 then none
        else some { r with place := .finished, cands := [], verdicts := [], batches := [] }
    | .move st => t.m.mem = (u.writeRay r b).m.mem ∧
      here = some { r with place := .platform, station := st, since := u.y.started, order := u.y.order, cands := [], verdicts := [], batches := [] }
    | .judge _ => False
  match a.fate with
  | .judge _ =>
    if r.templates.headD 0 = 0 then done (applyVerdicts a.r a.route a.cands fun _ => 1)
    else t.m.mem = (u.writeRay r a).m.mem ∧ here = some { r with place := .anyHit, cands := a.cands, verdicts := [], batches := [] }
  | _ => done a

/-- The service hears a request: it is up, the port carries traffic, and the header is in order (R13, R26). -/
def State.Hears (s : State) (r : Req) : Prop := s.k.phase = .accepting ∧ s.portRuns r.port = true ∧ malformed r = false

/-- The service takes a request for a partition, whose client the endpoint is (R26). -/
def State.Serves (s : State) (r : Req) : Prop := s.Hears r ∧ ∃ p, s.part r.part = some p ∧ r.endpoint ∈ p.clients

/-- One reply more goes to a request's endpoint, with its identifier, kind, partition, a status, figures and bytes, and no other (R26). -/
def Replies (s t : State) (r : Req) (kind status : Nat) (values : List Nat) (bytes : List Byte) : Prop :=
  t.q.replies = s.q.replies ++ [⟨r.reqid, kind, r.part, r.endpoint, status, values, bytes⟩]

/-- The next sequence number has been given out for a partition, with an event that is not complete (R27, R124). -/
def GivesNumber (s t : State) (part : Nat) : Prop :=
  t.q.nextSeq = s.q.nextSeq + 1 ∧ t.q.issuedBy = s.q.issuedBy ++ [(s.q.nextSeq, part)] ∧
  t.q.events = s.q.events ++ [⟨s.q.nextSeq, part, none, none⟩]

end Sys2Proof.Machine
end

