-- ==== Sys2Proof/Certificates/Slice0/Obligations.lean ====
section
/-! DEFINITION. The statements for the provers. Each docstring says which rules of the spec it formalises; a clause that rests on the
model's own choice names its log entry. -/
open Sys2Proof Sys2Proof.Machine


/-- R288, R289, R290, R291, R293, R294, R312 and R314: In each lane of SPLIT whose guard is true vd gets the value that the rule's
table gives, computed on exact integers and narrowed; every other register, and all else but the split's place, stays; a split that
stands alone goes on at its next word, 4 or 8 bytes on. `clz` counts the zeros above the highest one bit, `brev` exchanges bit j
with bit 31 − j, `bfx` takes LEN bits from POS and extends them, `bfi` replaces those bits alone. -/
def Obligations.LaneWordResults : Prop :=
  (∀ (s : State) (c : Ctl) (d a b n : Fld) (k : BitVec 5) (i : BitVec 14) (lit : Word),
     ∀ p ∈ ([
       (.mov c d a, needs2 d a, fun t l => t.v a l),
       (.add c d a b, needs3 d a b, fun t l => BitVec.ofInt 32 ((t.v a l).toInt + (t.v b l).toInt)),
       (.addS c d a b, needs3S d a b, fun t l => BitVec.ofInt 32 ((t.v a l).toInt + (t.sw b).toInt)),
       (.sub c d a b, needs3 d a b, fun t l => BitVec.ofInt 32 ((t.v a l).toInt - (t.v b l).toInt)),
       (.subS c d a b, needs3S d a b, fun t l => BitVec.ofInt 32 ((t.v a l).toInt - (t.sw b).toInt)),
       (.mul c d a b, needs3 d a b, fun t l => BitVec.ofInt 32 ((t.v a l).toInt * (t.v b l).toInt)),
       (.mulS c d a b, needs3S d a b, fun t l => BitVec.ofInt 32 ((t.v a l).toInt * (t.sw b).toInt)),
       (.mulhI32 c d a b, needs3 d a b, fun t l => BitVec.ofInt 32 ((t.v a l).toInt * (t.v b l).toInt / 2 ^ 32)),
       (.mulhN32 c d a b, needs3 d a b, fun t l => BitVec.ofNat 32 ((t.v a l).toNat * (t.v b l).toNat / 2 ^ 32)),
       (.mad c d a b, needs3 d a b, fun t l => BitVec.ofInt 32 ((t.v a l).toInt * (t.v b l).toInt + (t.v d l).toInt)),
       (.madS c d a b, needs3S d a b, fun t l => BitVec.ofInt 32 ((t.v a l).toInt * (t.sw b).toInt + (t.v d l).toInt)),
       (.minI32 c d a b, needs3 d a b, fun t l => BitVec.ofInt 32 (min (t.v a l).toInt (t.v b l).toInt)),
       (.minN32 c d a b, needs3 d a b, fun t l => BitVec.ofNat 32 (min (t.v a l).toNat (t.v b l).toNat)),
       (.maxI32 c d a b, needs3 d a b, fun t l => BitVec.ofInt 32 (max (t.v a l).toInt (t.v b l).toInt)),
       (.maxN32 c d a b, needs3 d a b, fun t l => BitVec.ofNat 32 (max (t.v a l).toNat (t.v b l).toNat)),
       (.and c d a b, needs3 d a b, fun t l => t.v a l &&& t.v b l),
       (.andS c d a b, needs3S d a b, fun t l => t.v a l &&& t.sw b),
       (.or c d a b, needs3 d a b, fun t l => t.v a l ||| t.v b l),
       (.orS c d a b, needs3S d a b, fun t l => t.v a l ||| t.sw b),
       (.xor c d a b, needs3 d a b, fun t l => t.v a l ^^^ t.v b l),
       (.xorS c d a b, needs3S d a b, fun t l => t.v a l ^^^ t.sw b),
       (.andn c d a b, needs3 d a b, fun t l => t.v a l &&& ~~~t.v b l),
       (.shl c d a b, needs3 d a b, fun t l => BitVec.ofNat 32 ((t.v a l).toNat * 2 ^ (t.v b l).toNat)),
       (.shr c d a b, needs3 d a b, fun t l => BitVec.ofNat 32 ((t.v a l).toNat / 2 ^ (t.v b l).toNat)),
       (.sar c d a b, needs3 d a b, fun t l => BitVec.ofInt 32 ((t.v a l).toInt / 2 ^ (t.v b l).toNat)),
       (.rol c d a b, needs3 d a b, fun t l => (t.v a l).rotateLeft ((t.v b l).toNat % 32))] : List (Instr × List Need × (Train → Nat → Word))) ++
      ([(.shli c d a k, needs2 d a, fun t l => BitVec.ofNat 32 ((t.v a l).toNat * 2 ^ k.toNat)),
       (.shri c d a k, needs2 d a, fun t l => BitVec.ofNat 32 ((t.v a l).toNat / 2 ^ k.toNat)),
       (.sari c d a k, needs2 d a, fun t l => BitVec.ofInt 32 ((t.v a l).toInt / 2 ^ k.toNat)),
       (.addi c d a n, needs2 d a, fun t l => BitVec.ofInt 32 ((t.v a l).toInt + n.toInt)),
       (.andi c d a n, needs2 d a, fun t l => t.v a l &&& BitVec.ofNat 32 n.toNat),
       (.abs c d a, needs2 d a, fun t l => BitVec.ofNat 32 (t.v a l).toInt.natAbs),
       (.neg c d a, needs2 d a, fun t l => BitVec.ofInt 32 (-(t.v a l).toInt)),
       (.popc c d a, needs2 d a, fun t l => BitVec.ofNat 32 ((List.range 32).countP fun j => (t.v a l).getLsbD j)),
       (.sel c d a b, needs3 d a b, fun t l => if (t.p t.r.g1).getLsbD l = true then t.v a l else t.v b l),
       (.movi c d i, [Need.v d.toNat 0], fun _ _ => BitVec.ofInt 32 i.toInt),
       (.movk c d lit, [Need.v d.toNat 0], fun _ _ => lit),
       (.movS c d a 0, [Need.v d.toNat 0, Need.s a.toNat 0], fun t _ => t.sw a),
       (.fabs c d a, needs2 d a, fun t l => if (rd32 (t.v a l)).isNan = true then 0x7FC00000 else t.v a l &&& 0x7FFFFFFF),
       (.fneg c d a, needs2 d a, fun t l => if (rd32 (t.v a l)).isNan = true then 0x7FC00000 else t.v a l ^^^ 0x80000000),
       (.fclass c d a, needs2 d a, fun t l => classF (t.v a l))] : List (Instr × List Need × (Train → Nat → Word))),
     s.Admits p.1 p.2.1 → Answers p.1 s fun t => WritesV s t d.toNat (s.t.act c) (p.2.2 s.t) ∧ OnlyRegs s t (wordBytes p.1)) ∧
  (∀ (s : State) (c : Ctl) (d a b : Fld),
     (s.Admits (.clz c d a) (needs2 d a) → Answers (.clz c d a) s fun t => ∃ f : Nat → Word, WritesV s t d.toNat (s.t.act c) f ∧
       OnlyRegs s t 4 ∧ ∀ l, (f l).toNat ≤ 32 ∧ (∀ j < 32, 32 - (f l).toNat ≤ j → (s.t.v a l).getLsbD j = false) ∧
         ((f l).toNat < 32 → (s.t.v a l).getLsbD (31 - (f l).toNat) = true)) ∧
     (s.Admits (.brev c d a) (needs2 d a) → Answers (.brev c d a) s fun t => ∃ f : Nat → Word, WritesV s t d.toNat (s.t.act c) f ∧
       OnlyRegs s t 4 ∧ ∀ l, ∀ j < 32, (f l).getLsbD j = (s.t.v a l).getLsbD (31 - j)) ∧
     (s.Admits (.bfx c d a b) (needs3 d a b) → Answers (.bfx c d a b) s fun t => ∃ f : Nat → Word,
       WritesV s t d.toNat (s.t.act c) f ∧ OnlyRegs s t 4 ∧ ∀ l,
         let pos := ((s.t.v b l).extractLsb' 0 5).toNat
         let len := min ((s.t.v b l).extractLsb' 8 6).toNat (32 - pos)
         ∀ j < 32, (f l).getLsbD j =
           if j < len then (s.t.v a l).getLsbD (pos + j)
           else (s.t.v b l).getLsbD 16 && decide (0 < len) && (s.t.v a l).getLsbD (pos + len - 1)) ∧
     (s.Admits (.bfi c d a b) (needs3 d a b) → Answers (.bfi c d a b) s fun t => ∃ f : Nat → Word,
       WritesV s t d.toNat (s.t.act c) f ∧ OnlyRegs s t 4 ∧ ∀ l,
         let pos := ((s.t.v b l).extractLsb' 0 5).toNat
         let len := min ((s.t.v b l).extractLsb' 8 6).toNat (32 - pos)
         ∀ j < 32, (f l).getLsbD j =
           if pos ≤ j ∧ j < pos + len then (s.t.v a l).getLsbD (j - pos) else (s.t.v d l).getLsbD j))

/-- R292, R294, R324 and R323: The words that write a pair, low register first: the sums and differences of pairs, `lea`, `mov` of a
uniform pair, `ballot` and `match`; nothing else changes. A split that stands alone goes on at its next word. -/
def Obligations.LanePairResults : Prop :=
  ∀ (s : State) (c : Ctl) (d a b : Fld),
    ∀ p ∈ ([
      (.addB64 c d a b, needsPair d a b, fun t l => BitVec.ofInt 64 ((t.vv a l).toInt + (t.vv b l).toInt)),
      (.subB64 c d a b, needsPair d a b, fun t l => BitVec.ofInt 64 ((t.vv a l).toInt - (t.vv b l).toInt)),
      (.lea c d a b, [Need.v d.toNat 1, Need.v a.toNat 1, Need.v b.toNat 0],
        fun t l => BitVec.ofInt 64 ((t.vv a l).toInt + (t.v b l).toInt)),
      (.movS c d a 1, [Need.v d.toNat 1, Need.s a.toNat 0], fun t _ => t.s a),
      (.ballot c d a, [Need.v d.toNat 1, Need.p a.toNat], fun t _ => t.act c &&& t.p a),
      (.matchLanes c d a, [Need.v d.toNat 1, Need.v a.toNat 0],
        fun t l => maskOf (lanes (t.act c)) fun k => t.v a k == t.v a l)] : List (Instr × List Need × (Train → Nat → Dword))),
    s.Admits p.1 p.2.1 → Answers p.1 s fun t => WritesVV s t d.toNat (s.t.act c) (p.2.2 s.t) ∧ OnlyRegs s t 4

/-- R295, R313, R211 and R147: A compare writes its relation to pd in the lanes that take part, and p0 keeps nothing. The floating
compares raise IV for a signalling NaN, the ordered ones for any NaN; nothing else changes. A split that stands alone goes on at its
next word. -/
def Obligations.CompareResults : Prop :=
  (∀ (s : State) (c : Ctl) (d a b n : Fld),
    ∀ p ∈ ([
      (.cmpEq c d a b, needsCmp d a b, fun t l => decide (t.v a l = t.v b l)),
      (.cmpEqS c d a b, needsCmpS d a b, fun t l => decide (t.v a l = t.sw b)),
      (.cmpNe c d a b, needsCmp d a b, fun t l => decide (t.v a l ≠ t.v b l)),
      (.cmpNeS c d a b, needsCmpS d a b, fun t l => decide (t.v a l ≠ t.sw b)),
      (.cmpLtI32 c d a b, needsCmp d a b, fun t l => decide ((t.v a l).toInt < (t.v b l).toInt)),
      (.cmpLtI32S c d a b, needsCmpS d a b, fun t l => decide ((t.v a l).toInt < (t.sw b).toInt)),
      (.cmpLeI32 c d a b, needsCmp d a b, fun t l => decide ((t.v a l).toInt ≤ (t.v b l).toInt)),
      (.cmpLeI32S c d a b, needsCmpS d a b, fun t l => decide ((t.v a l).toInt ≤ (t.sw b).toInt)),
      (.cmpLtN32 c d a b, needsCmp d a b, fun t l => decide ((t.v a l).toNat < (t.v b l).toNat)),
      (.cmpLtN32S c d a b, needsCmpS d a b, fun t l => decide ((t.v a l).toNat < (t.sw b).toNat)),
      (.cmpLeN32 c d a b, needsCmp d a b, fun t l => decide ((t.v a l).toNat ≤ (t.v b l).toNat)),
      (.cmpLeN32S c d a b, needsCmpS d a b, fun t l => decide ((t.v a l).toNat ≤ (t.sw b).toNat)),
      (.cmpiEq c d a n, [Need.p d.toNat, Need.v a.toNat 0], fun t l => decide ((t.v a l).toInt = n.toInt)),
      (.cmpiLtI32 c d a n, [Need.p d.toNat, Need.v a.toNat 0], fun t l => decide ((t.v a l).toInt < n.toInt)),
      (.cmpiLtN32 c d a n, [Need.p d.toNat, Need.v a.toNat 0], fun t l => decide ((t.v a l).toNat < n.toNat))] :
      List (Instr × List Need × (Train → Nat → Bool))),
    s.Admits p.1 p.2.1 → Answers p.1 s fun t => WritesP s t d.toNat (s.t.act c) (p.2.2 s.t) ∧ OnlyRegs s t 4) ∧
  (∀ (s : State) (c : Ctl) (d a b : Fld),
    let x := fun (t : Train) l => rd32 (t.v a l)
    let y := fun (t : Train) l => rd32 (t.v b l)
    let X := fun (t : Train) l => rd64 (t.vv a l)
    let Y := fun (t : Train) l => rd64 (t.vv b l)
    ∀ p ∈ ([
      (.fcmpEqF32 c d a b, 0, fun t l => (eqF (x t l) (y t l), cmpFlags false (x t l) (y t l))),
      (.fcmpNeF32 c d a b, 0, fun t l => (!eqF (x t l) (y t l), cmpFlags false (x t l) (y t l))),
      (.fcmpLtF32 c d a b, 0, fun t l => (ltF (x t l) (y t l), cmpFlags true (x t l) (y t l))),
      (.fcmpLeF32 c d a b, 0, fun t l => (ltF (x t l) (y t l) || eqF (x t l) (y t l), cmpFlags true (x t l) (y t l))),
      (.fcmpUnF32 c d a b, 0, fun t l => ((x t l).isNan || (y t l).isNan, cmpFlags false (x t l) (y t l))),
      (.fcmpEqF64 c d a b, 1, fun t l => (eqF (X t l) (Y t l), cmpFlags false (X t l) (Y t l))),
      (.fcmpLtF64 c d a b, 1, fun t l => (ltF (X t l) (Y t l), cmpFlags true (X t l) (Y t l))),
      (.fcmpLeF64 c d a b, 1, fun t l => (ltF (X t l) (Y t l) || eqF (X t l) (Y t l), cmpFlags true (X t l) (Y t l)))] :
      List (Instr × Nat × (Train → Nat → Bool × Flags))),
    s.Admits p.1 [Need.p d.toNat, Need.v a.toNat p.2.1, Need.v b.toNat p.2.1] → Answers p.1 s fun t =>
      WritesP s (ButFlags s t) d.toNat (s.t.act c) (fun l => (p.2.2 s.t l).1) ∧
      RaisesFlags s t (s.t.act c) (fun l => (p.2.2 s.t l).2) ∧ OnlyRegs s t 4)


/-- R304, R306, R308, R309, R310, R311, R312, R315, R319, R211 and R222: In each lane that takes part vd, or the pair at vd, gets
the rounded result, and FPFLAGS gains the flags that these lanes raise; no other bit of it and no other register changes. A split
that stands alone goes on at its next word. Model choices: log 13, 15. -/
def Obligations.FloatWordResults : Prop :=
  (∀ (s : State) (c : Ctl) (d a b : Fld) (m : BitVec 2),
     ∀ p ∈ ([
       (.fadd c d a b, needs3 d a b, fun t l => asWord (addF f32 (rd32 (t.v a l)) (rd32 (t.v b l)))),
       (.faddS c d a b, needs3S d a b, fun t l => asWord (addF f32 (rd32 (t.v a l)) (rd32 (t.sw b)))),
       (.fsub c d a b, needs3 d a b, fun t l => asWord (subF f32 (rd32 (t.v a l)) (rd32 (t.v b l)))),
       (.fsubS c d a b, needs3S d a b, fun t l => asWord (subF f32 (rd32 (t.v a l)) (rd32 (t.sw b)))),
       (.fmul c d a b, needs3 d a b, fun t l => asWord (timesF f32 (rd32 (t.v a l)) (rd32 (t.v b l)))),
       (.fmulS c d a b, needs3S d a b, fun t l => asWord (timesF f32 (rd32 (t.v a l)) (rd32 (t.sw b)))),
       (.ffma c d a b, needs3 d a b, fun t l => asWord (fmaF f32 (rd32 (t.v a l)) (rd32 (t.v b l)) (rd32 (t.v d l)))),
       (.ffmaS c d a b, needs3S d a b, fun t l => asWord (fmaF f32 (rd32 (t.v a l)) (rd32 (t.sw b)) (rd32 (t.v d l)))),
       (.fmin c d a b, needs3 d a b, fun t l => pickF false (t.v a l) (t.v b l)),
       (.fmax c d a b, needs3 d a b, fun t l => pickF true (t.v a l) (t.v b l)),
       (.faddH16x2 c d a b, needs3 d a b, fun t l => packed h16 (fun x y _ => addF h16 x y) (t.v a l) (t.v b l) (t.v d l)),
       (.fmulH16x2 c d a b, needs3 d a b, fun t l => packed h16 (fun x y _ => timesF h16 x y) (t.v a l) (t.v b l) (t.v d l)),
       (.ffmaH16x2 c d a b, needs3 d a b, fun t l => packed h16 (fun x y z => fmaF h16 x y z) (t.v a l) (t.v b l) (t.v d l)),
       (.faddBf16x2 c d a b, needs3 d a b, fun t l => packed bf16 (fun x y _ => addF bf16 x y) (t.v a l) (t.v b l) (t.v d l)),
       (.fmulBf16x2 c d a b, needs3 d a b, fun t l => packed bf16 (fun x y _ => timesF bf16 x y) (t.v a l) (t.v b l) (t.v d l)),
       (.ffmaBf16x2 c d a b, needs3 d a b, fun t l => packed bf16 (fun x y z => fmaF bf16 x y z) (t.v a l) (t.v b l) (t.v d l)),
       (.fdot2Bf16 c d a b, needs3 d a b, fun t l => dot2 (t.v d l) (t.v a l) (t.v b l)),
       (.fscale c d a b, needs3 d a b, fun t l => scaleF (rd32 (t.v a l)) (t.v a l) (t.v b l).toInt),
       (.frnd c d a m, needs2 d a, fun t l => integralF (RMode.ofBits m) (t.v a l)),
       (.frcp c d a, needs2 d a, fun t l => Special.rcp (t.v a l)),
       (.frsq c d a, needs2 d a, fun t l => Special.rsq (t.v a l)),
       (.fsqrt c d a, needs2 d a, fun t l => Special.sqrt (t.v a l)),
       (.fexp2 c d a, needs2 d a, fun t l => Special.exp2 (t.v a l)),
       (.flog2 c d a, needs2 d a, fun t l => Special.log2 (t.v a l)),
       (.fsinpi c d a, needs2 d a, fun t l => Special.sinpi (t.v a l)),
       (.fcospi c d a, needs2 d a, fun t l => Special.cospi (t.v a l)),
       (.ftanh c d a, needs2 d a, fun t l => Special.tanh (t.v a l)),
       (.fdiv c d a b, needs3 d a b, fun t l => Special.div (t.v a l) (t.v b l))] :
       List (Instr × List Need × (Train → Nat → Word × Flags))),
     s.Admits p.1 p.2.1 → Answers p.1 s fun t =>
       WritesV s (ButFlags s t) d.toNat (s.t.act c) (fun l => (p.2.2 s.t l).1) ∧
       RaisesFlags s t (s.t.act c) (fun l => (p.2.2 s.t l).2) ∧ OnlyRegs s t 4) ∧
  (∀ (s : State) (c : Ctl) (d a b : Fld),
     ∀ p ∈ ([
       (.faddF64 c d a b, fun t l => asPair (addF f64 (rd64 (t.vv a l)) (rd64 (t.vv b l)))),
       (.fsubF64 c d a b, fun t l => asPair (subF f64 (rd64 (t.vv a l)) (rd64 (t.vv b l)))),
       (.fmulF64 c d a b, fun t l => asPair (timesF f64 (rd64 (t.vv a l)) (rd64 (t.vv b l)))),
       (.ffmaF64 c d a b, fun t l => asPair (fmaF f64 (rd64 (t.vv a l)) (rd64 (t.vv b l)) (rd64 (t.vv d l))))] :
       List (Instr × (Train → Nat → Dword × Flags))),
     s.Admits p.1 (needsPair d a b) → Answers p.1 s fun t =>
       WritesVV s (ButFlags s t) d.toNat (s.t.act c) (fun l => (p.2 s.t l).1) ∧
       RaisesFlags s t (s.t.act c) (fun l => (p.2 s.t l).2) ∧ OnlyRegs s t 4)

/-- R316, R317, R318, R209 and R214: Every conversion goes from one register or a pair to one register or a pair as its PAIR says.
The packing conversions write one register, the 16-bit unpacking ones a pair, the 8-bit and 6-bit ones a quad; FPFLAGS gains the
flags raised. A split that stands alone goes on at its next word. -/
def Obligations.ConversionResults : Prop :=
  (∀ (s : State) (c : Ctl) (d a : Fld) (m : BitVec 2) (k : BitVec 5),
     let x := fun l => if cvtFromPair k.toNat = true then (s.t.vv a l).toNat else (s.t.v a l).toNat
     let y := fun l => convert k.toNat (RMode.ofBits m) (x l)
     s.Admits (.fcvt c d a m k) [Need.v d.toNat (if cvtToPair k.toNat = true then 1 else 0),
         Need.v a.toNat (if cvtFromPair k.toNat = true then 1 else 0)] →
       Answers (.fcvt c d a m k) s fun t =>
         (if cvtToPair k.toNat = true then WritesVV s (ButFlags s t) d.toNat (s.t.act c) (fun l => BitVec.ofNat 64 (y l).1)
          else WritesV s (ButFlags s t) d.toNat (s.t.act c) (fun l => BitVec.ofNat 32 (y l).1)) ∧
         RaisesFlags s t (s.t.act c) (fun l => (y l).2) ∧ OnlyRegs s t 4) ∧
  (∀ (s : State) (c : Ctl) (d a : Fld) (m : BitVec 2),
     (∀ k ∈ ([(0, 1), (1, 1), (4, 3), (6, 3)] : List (BitVec 5 × Nat)),
       s.Admits (.fcvtPk c d a m k.1) [Need.v d.toNat 0, Need.v a.toNat k.2] → Answers (.fcvtPk c d a m k.1) s fun t =>
         let y := fun l => packInto k.1.toNat (RMode.ofBits m) fun i => s.t.vk a i l
         WritesV s (ButFlags s t) d.toNat (s.t.act c) (fun l => (y l).1) ∧ RaisesFlags s t (s.t.act c) (fun l => (y l).2) ∧
         OnlyRegs s t 4) ∧
     (∀ k ∈ ([2, 3] : List (BitVec 5)),
       s.Admits (.fcvtPk c d a m k) [Need.v d.toNat 1, Need.v a.toNat 0] → Answers (.fcvtPk c d a m k) s fun t =>
         let y := fun l i => unpackFrom k.toNat (s.t.v a l) i
         WritesVV s (ButFlags s t) d.toNat (s.t.act c) (fun l => (y l 1).1 ++ (y l 0).1) ∧
         RaisesFlags s t (s.t.act c) (fun l => (y l 0).2.or (y l 1).2) ∧ OnlyRegs s t 4) ∧
     (∀ k ∈ ([5, 7] : List (BitVec 5)),
       s.Admits (.fcvtPk c d a m k) [Need.v d.toNat 3, Need.v a.toNat 0] → Answers (.fcvtPk c d a m k) s fun t =>
         let y := fun l i => unpackFrom k.toNat (s.t.v a l) i
         WritesQuad s (ButFlags s t) d.toNat (s.t.act c) (fun l i => (y l i).1) ∧
         RaisesFlags s t (s.t.act c) (fun l => (((y l 0).2.or (y l 1).2).or (y l 2).2).or (y l 3).2) ∧ OnlyRegs s t 4))

/-- R206, R207 and R307: No sum, difference, product or fused product of f32 words is a NaN other than the canonical one. -/
def Obligations.NansAreCanonical : Prop :=
  ∀ x y z : Word, ∀ r ∈ ([addF f32 (rd32 x) (rd32 y), subF f32 (rd32 x) (rd32 y), timesF f32 (rd32 x) (rd32 y),
      fmaF f32 (rd32 x) (rd32 y) (rd32 z)] : List (Nat × Flags)),
    r.1 < 2 ^ 32 ∧ ((decodeF f32 r.1).isNan = true → r.1 = 0x7FC00000)

/-- R208, R211 and R206: What does not overflow is rounded to a value of the format that no other value of the format approximates
better under the mode; of two nearest the one with an even code is taken; NX says exactly that the result differs from the exact
number. -/
def Obligations.RoundingIsCorrect : Prop :=
  ∀ fmt ∈ ([f64, f32, h16, bf16] : List FFmt), ∀ (mode : RMode) (x : Sys2Proof.Dyadic) (z : Bool),
    let r := roundDy fmt mode x z
    let v := decodeF fmt r.1
    r.2.of = false →
      v.isNumber = true ∧ r.2.nx = !(v.dy.eq x) ∧
      ∀ k, (decodeF fmt k).isNumber = true →
        Rounds mode v.dy x (decodeF fmt k).dy ∧
        (mode = .rne → r.1 % 2 = 1 → k % 2 = 0 → (Sys2Proof.Dyadic.dist v.dy x).eq (Sys2Proof.Dyadic.dist (decodeF fmt k).dy x) = false)

/-- R161, R296, R297, R300 and R326: A uniform word writes sd once, when its guard is true in some lane of SPLIT; the results are
exact integers modulo 2^64. `wid` writes the number of SPLIT's lanes, WIDTH, the mask of the cars that hold one of them, and each
lane's rank among them. `rdln` gives sd lane n's value when lane n takes part; otherwise sd keeps its value. A split that stands
alone goes on at its next word, 4 or 8 bytes on. -/
def Obligations.UniformWordResults : Prop :=
  (∀ (s : State) (c : Ctl) (d a b n : Fld) (i : BitVec 14) (lit : Word),
     ∀ p ∈ ([
       (.smov c d a, [Need.s d.toNat 0, Need.s a.toNat 0], fun t => t.s a),
       (.smovi c d i, [Need.s d.toNat 0], fun _ => BitVec.ofInt 64 i.toInt),
       (.smovk c d lit, [Need.s d.toNat 0], fun _ => BitVec.ofNat 64 lit.toNat),
       (.sadd c d a b, needsU d a b, fun t => BitVec.ofInt 64 ((t.s a).toInt + (t.s b).toInt)),
       (.ssub c d a b, needsU d a b, fun t => BitVec.ofInt 64 ((t.s a).toInt - (t.s b).toInt)),
       (.smul c d a b, needsU d a b, fun t => BitVec.ofInt 64 ((t.s a).toInt * (t.s b).toInt)),
       (.sand c d a b, needsU d a b, fun t => t.s a &&& t.s b),
       (.sor c d a b, needsU d a b, fun t => t.s a ||| t.s b),
       (.sxor c d a b, needsU d a b, fun t => t.s a ^^^ t.s b),
       (.sshl c d a b, needsU d a b, fun t => BitVec.ofNat 64 ((t.s a).toNat * 2 ^ (t.s b).toNat)),
       (.sshr c d a b, needsU d a b, fun t => BitVec.ofNat 64 ((t.s a).toNat / 2 ^ (t.s b).toNat)),
       (.saddi c d a n, [Need.s d.toNat 0, Need.s a.toNat 0], fun t => BitVec.ofInt 64 ((t.s a).toInt + n.toInt))] :
       List (Instr × List Need × (Train → Dword))),
     s.Admits p.1 p.2.1 → Answers p.1 s fun t =>
       WritesS s t d.toNat (decide (lanes (s.t.act c) ≠ [])) (p.2.2 s.t) ∧ OnlyRegs s t (wordBytes p.1)) ∧
  (∀ (s : State) (c : Ctl) (d : Fld),
     let m := s.t.split.mask
     s.Admits (.wid c d) [Need.v d.toNat 3] → Answers (.wid c d) s fun t =>
       WritesQuad s t d.toNat (s.t.act c) (fun l i => match i with
         | 0 => BitVec.ofNat 32 (lanes m).length
         | 1 => BitVec.ofNat 32 s.t.i.width
         | 2 => BitVec.ofNat 32 ((List.range 8).foldl (fun w k => if (lanes m).any (fun j => j / 8 == k) = true then w + 2 ^ k else w) 0)
         | _ => BitVec.ofNat 32 ((lanes m).filter fun j => j < l).length) ∧ OnlyRegs s t 4) ∧
  (∀ (s : State) (c : Ctl) (d a : Fld) (n : BitVec 6),
    s.Admits (.rdln c d a n) [Need.s d.toNat 0, Need.v a.toNat 0] → Answers (.rdln c d a n) s fun t =>
      WritesS s t d.toNat ((s.t.act c).getLsbD n.toNat) (BitVec.ofNat 64 (s.t.v a n.toNat).toNat) ∧ OnlyRegs s t 4)

/-- R298: The uniform compares have the opcodes 0x8C, 0x8D and 0x8E in format P, with a and b uniform; each writes its relation to
pd in every lane of SPLIT whose guard is true; other lanes keep pd, and a write to p0 is discarded. -/
def Obligations.UniformCompares : Prop :=
  (∀ (s : State) (c : Ctl) (d a b : Fld),
    ∀ p ∈ ([
      (.scmpEq c d a b, fun t => decide (t.s a = t.s b)),
      (.scmpLtI64 c d a b, fun t => decide ((t.s a).toInt < (t.s b).toInt)),
      (.scmpLtN64 c d a b, fun t => decide ((t.s a).toNat < (t.s b).toNat))] : List (Instr × (Train → Bool))),
    s.Admits p.1 [Need.p d.toNat, Need.s a.toNat 0, Need.s b.toNat 0] → Answers p.1 s fun t =>
      (∀ n l, l < 64 → (t.t.r.getP s.t.x.priv n).getLsbD l =
        if n = d.toNat ∧ n ≠ 0 ∧ s.t.split.mask.getLsbD l = true ∧ (s.t.act c).getLsbD l = true then p.2 s.t
        else (s.t.r.getP s.t.x.priv n).getLsbD l) ∧
      WritesP s t d.toNat (s.t.act c) (fun _ => p.2 s.t) ∧ OnlyRegs s t 4) ∧
  (∀ w lit : Word,
    let uniform := (fld w 7 7).toNat < 64 ∧ (fld w 0 7).toNat < 64
    (fld w 21 8 = 0x8C#8 →
      decode w lit = if uniform then some (.scmpEq (ctl w) (fld w 14 7) (fld w 7 7) (fld w 0 7)) else none) ∧
    (fld w 21 8 = 0x8D#8 →
      decode w lit = if uniform then some (.scmpLtI64 (ctl w) (fld w 14 7) (fld w 7 7) (fld w 0 7)) else none) ∧
    (fld w 21 8 = 0x8E#8 →
      decode w lit = if uniform then some (.scmpLtN64 (ctl w) (fld w 14 7) (fld w 7 7) (fld w 0 7)) else none))

/-- R301, R302, R323, R43, R147 and R265: The predicate words and votes write pd in the lanes that take part. `guard` points a latch
at predicate pa when its own guard is true in some lane of SPLIT, and changes nothing else. The lanes that take part are SPLIT's
lanes in which the guard is true: always, by g0, by g1, or where g0 is false; p0 is true in every lane. A split that stands alone
goes on at its next word. -/
def Obligations.PredicatesAndGuards : Prop :=
  (∀ (s : State) (c : Ctl) (d a b : Fld) (k : BitVec 1),
    let e := s.t.act c
    ∀ p ∈ ([
      (.pand c d a b, needsP d a b, fun t l => (t.p a).getLsbD l && (t.p b).getLsbD l),
      (.por c d a b, needsP d a b, fun t l => (t.p a).getLsbD l || (t.p b).getLsbD l),
      (.pxor c d a b, needsP d a b, fun t l => (t.p a).getLsbD l != (t.p b).getLsbD l),
      (.pandn c d a b, needsP d a b, fun t l => (t.p a).getLsbD l && !(t.p b).getLsbD l),
      (.pmov c d a, [Need.p d.toNat, Need.p a.toNat], fun t l => (t.p a).getLsbD l),
      (.pnot c d a, [Need.p d.toNat, Need.p a.toNat], fun t l => !(t.p a).getLsbD l),
      (.pset c d k, [Need.p d.toNat], fun _ _ => k == 1#1),
      (.voteAny c d a, [Need.p d.toNat, Need.p a.toNat], fun t _ => (lanes e).any fun j => (t.p a).getLsbD j),
      (.voteAll c d a, [Need.p d.toNat, Need.p a.toNat], fun t _ => (lanes e).all fun j => (t.p a).getLsbD j),
      (.elect c d, [Need.p d.toNat], fun _ l => (lanes e).all fun j => decide (l ≤ j))] :
      List (Instr × List Need × (Train → Nat → Bool))),
    s.Admits p.1 p.2.1 → Answers p.1 s fun t => WritesP s t d.toNat e (p.2.2 s.t) ∧ OnlyRegs s t 4) ∧
  (∀ (s : State) (c : Ctl) (k : BitVec 1) (a : Fld),
     s.Admits (.guard c k a) [Need.p a.toNat] → Answers (.guard c k a) s fun t =>
       t.t.r = (if s.t.act c = 0 then s.t.r else if k = 0 then { s.t.r with g0 := a } else { s.t.r with g1 := a }) ∧ OnlyRegs s t 4) ∧
  (∀ (t : Train) (c : Ctl) (l : Nat), t.group = none → l < 64 →
     ((t.act c).getLsbD l = (t.split.mask.getLsbD l && match c.g.toNat with
       | 0 => true
       | 1 => (t.r.getP t.x.priv t.r.g0.toNat).getLsbD l
       | 2 => (t.r.getP t.x.priv t.r.g1.toNat).getLsbD l
       | _ => !(t.r.getP t.x.priv t.r.g0.toNat).getLsbD l)) ∧ (t.p 0).getLsbD l = true)

/-- R146, R162, R164, R322 and R325: A shuffle gives each lane that takes part va of its source lane, as it stood before the word,
when the source takes part; otherwise vd keeps its value. Predicate number d, where the budget holds it, says which. `redux` gives
every lane that takes part the value of the fixed tree over the lane positions, `scan` the fold of the positions up to its own, and
both raise the flags of their combinations. A split that stands alone goes on at its next word. -/
def Obligations.ExchangeResults : Prop :=
  (∀ (s : State) (c : Ctl) (d a b : Fld),
     let e := s.t.act c
     ∀ p ∈ ([
       (.shflIdx c d a b, fun _ x => x),
       (.shflUp c d a b, fun l x => (l : Int) - x),
       (.shflDn c d a b, fun l x => (l : Int) + x),
       (.shflXor c d a b, fun l x => ((l ^^^ x : Nat) : Int))] : List (Instr × (Nat → Nat → Int))),
     let src := fun l => p.2 l (s.t.v b l).toNat
     let ok := fun l => decide (0 ≤ src l) && decide (src l < s.t.i.width) && e.getLsbD (src l).toNat
     s.Admits p.1 (needs3 d a b) → Answers p.1 s fun t =>
       (∀ n l, l < 64 → t.t.r.getV s.t.x.priv n l =
         if n = d.toNat ∧ e.getLsbD l = true ∧ ok l = true then s.t.v a (src l).toNat else s.t.r.getV s.t.x.priv n l) ∧
       (∀ n l, l < 64 → (t.t.r.getP s.t.x.priv n).getLsbD l =
         if n = d.toNat ∧ n ≠ 0 ∧ s.t.inBudget (.p n) = true ∧ e.getLsbD l = true then ok l
         else (s.t.r.getP s.t.x.priv n).getLsbD l) ∧
       (t.t.r.s, t.t.r.g0, t.t.r.g1, t.t.r.fpflags) = (s.t.r.s, s.t.r.g0, s.t.r.g1, s.t.r.fpflags) ∧ OnlyRegs s t 4) ∧
  (∀ (s : State) (c : Ctl) (d a k : Fld),
     let e := s.t.act c
     let xs := (List.range s.t.i.width).map fun l => if e.getLsbD l = true then s.t.v a l else identity k.toNat
     (s.Admits (.redux c d a k) (needs2 d a) → Answers (.redux c d a k) s fun t =>
       WritesV s (ButFlags s t) d.toNat e (fun _ => (tree k.toNat 7 xs).1) ∧
       t.t.r.fpflags = s.t.r.fpflags ||| (tree k.toNat 7 xs).2.bits ∧ OnlyRegs s t 4) ∧
     (s.Admits (.scan c d a k) (needs2 d a) → Answers (.scan c d a k) s fun t =>
       let ys := prefixes k.toNat (identity k.toNat) xs
       WritesV s (ButFlags s t) d.toNat e (fun l => (ys.getD l (0, Flags.none)).1) ∧
       t.t.r.fpflags = s.t.r.fpflags ||| (ys.foldl (fun g x => g.or x.2) Flags.none).bits ∧ OnlyRegs s t 4))

/-- R58, R62, R63, R65, R349, R350 and R351: Which addresses the local spaces accept for `len` bytes at alignment `n`, and with
which REASON they fail: beyond the space 0, a user's private access above 0xDFFF 7, misaligned 1, in this order. A local word of one
lane that fails raises 0x0A with that REASON, its space and its exact address, and does nothing else. Which global addresses an
access accepts, and with which cause and REASON it fails. Model choices: log 122. -/
def Obligations.AddressChecks : Prop :=
  (∀ (s : State) (ea n len : Nat), 0 < n → 0 < len →
     (s.localFault 0 ea n len = if 0x10000 < ea + len then some 0 else if s.t.x.priv = false ∧ 0xE000 < ea + len then some 7
       else if ea % n = 0 then none else some 1) ∧
     (s.localFault 1 ea n len = if (s.recOf s.t).scratch < ea + len ∨ 2 ^ 32 ≤ ea then some 0 else if ea % n = 0 then none else some 1) ∧
     (s.localFault 2 ea n len =
       if 2 ^ 32 ≤ ea ∨ (s.recOf s.t).clw * (s.recOf s.t).clh ≤ ea / 2 ^ 25 ∨ (s.recOf s.t).scratch < ea % 2 ^ 25 + len then some 0
       else if ea % n = 0 then none else some 1) ∧
     (s.localFault 4 ea n len = if 0x10000 < ea + len then some 0 else if ea % n = 0 then none else some 1)) ∧
  (∀ (s : State) (c : Ctl) (d a : Fld) (w : BitVec 3) (off : BitVec 4) (l : Nat),
     let n := (accessSize w).1
     let ea := (s.t.v a l).toNat + off.toNat * n
     s.t.act c = laneBit l → l < 64 →
     ∀ p ∈ ([(.ldp c d a w off, 0), (.lds c d a w off, 1), (.ldc c d a w off, 2), (.ldk c d a w off, 4), (.stp c d a w off, 0),
         (.sts c d a w off, 1), (.stc c d a w off, 2)] : List (Instr × Nat)),
       s.Admits p.1 (needsN d a w) → ∀ r, s.localFault p.2 ea n 1 = some r →
         exec p.1 s = .next (s.raise 0x0A (laneBit l) (memInfo r p.2 ea))) ∧
  (∀ (s : State) (part ea n right : Nat) (windows area : Bool),
     (2 ^ 56 ≤ ea → s.globalFault part ea n right windows area = some (0x0A, 2)) ∧
     (ea < 2 ^ 56 → ea % n ≠ 0 → s.globalFault part ea n right windows area = some (0x0A, 1)) ∧
     (ea < 2 ^ 56 → ea % n = 0 → s.window part ea = none → s.m.mapping part ea = none →
       s.globalFault part ea n right windows area = some (0x08, 3)) ∧
     (∀ p, ea < 2 ^ 56 → ea % n = 0 → s.window part ea = none → s.m.mapping part ea = some p →
       s.globalFault part ea n right windows area =
         if p.rights.testBit right = false ∨ (p.area = true ∧ area = false) then some (0x09, 4) else none) ∧
     (∀ w, ea < 2 ^ 56 → ea % n = 0 → s.window part ea = some w →
       s.globalFault part ea n right windows area =
         if windows = false then some (0x09, 5) else if w.rights.testBit right = false then some (0x09, 4)
         else if w.va + w.len < ea + n then some (0x09, 6) else none))

/-- R57, R58, R102, R103, R104, R110, R147, R296, R299, R349, R350 and R351: A load from private space gives each lane that takes
part the bytes that its private space holds at va + off × size, and one from the constant space those of its grid's constant block,
zero behind it, widened; nothing else changes. `sld` reads the constant space once and widens to 64 bits. They act at their issue,
once that may be seen. A load from scratchpad or cluster scratchpad goes to the bank behind the train's earlier accesses of the same
place; its reply gives each lane the bytes that the place then holds, and until then every word that names its register, of whatever
kind, is held. A split that stands alone goes on at its next word. Model choices: log 8, 103, 123, 132. -/
def Obligations.LoadResults : Prop :=
  (∀ (s : State) (c : Ctl) (d a : Fld) (w : BitVec 3) (off : BitVec 4),
     let n := (accessSize w).1
     let ea := fun l => (s.t.v a l).toNat + off.toNat * n
     let e := s.t.act c
     let v := s.read e
     (e ≠ 0 → s.mayAct Order.plain = true) →
     (s.Admits (.ldp c d a w off) (needsN d a w) →
       (∀ l ∈ lanes e, s.localFault 0 (ea l) n 1 = none ∧ s.t.privPoisoned l (ea l) n = false) →
         Answers (.ldp c d a w off) s fun t => OnlyRegs v t 4 ∧ WritesData v t d.toNat n (accessSize w).2 e fun l =>
           natOfBytes ((List.range n).map fun i => Table.get 0 s.t.priv (privKey l (ea l + i)))) ∧
     (s.Admits (.ldk c d a w off) (needsN d a w) → (∀ l ∈ lanes e, s.localFault 4 (ea l) n 1 = none ∧ s.ConstGood (ea l) n) →
         Answers (.ldk c d a w off) s fun t => OnlyRegs v t 4 ∧ WritesData v t d.toNat n (accessSize w).2 e fun l =>
           natOfBytes ((List.range n).map (s.constByte (ea l)))) ∧
     (let ea := (s.t.s a).toNat + off.toNat * n
      s.Admits (.sld c d a w off) [Need.s d.toNat 0, Need.s a.toNat 0] → ea < 65536 → ea % n = 0 → s.ConstGood ea n →
         Answers (.sld c d a w off) s fun t => OnlyRegs v t 4 ∧
           WritesS v t d.toNat (decide (e ≠ 0)) (widen 64 n (accessSize w).2 (natOfBytes ((List.range n).map (s.constByte ea)))))) ∧
  (∀ (s : State) (c : Ctl) (d a : Fld) (w : BitVec 3) (off : BitVec 4),
     let n := (accessSize w).1
     let ea := fun l => (s.t.v a l).toNat + off.toNat * n
     let e := s.t.act c
     ∀ p ∈ ([(.lds c d a w off, 1), (.ldc c d a w off, 2)] : List (Instr × Nat)),
     let acc := (lanes e).map fun l => s.scratchAcc p.2 (ea l) 0 0 l
     let op : Op := { s.newOp (.localLoad n (accessSize w).2 d acc) 16 e (s.t.deps 1 n acc Order.plain) false false none with
       after := s.t.after Order.plain }
     s.Admits p.1 (needsN d a w) → s.t.acquiring = false → (∀ l ∈ lanes e, s.localFault p.2 (ea l) n 1 = none) →
       ∃ t, exec p.1 s = .next t ∧ SameLanes s t ∧ Leaves s t (s.t.split.after 4) ∧ SameBytes s t ∧
         t = (if e = 0 then Moved s t else (Moved s t).onT fun u => u.enqueue op) ∧
         (e ≠ 0 → ∀ k, d.toNat ≤ k → k ≤ d.toNat + extraRegs n → t.t.split.mask &&& s.t.split.mask ≠ 0 →
           t.t.awaited (.v k 0) = true)) ∧
  (∀ (s : State) (o : Op) (n : Nat) (signed : Bool) (d : Fld) (acc : List LaneAcc), s.t.life = .running →
     s.subject = ⟨s.t.i.id, o.id, 64⟩ → s.t.op o.id = some o → o.work = .localLoad n signed d acc → s.mayPerform o = true → o.stop = none →
     o.counter = 16 → (retireOps [] s.t.c.ops).1 = [] → o.prv = s.t.x.priv → n ∈ [1, 2, 4, 8, 16] →
     acc.map LaneAcc.lane = lanes o.lanes → (∀ x ∈ acc, x.done = false) →
       ∃ t, exec .loadReply s = .next t ∧ WritesData s t d.toNat n signed o.lanes (fun l => match acc.find? fun x => x.lane = l with
           | some x => natOfBytes (s.scratchRead s.t.i.grid (x.ua / 2 ^ 32) (x.ua % 2 ^ 32) n)
           | none => 0) ∧
         t.t.d = s.t.d ∧ t.t.priv = s.t.priv ∧ t.m = s.m ∧ t.d = s.d ∧ t.t.x = s.t.x) ∧
  (∀ (s : State) (i : Instr) (privileged : Bool) (needs : List Need) (body : State → State), s.Issuing → i.wellFormed = true →
     (privileged = true → s.t.x.priv = true) → (∀ n ∈ needs, s.t.inBudget n = true) → (∃ n ∈ needs, s.t.awaited n = true) → s.t.Lone →
       word i privileged needs body s = .next s) ∧
  (∀ (s : State) (c : Ctl) (d a b : Fld) (w : BitVec 3) (off : BitVec 4) (p : BitVec 6) (ac sz : BitVec 2) (ln : BitVec 6) (lit : Word),
     s.Issuing → s.t.Lone →
     ∀ x ∈ ([(.mov c d a, needs2 d a), (.add c d a b, needs3 d a b), (.cmpEq c d a b, needsCmp d a b), (.addB64 c d a b, needsPair d a b),
         (.rdln c d a ln, [.s d.toNat 0, .v a.toNat 0]), (.lds c d a w off, needsN d a w), (.sts c d a w off, needsN d a w),
         (.ldp c d a w off, needsN d a w), (.stp c d a w off, needsN d a w),
         (.ldg c d p off ac sz, [.v d.toNat (extraRegs (globalSize sz off).1), .v (2 * p.toNat) 1]),
         (.stg c d p off ac sz, [.v d.toNat (extraRegs (globalSize sz off).1), .v (2 * p.toNat) 1]),
         (.atom c d a b lit, needsAtom false (some d) a b lit)] : List (Instr × List Need)),
       x.1.wellFormed = true → (∀ m ∈ x.2, s.t.inBudget m = true) → (∃ m ∈ x.2, s.t.awaited m = true) → exec x.1 s = .next s)

/-- R100, R104, R111, R349, R350, R351, R4 and R57: `stp` answers a next state: it writes the low bytes of vd, lowest first, at va +
off × size of each lane that takes part; no other byte of any space, no register and no mark changes. `sts` and `stc` answer a next
state in which their store stands in the scratchpad's bank, uncounted, behind earlier accesses of the same place, and it may
overtake those that it follows at a narrower scope, and nothing else has changed; when it is performed it writes the scratchpads
that its lanes name, of lanes that write one byte the highest is seen. All three want room among the 64 stores. A split that stands
alone goes on at its next word. Model choices: log 123, 124. -/
def Obligations.StoreResults : Prop :=
  (∀ (s : State) (c : Ctl) (d a : Fld) (w : BitVec 3) (off : BitVec 4),
     let n := (accessSize w).1
     let ea := fun l => (s.t.v a l).toNat + off.toNat * n
     s.Admits (.stp c d a w off) (needsN d a w) → s.t.acquiring = false → s.t.noRoom 16 true = false →
     (∀ l ∈ lanes (s.t.act c), s.localFault 0 (ea l) n 1 = none ∧ s.t.privPoisoned l (ea l) n = false) →
       ∃ t, exec (.stp c d a w off) s = .next t ∧
         (∀ l o, l < 64 → o < 65536 → Table.get 0 t.t.priv (privKey l o) =
           if (s.t.act c).getLsbD l = true ∧ ea l ≤ o ∧ o < ea l + n then BitVec.ofNat 8 (s.t.data d n l / 256 ^ (o - ea l))
           else Table.get 0 s.t.priv (privKey l o)) ∧
         t = (Moved s t).onT (fun u => { u with priv := t.t.priv }) ∧ SameLanes s t ∧ Leaves s t (s.t.split.after 4)) ∧
  (∀ (s : State) (c : Ctl) (d a : Fld) (w : BitVec 3) (off : BitVec 4),
     let n := (accessSize w).1
     let ea := fun l => (s.t.v a l).toNat + off.toNat * n
     let e := s.t.act c
     let acc := fun space => (lanes e).map fun l => s.scratchAcc space (ea l) (s.t.data d n l) 0 l
     let op := fun space => ({ s.newOp (.store 1 n (acc space)) 16 e (s.t.deps 1 n (acc space) Order.plain) false true none with
       after := s.t.after Order.plain } : Op)
     s.t.acquiring = false → s.t.noRoom 16 true = false →
     (s.Admits (.sts c d a w off) (needsN d a w) → (∀ l ∈ lanes e, s.localFault 1 (ea l) n 1 = none) →
       ∃ t, exec (.sts c d a w off) s = .next t ∧ SameLanes s t ∧ Leaves s t (s.t.split.after 4) ∧ SameBytes s t ∧
         t = if e = 0 then Moved s t else (Moved s t).onT fun u => u.enqueue (op 1)) ∧
     (s.Admits (.stc c d a w off) (needsN d a w) → (∀ l ∈ lanes e, s.localFault 2 (ea l) n 1 = none) →
       ∃ t, exec (.stc c d a w off) s = .next t ∧ SameLanes s t ∧ Leaves s t (s.t.split.after 4) ∧ SameBytes s t ∧
         t = if e = 0 then Moved s t else (Moved s t).onT fun u => u.enqueue (op 2))) ∧
  (∀ (s : State) (o : Op) (n : Nat) (acc : List LaneAcc), s.t.life = .running → s.subject = ⟨s.t.i.id, o.id, 64⟩ → s.t.op o.id = some o →
     o.work = .store 1 n acc → s.mayPerform o = true → o.stop = none → o.counter = 16 → (retireOps [] s.t.c.ops).1 = [] →
     acc.Pairwise (fun x y => x.lane < y.lane) → (∀ x ∈ acc, x.done = false ∧ x.lane < 64 ∧ x.ua % 2 ^ 32 + n ≤ 2 ^ 32) →
       ∃ t, exec .storePerformed s = .next t ∧ t.t.r = s.t.r ∧ t.t.d = s.t.d ∧ t.t.priv = s.t.priv ∧ t.m = s.m ∧ t.d.bars = s.d.bars ∧
         WritesScratch s t fun team at_ =>
           if 2 ^ 32 ≤ at_ then none
           else (acc.reverse.find? fun x => decide (x.ua ≤ team * 2 ^ 32 + at_ ∧ team * 2 ^ 32 + at_ < x.ua + n)).map
             fun x => BitVec.ofNat 8 (x.x / 256 ^ (team * 2 ^ 32 + at_ - x.ua)))

/-- R266, R271, R333, R335, R337, R338, R343, R111, R150, R179, R103 and R108: `nop`, `idem` (which starts a region at its own
address), `yield` with no other live slot, a `wait` whose limit is met, a `fence` with nothing outstanding, `tinv`, and a `trap` or
`brk` guarded off leave everything but the split's place. `wait` holds its split while more operations are outstanding than its
limit; after that an error mark is cleared and raises 0x0E. `yield` with another live slot that can issue ends the turn. A `fence`
with accesses outstanding holds its split at system scope; at a narrower one it goes on, and stands between those accesses and later
ones for the observers in its scope and for later engine operations. Model choices: log 10, 11, 103, 123. -/
def Obligations.WordsThatGoOn : Prop :=
  (∀ (s : State) (c : Ctl) (k : Bool) (a : Fld) (ac : BitVec 4) (lim : BitVec 8) (sc : BitVec 3) (n : BitVec 14) (kind : BitVec 2),
    s.t.Lone →
    let sp := s.t.split
    (s.Admits (.nop c) [] → exec (.nop c) s = .next (Next s { sp with pc := sp.pc + 4 })) ∧
    (s.Admits (.idem k) [] → exec (.idem k) s = .next (Next s { sp with pc := sp.pc + 4, region := sp.pc, count := sp.count + 1 })) ∧
    (s.Admits (.yield c) [] → exec (.yield c) s = .next (Next s { sp with pc := sp.pc + 4 })) ∧
    (s.Admits (.wait k ac lim) [] → s.t.outstanding ac.toNat ≤ lim.toNat → s.t.c.err.getLsbD ac.toNat = false →
      exec (.wait k ac lim) s = .next (Next s { sp with pc := sp.pc + 4 })) ∧
    (s.Admits (.fence c sc) [] → s.t.unperformed = [] → exec (.fence c sc) s = .next (Next s { sp with pc := sp.pc + 4 })) ∧
    (s.Admits (.fence c sc) [] → s.t.unperformed ≠ [] → exec (.fence c sc) s =
      .next (if 4 ≤ sc.toNat then s
        else Next (s.onT fun u => u.fenceOps (s.order false true sc.toNat).relAt) { sp with pc := sp.pc + 4 })) ∧
    (s.Admits (.tinv k a kind) [Need.s a.toNat 0] → s.t.x.priv = true →
      exec (.tinv k a kind) s = .next (Next s { sp with pc := sp.pc + 4 })) ∧
    (s.t.act c = 0 → (s.Admits (.trap c n) [] → exec (.trap c n) s = .next (Next s { sp with pc := sp.pc + 4 })) ∧
      (s.Admits (.brk c n) [] → exec (.brk c n) s = .next (Next s { sp with pc := sp.pc + 4 })))) ∧
  (∀ (s : State) (k : Bool) (ac : BitVec 4) (lim : BitVec 8), s.t.Lone → s.Admits (.wait k ac lim) [] →
     (lim.toNat < s.t.outstanding ac.toNat → exec (.wait k ac lim) s = .next s) ∧
     (s.t.outstanding ac.toNat ≤ lim.toNat → s.t.c.err.getLsbD ac.toNat = true → s.t.x.priv = false →
       Answers (.wait k ac lim) s fun t =>
         (∀ i, t.t.c.err.getLsbD i = (s.t.c.err.getLsbD i && decide (i ≠ ac.toNat))) ∧
         t.t.split = { s.t.split with recs := [⟨0x0E, s.t.split.mask, BitVec.ofNat 64 (2 ^ 60 + 3 * 2 ^ 58 + ac.toNat * 2 ^ 52),
           s.t.split.pc, s.t.split.region, s.t.split.count, s.t.c.issued, false⟩] } ∧
         t.t.r = s.t.r ∧ t.m = s.m ∧ t.t.priv = s.t.priv ∧ t.d = s.d)) ∧
  (∀ (s : State) (c : Ctl), s.Admits (.yield c) [] → s.t.act c ≠ 0 → s.t.canIssue (!s.t.d.cur) = true →
     s.t.split.recs = [] → s.t.split.held = false → s.t.split.half = none → (s.t.slot (!s.t.d.cur)).held = false → s.t.d.depth ≤ s.t.base →
     (s.t.slot (!s.t.d.cur)).pc ≠ s.t.split.pc + 4 →
       Answers (.yield c) s fun t =>
         t.t.d.cur = (!s.t.d.cur) ∧ t.t.d.used = 0 ∧ t.t.d.limit = s.t.d.quantum ∧
         t.t.slot (!s.t.d.cur) = s.t.slot (!s.t.d.cur) ∧ t.t.slot s.t.d.cur = { s.t.split with pc := s.t.split.pc + 4 } ∧
         t = Moved s t ∧ SameLanes s t)

/-- R151, R181, R266, R327 and R330: `bra` with all of its split's lanes goes to P + 12 × offset, with none goes on; `jmpi` goes to
the packet that its uniform register names. A `bra` that only some lanes take divides its split: the lanes that fall through stay in
the current slot, the others fill the empty one; operations in flight that lanes of both have issued are marked as divided. -/
def Obligations.BranchesAndJumps : Prop :=
  (∀ (s : State) (c : Ctl) (off : BitVec 21) (a : Fld), s.t.Lone → s.t.d.depth ≤ 128 →
     let sp := s.t.split
     (s.Admits (.bra c off) [] → s.t.act c = sp.mask →
       exec (.bra c off) s = .next (Next s { sp with pc := s.packetAddr + 12 * off.signExtend 64 })) ∧
     (s.Admits (.bra c off) [] → s.t.act c = 0 → exec (.bra c off) s = .next (Next s { sp with pc := sp.pc + 4 })) ∧
     (s.Admits (.jmpi c a) [Need.s a.toNat 0] → s.t.act c = sp.mask → s.isPacket s.t.i.part (s.t.s a).toNat = true →
       exec (.jmpi c a) s = .next (Next s { sp with pc := s.t.s a })) ∧
     (s.Admits (.jmpi c a) [Need.s a.toNat 0] → s.t.act c = 0 → exec (.jmpi c a) s = .next (Next s { sp with pc := sp.pc + 4 }))) ∧
  (∀ (s : State) (c : Ctl) (off : BitVec 21), s.t.Lone → s.t.d.depth ≤ 128 →
     let sp := s.t.split
     let e := s.t.act c
     let dest := s.packetAddr + 12 * off.signExtend 64
     s.Admits (.bra c off) [] → e ≠ 0 → e ≠ sp.mask → dest ≠ sp.pc + 4 → s.t.awaits sp = false →
       Answers (.bra c off) s fun t =>
         t.t.d.cur = s.t.d.cur ∧ t.t.split = { sp with pc := sp.pc + 4, mask := sp.mask &&& ~~~e } ∧
         t.t.slot (!s.t.d.cur) = { sp with pc := dest, mask := e } ∧ t.t.d.depth = s.t.d.depth ∧
         t = (Moved s t).onT (fun u => u.noteParts [(sp.pc + 4, sp.mask &&& ~~~e), (dest, e)]) ∧ SameLanes s t)

/-- R328, R329, R149, R155 and R156: `call`, where the words of the return stack that it writes are not poisoned, puts the address
after its packet on the return stack of each lane that takes it, in private space; `ret` takes it off again. `fork` pushes a frame
of its split's lanes that waits at L and goes on inside it, ending the region; `join` at L, when every lane of the frame has come,
takes the frame off and goes on behind L; `join` outside every frame goes on. -/
def Obligations.CallsForksAndJoins : Prop :=
  (∀ (s : State) (c : Ctl) (off : BitVec 21), s.t.Lone → s.t.d.depth ≤ 128 → s.t.act c = s.t.split.mask →
    (∀ l < 64, s.t.split.mask.getLsbD l = true → s.t.privPoisoned l 0xDFF8 4 = false) →
    let sp := s.t.split
    (s.Admits (.call c off) [] → (∀ l < 64, sp.mask.getLsbD l = true → s.t.depthOf l < 31 ∧
        s.t.privPoisoned l (0xDF00 + 8 * s.t.depthOf l) 8 = false) →
      (s.packetAddr + 12).toNat < 2 ^ 56 → Answers (.call c off) s fun t =>
        t.t.split = { sp with pc := s.packetAddr + 12 * off.signExtend 64, region := s.packetAddr + 12 * off.signExtend 64,
                              count := sp.count + 1 } ∧
        (∀ l < 64, sp.mask.getLsbD l = true → t.t.depthOf l = s.t.depthOf l + 1 ∧
          t.t.returnAt l (s.t.depthOf l) = (s.packetAddr + 12).toNat) ∧
        (∀ l o, l < 64 → o < 0x10000 → (sp.mask.getLsbD l = false ∨ o < 0xDF00 + 8 * s.t.depthOf l ∨
            0xDFFC ≤ o ∨ (0xDF08 + 8 * s.t.depthOf l ≤ o ∧ o < 0xDFF8)) →
          Table.get 0 t.t.priv (privKey l o) = Table.get 0 s.t.priv (privKey l o)) ∧
        t = (Moved s t).onT (fun u => { u with priv := t.t.priv }) ∧ SameLanes s t) ∧
    (∀ ra : Nat, s.Admits (.ret c) [] → s.isPacket s.t.i.part ra = true → ra < 2 ^ 56 →
      (∀ l < 64, sp.mask.getLsbD l = true → 0 < s.t.depthOf l ∧ s.t.depthOf l ≤ 31 ∧
        s.t.privPoisoned l (0xDF00 + 8 * (s.t.depthOf l - 1)) 8 = false ∧ s.t.returnAt l (s.t.depthOf l - 1) = ra) →
      Answers (.ret c) s fun t =>
        t.t.split = { sp with pc := BitVec.ofNat 64 ra, region := BitVec.ofNat 64 ra, count := sp.count + 1 } ∧
        (∀ l < 64, sp.mask.getLsbD l = true → t.t.depthOf l = s.t.depthOf l - 1) ∧
        (∀ l o, l < 64 → o < 0x10000 → (sp.mask.getLsbD l = false ∨ o < 0xDFF8 ∨ 0xDFFC ≤ o) →
          Table.get 0 t.t.priv (privKey l o) = Table.get 0 s.t.priv (privKey l o)) ∧
        t = (Moved s t).onT (fun u => { u with priv := t.t.priv }) ∧ SameLanes s t)) ∧
  (∀ (s : State) (k : Bool) (off : BitVec 21),
    let sp := s.t.split
    let dest := s.packetAddr + 12 * off.signExtend 64
    (s.Admits (.fork k off) [] → s.t.Lone → s.t.d.depth = s.t.base → s.t.d.depth < 128 → sp.frame < 256 → dest.toNat < 2 ^ 56 →
      dest.toNat % 4 = 0 → sp.mask &&& ~~~s.t.d.exited = sp.mask → Answers (.fork k off) s fun t =>
        t.t.d.depth = s.t.d.depth + 1 ∧ t.t.entry s.t.d.depth = .frame ⟨dest, sp.mask, 0, sp.frame⟩ ∧
        t.t.split = { sp with pc := sp.pc + 4, region := sp.pc + 4, count := sp.count + 1, frame := s.t.d.depth + 1 } ∧
        (∀ w, w ∈ t.t.privBad ↔ w ∈ s.t.privBad ∧ w * 32 ≠ privKey 0 (sidingAt s.t.d.depth)) ∧
        t = (Moved s t).onT (fun u => { u with priv := t.t.priv, privBad := t.t.privBad }) ∧ SameLanes s t) ∧
    (∀ f : JoinFrame, s.Admits (.join k) [] → (s.t.slot (!s.t.d.cur)).mask = 0 → s.t.split.held = false →
      sp.recs = [] → s.t.d.depth = s.t.base + 1 → sp.frame = s.t.d.depth → s.t.d.depth ≤ 128 →
      s.t.entry s.t.base = .frame f → f.l = sp.pc → f.mask &&& ~~~s.t.d.exited &&& ~~~(f.arrived ||| sp.mask) = 0 →
      sp.mask &&& ~~~s.t.d.exited ≠ 0 → Answers (.join k) s fun t =>
        t.t.d.depth = s.t.base ∧ t.t.split.mask = (f.arrived ||| sp.mask) &&& ~~~s.t.d.exited ∧
        t.t.split.pc = sp.pc + 4 ∧ t.t.split.region = sp.pc + 4 ∧ t.t.split.frame = f.frame ∧
        t.t.r = s.t.r ∧ t.m = s.m ∧ t.d = s.d ∧ SameLanes s t) ∧
    (s.Admits (.join k) [] → s.t.Lone → sp.frame = 0 → exec (.join k) s = .next (Next s { sp with pc := sp.pc + 4 })))

/-- R157 and R332: `exit` takes its lanes out of the split for good; the others go on. With no lane it goes on. -/
def Obligations.ExitEndsLanes : Prop :=
  ∀ (s : State) (c : Ctl), s.Admits (.exit c) [] → s.t.Lone →
    let sp := s.t.split
    let e := s.t.act c
    (e ≠ sp.mask → sp.mask &&& ~~~e &&& s.t.live ≠ 0 → Answers (.exit c) s fun t =>
      t.t.d.exited = s.t.d.exited ||| e ∧ t.t.split = { sp with mask := sp.mask &&& ~~~e, pc := sp.pc + 4 } ∧
      t.t.r = s.t.r ∧ t.t.priv = s.t.priv ∧ t.m = s.m ∧ t.d = s.d) ∧
    (e = sp.mask → e = s.t.live → s.t.c.ops ≠ [] → s.t.x.stores = [] → Answers (.exit c) s fun t =>
      t.t.d.exited = s.t.d.exited ||| e ∧ t.t.split.mask = 0 ∧ t.t.life = .ending ∧ t.t.r = s.t.r ∧ t.t.c.ops = s.t.c.ops ∧
      t.m = s.m ∧ t.d = s.d)

/-- R181, R186 and R334: A `trap` or `brk` that some lane takes attaches a record to its split, with the word's address, region,
count and bits; it does not go on and has no other effect. -/
def Obligations.TrapsAttachRecords : Prop :=
  ∀ (s : State) (c : Ctl) (n : BitVec 14), s.t.Lone → s.t.act c ≠ 0 → s.t.x.priv = false →
    ∀ p ∈ ([(.trap c n, 0x20), (.brk c n, 0x21)] : List (Instr × BitVec 8)),
    s.Admits p.1 [] → exec p.1 s = .next (s.onT fun u => u.setSplit { u.split with recs :=
      [⟨p.2, u.act c, (wordOf p.1).zeroExtend 64, u.split.pc, u.split.region, u.split.count, u.c.issued, false⟩] })

/-- R103, R110, R113, R165, R166, R167, R168, R169, R171, R172 and R176: An arrival by a whole train at a declared barrier counts
its member once, completes the phase when it is the last one with no bytes pending, and gives pd the parity it arrived at; a phase
that completes with its error flag set is kept as failed; `bar.drop` leaves the barrier for good. It comes after every earlier
access of the split for all that its level holds, the grid's as device scope: while one of these could not be performed at once
after it, or an acquire at system scope is outstanding, it holds its split and does nothing else; with none outstanding it goes
ahead. An expect adds its bytes, modulo 2^64, to what the phase waits for. An arrival, drop or expect that faults (undeclared
barrier, member index, member that has left, an arrival where none is expected, second arrival in a phase, too many bytes) raises
its trap and does nothing else. A split that stands alone goes on at its next word. Model choices: log 11, 123. -/
def Obligations.Arrivals : Prop :=
  (∀ (s : State) (k : Bool) (pd : Fld) (bar : BitVec 5) (b : Bar),
     s.t.whole s.t.split = true → s.bar (s.barKey s.t bar.toNat) = some b →
     let m := s.member s.t b.key.level
     let o := s.order false true (b.key.level + 1)
     m < b.count → m ∉ b.left → b.expect ≠ 0 → m ∉ b.seen →
     ∀ p ∈ ([(.barArrive k pd bar, false), (.barDrop k pd bar, true)] : List (Instr × Bool)),
     s.Admits p.1 [Need.p pd.toNat] → (s.mayAct o = false → s.t.Lone → exec p.1 s = .next s) ∧ (s.mayAct o = true → Answers p.1 s fun t =>
       (∃ b', t.bar b.key = some b' ∧ b'.key = b.key ∧ b'.count = b.count ∧ b'.pending = b.pending ∧
         b'.next = (if p.2 = true then b.next - 1 else b.next) ∧ b'.left = (if p.2 = true then m :: b.left else b.left) ∧
         (if b.arrived + 1 = b.expect ∧ b.pending = 0
          then b'.phase = b.phase + 1 ∧ b'.arrived = 0 ∧ b'.seen = [] ∧ b'.expect = b'.next ∧ b'.lastErr = b.err ∧ b'.err = false ∧
            ∀ q, q ∈ b'.failed ↔ if q = b.phase then b.err = true else q ∈ b.failed
          else b'.phase = b.phase ∧ b'.arrived = b.arrived + 1 ∧ b'.seen = m :: b.seen ∧ b'.expect = b.expect ∧
            b'.lastErr = b.lastErr ∧ b'.err = b.err ∧ b'.failed = b.failed)) ∧
       WritesP s t pd.toNat s.t.live (fun _ => b.phase.getLsbD 0) ∧
       (∀ key, key ≠ b.key → t.bar key = s.bar key) ∧
       t = { (Moved (s.act o) t).onT (fun u => u.withR t.t.r) with d := { s.d with bars := t.d.bars } } ∧ SameLanes s t ∧
       Leaves s t (s.t.split.afterEnding 4))) ∧
  (∀ s : State, s.t.acquiring = false → s.frozen = false →
     (∀ level, level < 3 → s.t.unperformed = [] → s.mayAct (s.order false true (level + 1)) = true) ∧
     (∀ level, s.scopeAlone (level + 1) = true → (∀ o ∈ s.t.unperformed, o.acq = 0 ∧ o.fence = 0) →
       s.mayAct (s.order false true (level + 1)) = true) ∧
     (∀ level, level < 3 → s.scopeAlone (level + 1) = false →
       (∃ o ∈ s.t.unperformed, o.done = false ∧ (o.abroad = true ∨ o.parked = true ∨ ∃ h ∈ o.homes, s.servable h.1 h.2 = false)) →
         s.mayAct (s.order false true (level + 1)) = false)) ∧
  (∀ (s : State) (k : Bool) (pd : Fld) (bar : BitVec 5), s.t.whole s.t.split = true →
     let key := s.barKey s.t bar.toNat
     let m := s.member s.t key.level
     ∀ i ∈ ([.barArrive k pd bar, .barDrop k pd bar] : List Instr), s.Admits i [Need.p pd.toNat] →
     (s.bar key = none → exec i s = .next (s.raise 0x11 s.t.split.mask (barInfo 1 key.level key.num 0))) ∧
     (∀ b, s.bar key = some b →
       (b.count ≤ m → exec i s = .next (s.raise 0x11 s.t.split.mask (barInfo 0 key.level key.num b.phase))) ∧
       (m < b.count → (m ∈ b.left ∨ b.expect = 0) →
         exec i s = .next (s.raise 0x11 s.t.split.mask (barInfo 2 key.level key.num b.phase))) ∧
       (m < b.count → m ∉ b.left → b.expect ≠ 0 → m ∈ b.seen →
         exec i s = .next (s.raise 0x10 s.t.split.mask (barInfo 0 key.level key.num b.phase))))) ∧
  (∀ (s : State) (k : Bool) (sb : Fld) (bar : BitVec 5), s.Admits (.barExpect k sb bar) [Need.s sb.toNat 0] →
     s.t.whole s.t.split = true →
     let key := s.barKey s.t bar.toNat
     let m := s.member s.t key.level
     (s.bar key = none → exec (.barExpect k sb bar) s = .next (s.raise 0x11 s.t.split.mask (barInfo 1 key.level key.num 0))) ∧
     (∀ b, s.bar key = some b →
       (b.count ≤ m → exec (.barExpect k sb bar) s = .next (s.raise 0x11 s.t.split.mask (barInfo 0 key.level key.num b.phase))) ∧
       (m < b.count → m ∈ b.left →
         exec (.barExpect k sb bar) s = .next (s.raise 0x11 s.t.split.mask (barInfo 2 key.level key.num b.phase))))) ∧
  (∀ (s : State) (k : Bool) (sb : Fld) (bar : BitVec 5) (b : Bar), s.Admits (.barExpect k sb bar) [Need.s sb.toNat 0] →
    s.t.whole s.t.split = true → s.bar (s.barKey s.t bar.toNat) = some b →
    let m := s.member s.t b.key.level
    let n := (s.t.s sb).toNat
    m < b.count → m ∉ b.left →
    ((2 ^ 48 < n ∨ (2 ^ 63 : Int) ≤ b.pending + n) →
      exec (.barExpect k sb bar) s = .next (s.raise 0x10 s.t.split.mask (barInfo 2 b.key.level b.key.num b.phase))) ∧
    (n ≤ 2 ^ 48 → b.pending + n < 2 ^ 63 → Answers (.barExpect k sb bar) s fun t =>
      (∃ b', t.bar b.key = some b' ∧ b'.pending = wrap64 (b.pending + n) ∧ b'.key = b.key ∧ b'.count = b.count ∧ b'.left = b.left ∧
        b'.next = b.next ∧
        (if 0 < b.expect ∧ b.arrived = b.expect ∧ wrap64 (b.pending + n) = 0
         then b'.phase = b.phase + 1 ∧ b'.arrived = 0 ∧ b'.seen = [] ∧ b'.expect = b.next
         else b'.phase = b.phase ∧ b'.arrived = b.arrived ∧ b'.seen = b.seen ∧ b'.expect = b.expect)) ∧
      (∀ key, key ≠ b.key → t.bar key = s.bar key) ∧
      t = { Moved s t with d := { s.d with bars := t.d.bars } } ∧ SameLanes s t ∧ Leaves s t (s.t.split.afterEnding 4)))

/-- R103, R109, R113, R159, R160, R169, R170, R175 and R187: `bar.sync` arrives, where what the split has issued may still be seen
before it, and stays; in its wait half it holds while the parity is that of the phase it arrived at, and then ends by that phase's
error mark; a wait that completes stands before the train's later engine operations, as an acquire does. `bar.wait` holds while the
parity is pa in the train's lowest lane; `bar.try` answers at once, or with pd false when its limit is 0 or has run out, and
otherwise suspends its split. A barrier word of a split that does not hold every live lane has no effect: the split waits, HELD;
where no other split is left to come, both live slots being HELD, or the top of the siding a frame that has not all its lanes, the
train is stuck and takes a 0x12 record. Model choices: log 5, 11, 12, 123. -/
def Obligations.BarrierWaits : Prop :=
  (∀ (s : State) (k : Bool) (bar : BitVec 5) (b : Bar), s.Admits (.barSync k bar) [] → s.t.Lone → s.t.whole s.t.split = true →
     s.bar (s.barKey s.t bar.toNat) = some b →
     let o := s.order false true (b.key.level + 1)
     (s.t.split.sync = none → s.mayAct o = true → b.arrivalFault (s.member s.t b.key.level) = none →
       Answers (.barSync k bar) s fun t =>
         t.bar b.key = some (b.arrive (s.member s.t b.key.level) false) ∧
         t.t.split = { s.t.split with sync := some b.phase, count := s.t.split.count + 1,
                                      region := s.t.split.pc + 4 } ∧
         t.t.c.ops = (s.act o).t.c.ops ∧ t.t.r = s.t.r ∧ t.m = s.m) ∧
     (s.t.split.sync = none → s.mayAct o = false →
       b.arrivalFault (s.member s.t b.key.level) = none → exec (.barSync k bar) s = .next s) ∧
     (∀ q, s.t.split.sync = some q →
       (b.phase.getLsbD 0 = q.getLsbD 0 → exec (.barSync k bar) s = .next s) ∧
       (b.phase.getLsbD 0 ≠ q.getLsbD 0 → q ∉ b.failed →
         exec (.barSync k bar) s = .next (Next (s.onT fun u => u.fenceOps 0) { s.t.split with pc := s.t.split.pc + 4, sync := none })) ∧
       (b.phase.getLsbD 0 ≠ q.getLsbD 0 → q ∈ b.failed → exec (.barSync k bar) s =
         .next ((s.onT fun u => (u.setSplit { u.split with sync := none }).fenceOps 0).raise 0x0E s.t.split.mask
           (barInfo 0 b.key.level b.key.num b.phase))))) ∧
  (∀ (s : State) (k : Bool) (pd pa : Fld) (bar : BitVec 5) (sb : BitVec 2) (b : Bar), s.t.Lone → s.t.whole s.t.split = true →
     s.bar (s.barKey s.t bar.toNat) = some b → b.lastErr = false →
     let q := (s.t.p pa).getLsbD (lowest s.t.live)
     let past := b.phase.getLsbD 0 != q
     (s.Admits (.barWait k pa bar) [Need.p pa.toNat] →
       exec (.barWait k pa bar) s =
         .next (if past = true then Next (s.onT fun u => u.fenceOps 0) { s.t.split with pc := s.t.split.pc + 4 } else s)) ∧
     (s.Admits (.barTry k pd pa bar sb) [Need.p pd.toNat, Need.p pa.toNat, Need.s sb.toNat 0] →
       ((past = true ∨ s.t.s (sb.zeroExtend 7) = 0 ∨ s.t.w.ranOut = true) → Answers (.barTry k pd pa bar sb) s fun t =>
         WritesP s t pd.toNat s.t.live (fun _ => past) ∧ t.t.w.ranOut = false ∧
         t.t.c.ops = (if past = true then (s.t.fenceOps 0).c.ops else s.t.c.ops) ∧
         t.t.split = { s.t.split with pc := s.t.split.pc + 4 } ∧ t.d = s.d ∧ t.m = s.m) ∧
       (past = false → s.t.s (sb.zeroExtend 7) ≠ 0 → s.t.w.ranOut = false → exec (.barTry k pd pa bar sb) s =
         .next (s.onT fun u => u.setSplit { u.split with asleep := true, asked := none, answer := none })))) ∧
  (∀ (s : State) (k : Bool) (pd pa : Fld) (bar : BitVec 5) (sb : BitVec 2), s.t.whole s.t.split = false → s.t.split.mask ≠ 0 →
    ∀ p ∈ ([(.barArrive k pd bar, [Need.p pd.toNat]), (.barDrop k pd bar, [Need.p pd.toNat]), (.barSync k bar, []),
      (.barWait k pa bar, [Need.p pa.toNat]), (.barExpect k pa bar, [Need.s pa.toNat 0]),
      (.barTry k pd pa bar sb, [Need.p pd.toNat, Need.p pa.toNat, Need.s sb.toNat 0])] : List (Instr × List Need)),
    s.Admits p.1 p.2 →
      ((s.t.slot (!s.t.d.cur)).mask ≠ 0 → (s.t.slot (!s.t.d.cur)).held = false → (s.t.slot (!s.t.d.cur)).pc ≠ s.t.split.pc →
        Answers p.1 s fun t =>
          t.t.slot s.t.d.cur = { s.t.split with held := true } ∧ t.t.slot (!s.t.d.cur) = s.t.slot (!s.t.d.cur) ∧
          t.t.d.cur = (s.t.d.cur != s.t.canIssue (!s.t.d.cur)) ∧ t = s.onT (fun u => { u with d := t.t.d }) ∧ SameLanes s t) ∧
      (s.t.Lone ∨ ((s.t.slot (!s.t.d.cur)).mask = 0 ∧ s.t.split.recs = [] ∧ s.t.base < s.t.d.depth ∧
          ∃ f, s.t.entry (s.t.d.depth - 1) = .frame f ∧ f.mask &&& ~~~s.t.d.exited &&& ~~~f.arrived ≠ 0) →
        exec p.1 s = .next (s.onT fun u => u.setSplit { u.split with held := true, recs :=
          [⟨0x12, u.live, 0, u.split.pc, u.split.region, u.split.count, u.c.issued, false⟩] })) ∧
      ((s.t.slot (!s.t.d.cur)).mask ≠ 0 → (s.t.slot (!s.t.d.cur)).held = true → s.t.whole (s.t.slot (!s.t.d.cur)) = false →
        ((s.t.slot (!s.t.d.cur)).pc ≠ s.t.split.pc ∨ (s.t.slot (!s.t.d.cur)).frame ≠ s.t.split.frame) →
        (∀ r ∈ s.t.d.slot0.recs, r.cause ≠ 0x12) →
        exec p.1 s = .next (s.onT fun u =>
          let v := u.setSplit { u.split with held := true }
          v.setSlot false { v.d.slot0 with recs := v.d.slot0.recs ++
            [⟨0x12, u.live, u.d.slot1.pc, u.d.slot0.pc, u.d.slot0.region, u.d.slot0.count, u.c.issued, false⟩] })))


/-- R66, R67, R80, R103, R104, R107, R109, R110, R111, R347, R351 and R352: A counted access to global memory whose lanes all pass
their checks, with room on its counter, in the store buffer and among the core's 4,096 lines, and no acquire outstanding, meets the
tier map and is queued on its counter with its lanes' translated addresses and data, the operations it must follow and the epoch;
those that it follows at a scope narrower than the system it may overtake as long as nobody in the scope sees that. No register and
no byte changes. One guarded off in every lane queues at most the ordering effect of its release, and as an acquire waits while an
earlier release is not performed. Its word goes on: a split that stands alone goes on at its next word. Model choices: log 17, 19,
29, 104, 123. -/
def Obligations.GlobalAccessesIssue : Prop :=
  ∀ (s u : State) (c : Ctl) (d : Fld) (p : BitVec 6) (off : BitVec 4) (ac sz : BitVec 2) (sc : BitVec 3),
    let e := s.t.act c
    let pair := pairReg p
    let n := (globalSize sz off).1
    let n' := (globalSize sz 0).1
    let o := (globalSize sz off).2.2
    let ea := fun o l => ((s.t.vv pair l).toNat + o) % 2 ^ 64
    let load := fun o => (lanes e).map fun l => s.laneAcc (ea o l) 0 0 l
    let store := fun o n => (lanes e).map fun l => s.laneAcc (ea o l) (s.t.data d n l) 0 l
    ∀ q ∈ ([
      (.ldg c d p off ac sz, n, o, rightRead, Order.plain, .load n (globalSize sz off).2.1 d (load o)),
      (.stg c d p off ac sz, n, o, rightWrite, Order.plain, .store 3 n (store o n)),
      (.ldgAcq c d p sc sz ac, n', 0, rightRead, s.order true false sc.toNat, .load n' false d (load 0)),
      (.stgRel c d p sc sz ac, n', 0, rightWrite, s.order false true sc.toNat, .store 3 n' (store 0 n'))] :
      List (Instr × Nat × Nat × Nat × Order × Work)),
    let n := q.2.1
    let right := q.2.2.2.1
    let k := q.2.2.2.2.1
    let work := q.2.2.2.2.2
    let writes := right == rightWrite
    let acc := if writes = true then store q.2.2.1 n else load q.2.2.1
    s.Admits q.1 [Need.v d.toNat (extraRegs n), Need.v (2 * p.toNat) 1] →
    (e ≠ 0 → (∀ l ∈ lanes e, s.globalFault s.t.i.part (ea q.2.2.1 l) n right false s.t.x.priv = none) →
      s.t.acquiring = false → s.t.noRoom ac.toNat writes = false → s.linesFull (linesOf acc) = false →
      s.meetHomes writes acc = (u, none) →
        Answers q.1 s fun t =>
          t = (Moved u t).onT (fun v => v.enqueue
            { u.newOp work ac.toNat e (u.t.deps 3 n acc k) k.acquire writes none with
              acq := k.acqAt, rel := k.relAt, fenced := k.fenced, after := u.t.after k,
              pulled := acc.any fun a => a.win.isNone && u.m.needsPull a.ua }) ∧ u.t.r = s.t.r ∧ SameLanes s t ∧ SameBytes s t ∧
          Leaves s t (s.t.split.after 4)) ∧
    (e = 0 → k.acqAt = 0 ∨ (∀ x ∈ s.t.unperformed, x.rel = 0) →
      Answers q.1 s fun t => t = s.Ordered (Moved s t) k ∧ SameLanes s t ∧ Leaves s t (s.t.split.after 4)) ∧
    (e = 0 → k.acqAt ≠ 0 → (∃ x ∈ s.t.unperformed, x.rel ≠ 0) → s.t.Lone → exec q.1 s = .next s)

/-- R62, R63, R65, R66, R67, R72, R150 and R351: An access one of whose lanes fails its check has no effect in any lane and raises a
trap for those that fail with the first of 0x0A, 0x08, 0x09; TRAPINFO describes the lowest of them. While an acquire at system scope
is outstanding, or no room is left on its counter or among the core's lines, an access waits with no effect; one that meets a deep
granule with no free frame parks its slot, whose turn ends, counts as a tier stall, and is not issued. Model choices: log 11, 19,
29. -/
def Obligations.AccessesThatStop : Prop :=
  (∀ (s : State) (c : Ctl) (d : Fld) (p : BitVec 6) (off : BitVec 4) (ac sz : BitVec 2),
     let e := s.t.act c
     let n := (globalSize sz off).1
     let ea := fun l => ((s.t.vv (pairReg p) l).toNat + (globalSize sz off).2.2) % 2 ^ 64
     ∀ q ∈ ([(.ldg c d p off ac sz, rightRead), (.stg c d p off ac sz, rightWrite)] : List (Instr × Nat)),
     let f := fun l => s.globalFault s.t.i.part (ea l) n q.2 false s.t.x.priv
     let at_ := fun (k : Nat) => (lanes e).filter fun l => (f l).map Prod.fst == some k
     s.Admits q.1 [Need.v d.toNat (extraRegs n), Need.v (2 * p.toNat) 1] →
     ∀ k ∈ [0x0A, 0x08, 0x09], ∀ l ls r, at_ k = l :: ls → f l = some (k, r) →
       (k ≠ 0x0A → at_ 0x0A = []) → (k = 0x09 → at_ 0x08 = []) →
       exec q.1 s = .next (s.raise k (maskOf (at_ k) fun _ => true) (memInfo r 3 (ea l)))) ∧
  (∀ (s u : State) (c : Ctl) (d : Fld) (p : BitVec 6) (off : BitVec 4) (ac sz : BitVec 2) (g : Nat),
     let e := s.t.act c
     let n := (globalSize sz off).1
     let ea := fun l => ((s.t.vv (pairReg p) l).toNat + (globalSize sz off).2.2) % 2 ^ 64
     s.Admits (.ldg c d p off ac sz) [Need.v d.toNat (extraRegs n), Need.v (2 * p.toNat) 1] → e ≠ 0 →
     (∀ l ∈ lanes e, s.globalFault s.t.i.part (ea l) n rightRead false s.t.x.priv = none) →
     let acc := (lanes e).map fun l => s.laneAcc (ea l) 0 0 l
     ((s.t.acquiring = true ∨ 255 ≤ s.t.outstanding ac.toNat ∨ s.linesFull (linesOf acc) = true) → s.t.Lone →
       exec (.ldg c d p off ac sz) s = .next s) ∧
     (s.t.acquiring = false → s.t.outstanding ac.toNat < 255 → s.linesFull (linesOf acc) = false →
       s.meetHomes false acc = (u, some g) →
       exec (.ldg c d p off ac sz) s =
         .next ((u.onT fun t => (t.setSplit { t.split with parked := some g }).turn).notePull s.t.core)))

/-- R69, R70, R78 and R66: A line of a fast granule is there; a deep granule with a free frame takes a frame that nothing holds,
starts its promotion and pulls the line, and without one makes the access park; a write cancels a demotion, whose location is given
up; a dormant granule takes its frame at once, and its location is freed. Model choices: log 23. -/
def Obligations.TierMapAtIssue : Prop :=
  ∀ (s : State) (ua : Nat) (writes : Bool) (e : Gran),
    let g := granuleOf ua
    let line := lineOf ua % 256
    s.m.gran g = some e →
    (e.tier = .fast → e.dormant = false → ∃ t, s.homeAccess ua writes = some t ∧ t.m.gran g = some e ∧ t.m.mem = s.m.mem) ∧
    (e.tier = .deep → s.frameFree e.part = false → s.homeAccess ua writes = none) ∧
    (e.tier = .deep → s.frameFree e.part = true → e.dormant = false → ∃ t f, s.homeAccess ua writes = some t ∧
      f ∉ s.m.framesHeld ∧ t.m.gran g = some { e with tier := .promoting, lines := [], pulled := [line], frame := some f } ∧
      t.m.mem = s.m.mem ∧ t.m.epoch = s.m.epoch) ∧
    (e.tier = .deep → s.frameFree e.part = true → e.dormant = true → ∃ t f, s.homeAccess ua writes = some t ∧
      f ∉ s.m.framesHeld ∧ t.m.gran g = some { e with tier := .fast, lines := [], pulled := [], filling := e.filling || writes,
                                                      frame := some f, loc := none } ∧
      t.m.quarantine = s.m.quarantine ++ [⟨2, e.part, e.loc.getD 0, 65536, s.m.epoch⟩] ∧
      t.m.mem = s.m.mem ∧ t.m.epoch = s.m.epoch + 1) ∧
    (e.tier = .demoting → writes = true → s.ownerOf e.part g = none → ∃ t, s.homeAccess ua writes = some t ∧
      t.m.gran g = some { e with tier := .fast, lines := [], filling := e.dormant, loc := none } ∧ t.m.mem = s.m.mem) ∧
    (e.tier = .promoting → ∃ t e', s.homeAccess ua writes = some t ∧ t.m.gran g = some e' ∧ e'.tier = .promoting ∧
      e'.lines = e.lines ∧ (line ∈ e.lines ∨ line ∈ e'.pulled) ∧ t.m.mem = s.m.mem)

/-- R67, R70, R103, R107, R189, R281, R347, R351, R353, R355 and R72: An atomic whose lanes all pass their checks is queued on its
counter as one read-modify-write per lane, ordered by its acquire and release at its scope; its word goes on and ends the region.
One guarded off in every lane queues at most the ordering effect of its release, and as an acquire waits while an earlier release is
not performed. `pfg` completes for any address, with no trap and no change of a register or a byte, and its split, where it stands
alone, goes on at the next word, the region going on; a usable address in a deep granule with a free frame starts its promotion.
Model choices: log 17, 19, 23, 29, 104, 123. -/
def Obligations.AtomicsAndPrefetches : Prop :=
  (∀ (s u : State) (c : Ctl) (d a b : Fld) (lit : Word),
     let e := s.t.act c
     let L := atomLit lit
     let n := if L.wide = true then 8 else 4
     let sp := if L.space = 3 then 3 else 1
     let k := s.order L.acq L.rel L.scope
     ∀ q ∈ ([(.atom c d a b lit, some d, false, true), (.acas c d a b lit, some d, true, true), (.red c a b lit, none, false, false)] :
       List (Instr × Option Fld × Bool × Bool)),
     let cas := q.2.2.1
     let acc := (lanes e).map fun k => s.atomAcc L a b cas k
     s.Admits q.1 (needsAtom cas q.2.1 a b lit) →
     (e ≠ 0 → (∀ l ∈ lanes e, if L.space = 3 then s.globalFault s.t.i.part (s.t.vv a l).toNat n rightAtomic true false = none
         else s.localFault L.space (s.t.v a l).toNat n 1 = none) →
       s.t.acquiring = false → s.t.noRoom L.ac true = false →
       (if sp = 3 then s.linesFull (linesOf acc) = false ∧ s.meetHomes true acc = (u, none) else u = s) →
         Answers q.1 s fun t =>
           t = (Moved u t).onT (fun v => v.enqueue
             { u.newOp (.atomic sp L.wide cas q.2.2.2 L.aop (q.2.1.getD 0) acc) L.ac e (u.t.deps sp n acc k) k.acquire true none with
               acq := k.acqAt, rel := k.relAt, fenced := k.fenced, after := u.t.after k,
               pulled := decide (sp = 3) && acc.any fun a => a.win.isNone && u.m.needsPull a.ua }) ∧ u.t.r = s.t.r ∧ SameLanes s t ∧ SameBytes s t ∧
           Leaves s t (s.t.split.afterEnding 8)) ∧
     (e = 0 → k.acqAt = 0 ∨ (∀ x ∈ s.t.unperformed, x.rel = 0) →
       Answers q.1 s fun t => t = s.Ordered (Moved s t) k ∧ SameLanes s t ∧ Leaves s t (s.t.split.afterEnding 8)) ∧
     (e = 0 → k.acqAt ≠ 0 → (∃ x ∈ s.t.unperformed, x.rel ≠ 0) → s.t.Lone → exec q.1 s = .next s)) ∧
  (∀ (s : State) (c : Ctl) (a : Fld), s.Admits (.pfg c a) [Need.v a.toNat 1] → Answers (.pfg c a) s fun t =>
     t.t.r = s.t.r ∧ t.t.c.ops.map Op.id = s.t.c.ops.map Op.id ∧ t.d = s.d ∧ SameLanes s t ∧ SameBytes s t ∧
     Leaves s t (s.t.split.after 4) ∧
     (∀ l ua e, s.t.act c = laneBit l → l < 64 → (s.t.vv a l).toNat < 2 ^ 56 → s.window s.t.i.part (s.t.vv a l).toNat = none →
       s.m.translate s.t.i.part (s.t.vv a l).toNat = some ua → s.m.gran (granuleOf ua) = some e → e.tier = .deep →
       s.frameFree e.part = true → e.dormant = false →
         ∃ f, f ∉ s.m.framesHeld ∧
           t.m.gran (granuleOf ua) = some { e with tier := .promoting, lines := [], pulled := [], frame := some f }))

/-- R86: The path starts at the root, from depth j goes to the child that digit j, key[2j+1:2j], names, and ends at the first node
whose chosen child is 0 or after sixteen digits; so it holds at most 17 nodes, and later digits are ignored. Every key has one. -/
def Obligations.PathOfAKey : Prop :=
  ∀ (o : Object) (key : Word),
    let p := o.path key
    let digit := fun (j : Nat) => key.toNat / 4 ^ j % 4
    let child := fun (j : Nat) => (o.node (p.getD j 0)).children.getD (digit j) 0
    1 ≤ p.length ∧ p.length ≤ 17 ∧ p[0]? = some 0 ∧
    (∀ j, j + 1 < p.length → p[j + 1]? = some (child j) ∧ child j ≠ 0) ∧
    (p.length < 17 → child (p.length - 1) = 0) ∧
    (∀ other : Word, (∀ j < p.length, other.toNat / 4 ^ j % 4 = digit j) → o.path other = p)

/-- R35, R87, R88, R90, R96 and R109: An `ldo` whose handles and pins are in order, with no acquire or fence before it still to take
effect, walks each lane's path at issue: it adds its nodes to the pins, each with one more in its node's count, and queues the four
result words, NODEINFO, GEN and the payload's address; no register, residency or generation changes yet. The node is the first of
the path, root first, that is resident and within tolerance; where there is none, the last resident one, and the walk falls short;
so it is under the default walker image. A split that stands alone goes on at its next word. Model choices: log 30, 102, 123. -/
def Obligations.ToleranceLoads : Prop :=
  (∀ (s : State) (c : Ctl) (d a : Fld) (ac : BitVec 4),
    let e := s.t.act c
    let ws := s.walks e a
    s.Admits (.ldo c d a ac) [Need.v d.toNat 3, Need.v a.toNat 2] → e ≠ 0 → s.Handles e (fun l => s.t.v a l) →
    pinFails s.t ws = [] → s.CanFetch ac.toNat → Answers (.ldo c d a ac) s fun t =>
      Queues s t (s.newOp (.object d (ws.map fun w => (w.lane, w.result))) ac.toNat e [] false false none) (s.t.split.afterEnding 4) ∧
      t.t.pins = s.t.pins ++ newPins s.t ws ∧
      ∀ h o, s.object s.t.i.part h = some o → ∃ o', t.object s.t.i.part h = some o' ∧ o'.gen = o.gen ∧
        o'.nodes.length = o.nodes.length ∧ ∀ n, n < o.nodes.length →
          o'.node n = if (h, n) ∈ newPins s.t ws then { o.node n with pins := (o.node n).pins + 1 } else o.node n) ∧
  (∀ (o : Object) (p : List Nat) (tol : Word),
    let good := fun n => o.resident n && o.within tol n
    (∀ n j, o.walk p tol = (n, j, false) ↔ p[j]? = some n ∧ good n = true ∧ ∀ i < j, ∀ m, p[i]? = some m → good m = false) ∧
    (∀ n j, o.walk p tol = (n, j, true) → p.all (fun m => !good m) = true ∧
      ((p[j]? = some n ∧ o.resident n = true ∧ ∀ i, j < i → ∀ m, p[i]? = some m → o.resident m = false) ∨
       ((n, j) = (0, 0) ∧ p.all (fun m => !o.resident m) = true)))) ∧
  (∀ (s : State) (o : Object) (p : List Nat) (tol : Word) (l : Nat), s.image s.t.core 2 = none → s.walk l o p tol = o.walk p tol) ∧
  (∀ w : Walk, w.depth < 64 → w.node < 2 ^ 24 →
    let info := w.info
    info.getLsbD 31 = w.short ∧ info.getLsbD 30 = decide (w.path.getLast? = some w.node) ∧
    (info.extractLsb' 24 6).toNat = w.depth ∧ (info.extractLsb' 0 24).toNat = w.node)

/-- R89, R91, R92, R93, R94 and R109: `odrop` takes every pin of its lanes' objects off the train's set, with its node's count.
`oreq`, with no acquire or fence before it still to take effect, queues each lane's request; with one lane, a refinement that is not
needed is answered 1, one dropped by the full queue 5, and one posted waits, with the generation that its walk saw; an eviction of
the root is answered 3, of a pinned node 2, of a node that is not resident 1, of a resident node 0 with the new generation; of a
promoting one it waits. A split that stands alone goes on at its next word. Model choices: log 31, 32, 118, 123. -/
def Obligations.PinsAndRequests : Prop :=
  ∀ (s : State) (c : Ctl) (d a : Fld) (ac : BitVec 4),
    let e := s.t.act c
    let h := fun l => s.t.v a l
    let part := s.t.i.part
    (s.Admits (.odrop c a) [Need.v a.toNat 0] → s.Handles e h → (e ≠ 0 → s.mayAct Order.plain = true) → Answers (.odrop c a) s fun t =>
      let gone := s.t.pins.filter fun p => (lanes e).any fun l => decide ((h l).toNat = p.1)
      t.t.pins = s.t.pins.filter (fun p => !(lanes e).any fun l => decide ((h l).toNat = p.1)) ∧
      (∀ x o, s.object part x = some o → ∃ o', t.object part x = some o' ∧ o'.gen = o.gen ∧ ∀ n, n < o.nodes.length →
        o'.node n = { o.node n with pins := (o.node n).pins - gone.count (x, n) }) ∧
      t.t.r = s.t.r ∧ t.t.c.ops = (s.read e).t.c.ops ∧ SameLanes s t ∧ SameBytes s t ∧ Leaves s t (s.t.split.afterEnding 4)) ∧
    (∀ q ∈ ([(.oreqRefine c d a ac, false), (.oreqEvict c d a ac, true)] : List (Instr × Bool)),
      s.Admits q.1 [Need.v d.toNat 1, Need.v a.toNat 2] → e ≠ 0 → s.Handles e h → s.CanFetch ac.toNat →
      (q.2 = true → ∀ l ∈ lanes e, ∀ o, s.obj (h l) = some o → (s.t.vk a 2 l).toNat < o.nodes.length) →
      Answers q.1 s fun t => ∃ o ws, t.t.c.ops = s.t.c.ops ++ [o] ∧ o.work = .request d ws ∧ o.lanes = e ∧ o.counter = ac.toNat ∧
        ws.map ObjWait.lane = lanes e ∧
        (∀ w ∈ ws, w.handle = (h w.lane).toNat ∧ w.evict = q.2 ∧ (q.2 = true → w.node = (s.t.vk a 2 w.lane).toNat)) ∧
        t.t.r = s.t.r ∧ t.t.pins = s.t.pins ∧ SameLanes s t ∧ SameBytes s t ∧ Leaves s t (s.t.split.afterEnding 4) ∧
        ∀ l x p, e = laneBit l → l < 64 → s.obj (h l) = some x → s.part part = some p →
          let n := (s.t.vk a 2 l).toNat
          let w := s.walk l x (x.path (s.t.vk a 1 l)) (s.t.vk a 2 l)
          (q.2 = true → ws.map ObjWait.outcome =
            [if n = 0 then some (3, x.gen) else match (x.node n).state with
              | .promoting => none
              | .resident => if (x.node n).pins = 0 then some (0, x.gen + 1) else some (2, x.gen)
              | _ => some (1, x.gen)]) ∧
          (q.2 = false → w.2.2 = false → ws.map ObjWait.outcome = [some (1, x.gen)]) ∧
          (q.2 = false → w.2.2 = true → ∀ y, x.target (x.path (s.t.vk a 1 l)) w.2.1 (s.t.vk a 2 l) = some y →
            (x.node y).state ≠ .promoting → (x.node y).state ≠ .resident → (∀ r ∈ p.refine, (r.1, r.2.1) ≠ ((h l).toNat, y)) →
            (p.refine.length < 4096 → ws.map ObjWait.outcome = [none] ∧ ws.map ObjWait.gen = [x.gen] ∧
              (t.part part).map Part.refine = some (p.refine ++ [((h l).toNat, y, false)])) ∧
            (4096 ≤ p.refine.length → ws.map ObjWait.outcome = [some (5, x.gen)] ∧
              (t.part part).map Part.drops = some (p.drops + 1))))

/-- R15, R101, R108, R112, R159, R282, R351, R357, R358, R359, R360 and R361: An engine word of a whole split that passes its checks
queues its operation, untranslated, with its moves cut into units and the barrier it names; with `.rel` it follows the split's
earlier accesses, else those behind a fence. A split that stands alone goes on at its next word. Model choices: log 34, 36, 37, 123,
133. -/
def Obligations.EngineWords : Prop :=
  ∀ (s : State) (c : Ctl) (d a : Fld) (ac : BitVec 4) (rel : BitVec 1) (lit : Word) (barn : BitVec 4) (ob : BitVec 3) (zt lvl : BitVec 2),
    let e := s.t.act c
    let deps := if rel = 1 then s.t.unperformed.map Op.id else (s.t.unperformed.filter Op.fenced).map Op.id
    let op := fun ms bar (ob : Option Nat) => s.newOp (.engine (unitsOf ms) bar false ob) ac.toNat e deps false false none
    s.t.whole s.t.split = true → e ≠ 0 → s.t.CanQueue ac.toNat → s.t.m.lost = none →
    (∀ r bar, s.Admits (.tcopy c d a ac rel lit) [Need.s d.toNat 0, Need.s a.toNat 3] →
      s.shape s.t.i.part (lit.toNat % 65536) = some r →
      let flat := lit.toNat / 2 ^ 16 % 4
      let put := lit.getLsbD 18
      let box := s.t.box a
      let n := box.2.foldl (· * ·) r.esz
      let at_ := (s.t.s d).toNat
      let ms := s.boxMoves r r.esz flat at_ put box.1 box.2
      shapeRight r flat put = true →
      (∀ i x b, box.1[i]? = some x → box.2[i]? = some b → if i < r.rank then b ≠ 0 else b = 1 ∧ x = 0) → n ≤ 2 ^ 24 →
      (s.t.old.getS s.t.x.priv (a.toNat + 2)).toNat / 2 ^ 48 = 0 → s.flatTrap e flat at_ n = none →
      s.windowTrap e flat at_ r.esz n ms (r.boxPlaces box.1 box.2) = none → s.engineBar (lit.toNat / 2 ^ 19 % 4) (lit.toNat / 2 ^ 21 % 16) = (bar, none) →
      Answers (.tcopy c d a ac rel lit) s fun t => Queues s t (op (lastWrites ms) bar none) (s.t.split.afterEnding 8)) ∧
    (∀ q ∈ ([(.tgath c d a ac rel, false), (.tscat c d a ac rel, true)] : List (Instr × Bool)), ∀ r bar,
      s.Admits q.1 [Need.s d.toNat 1, Need.v a.toNat 0] →
      let w := s.t.rowDesc d
      let ms := ((lanes e).map fun l => s.rowMoves r w q.2 (s.t.v a l).toNat l).flatten
      w.barBad = false → w.high = 0 → s.shape s.t.i.part w.idx = some r → shapeRight r w.flat q.2 = true → w.rowLen ≠ 0 → w.stride % 16 = 0 →
      w.rowLen * r.esz ≤ w.stride → w.base % 16 = 0 →
      (∀ l ∈ lanes e, s.localFault (w.flat + 1) (w.base + l * w.stride) 1 (w.rowLen * r.esz) = none) →
      s.rowWindows e r w (fun l => (s.t.v a l).toNat) = [] → s.engineBar w.lvl w.barn = (bar, none) →
      Answers q.1 s fun t => Queues s t (op ms bar none) (s.t.split.afterEnding 4)) ∧
    (∀ q bar, s.Admits (.obld c barn ob a ac lvl rel) [Need.s a.toNat 0] → s.resv ob.toNat = some q →
      let va := (s.t.s a).toNat
      let ms : List Move := (List.range (q.imgLen / 16)).map fun i =>
        ⟨.at (s.globLoc (va + 16 * i)), some ⟨6, s.t.i.team, q.base * 1024 + 16 * i⟩, 16⟩
      va < 2 ^ 56 → va % 16 = 0 → remoteSide ms true = false → s.engineBar lvl.toNat barn.toNat = (bar, none) →
      Answers (.obld c barn ob a ac lvl rel) s fun t => Queues s t (op ms bar (some ob.toNat)) (s.t.split.afterEnding 4)) ∧
    (∀ bar, s.Admits (.zst c barn zt a ac lvl rel) [Need.v a.toNat 0, Need.z zt.toNat] →
      let ms : List Move := ((lanes e).map fun l => (List.range 8).map fun u =>
        (⟨.bytes (((List.range 4).map fun i => bytesOfNat 4 (s.t.z zt.toNat l (4 * u + i)).toNat).flatten),
          some (s.scratchLoc 1 ((s.t.v a l).toNat + 16 * u)), 16⟩ : Move)).flatten
      (∀ l ∈ lanes e, s.localFault 1 (s.t.v a l).toNat 16 128 = none) → s.t.tileBusy zt.toNat = false →
      s.engineBar lvl.toNat barn.toNat = (bar, none) →
      Answers (.zst c barn zt a ac lvl rel) s fun t => Queues s t (op ms bar none) (s.t.split.afterEnding 4))

/-- R227, R228, R231, R232, R233, R234, R235, R236 and R237: `obres` reads a record from the constant space and, where it is legal
and meets no other reservation, makes it the team's; `mma` puts the block sums of its rows into the array, or the lowest marked unit
that it reads; `zclr` puts a clear there; `zmov` moves eight elements of each row into eight registers. A split that stands alone
goes on at its next word. Model choices: log 38, 103, 123, 137. -/
def Obligations.MatrixWords : Prop :=
  ∀ (s : State) (c : Ctl) (d a b : Fld) (ob : BitVec 3) (zt grp : BitVec 2) (lit : Word),
    let e := s.t.act c
    s.t.m.lost = none → e ≠ 0 →
    (∀ u bs, s.Admits (.obres c ob lit) [] → s.t.whole s.t.split = true → s.mayAct Order.plain = true →
      (s.resv ob.toNat = none ∨ s.resvBusy ob.toNat = false) → lit.toNat % 32 = 0 → lit.toNat + 32 ≤ 65536 →
      s.readConst lit.toNat 32 = (u, some bs) →
      let q := readResv ob.toNat (natOfBytes bs)
      resvLegal (natOfBytes bs) ((s.recOf s.t).obuf / 1024) q = true →
      (∀ m r, s.myTeam = some m → r ∈ m.resv → r.num ≠ ob.toNat → overlap (r.base, r.len) (q.base, q.len) = false) →
      Answers (.obres c ob lit) s fun t => t.m = u.m ∧ t.t.r = s.t.r ∧ SameLanes s t ∧ Leaves s t (s.t.split.afterEnding 8) ∧
        t.d = { s.d with teams := s.d.teams.map fun m => if m.grid = s.t.i.grid ∧ m.idx = s.t.i.team
          then { m with resv := q :: m.resv.filter fun r => r.num != ob.toNat } else m }) ∧
    (∀ q, s.Admits (.mma c zt a b lit) [Need.z zt.toNat, Need.v a.toNat 0, Need.s b.toNat 0] → s.t.whole s.t.split = true →
      let n := lit.toNat % 8
      let kb := lit.toNat / 256 % 128
      let ch := s.channels q kb
      let mark := s.marked (q.permUnits kb)
      let unit := mark <|> s.marked (q.dataUnits kb ch)
      s.resv n = some q → 32 * (kb + 1) ≤ q.klen → s.rowChecks e a (s.t.s b) q = [] →
      (mark = none → ∀ x ∈ ch, x < q.klen) → s.mayAct Order.plain = true → s.gatherWaits e a (s.t.s b) q kb ch = false → s.t.m.mat.length + s.t.m.ice.length < 4 →
      Answers (.mma c zt a b lit) s fun t =>
        t.t.m = { s.t.m with mat := s.t.m.mat ++ [s.newMat zt.toNat e false
          (if unit.isNone = true then s.blockSums e a (s.t.s b) q kb ch else []) (some n) (unit.map fun u => 16 * u)] } ∧
        t.t.r = s.t.r ∧ t.t.c.ops = (s.read e).t.c.ops ∧ t.d = s.d ∧ SameLanes s t ∧ SameBytes s t ∧
        Leaves s t (s.t.split.afterEnding 8)) ∧
    (s.Admits (.zclr c zt) [Need.z zt.toNat] → s.t.m.mat.length + s.t.m.ice.length < 4 → Answers (.zclr c zt) s fun t =>
      t.t.m = { s.t.m with mat := s.t.m.mat ++ [s.newMat zt.toNat e true [] none none] } ∧
      t.t.r = s.t.r ∧ t.t.c.ops = s.t.c.ops ∧ t.d = s.d ∧ SameLanes s t ∧ SameBytes s t ∧ Leaves s t (s.t.split.afterEnding 4)) ∧
    (s.Admits (.zmov c d zt grp) [Need.v d.toNat 7, Need.z zt.toNat] → s.t.tileBusy zt.toNat = false → Answers (.zmov c d zt grp) s fun t =>
      (∀ n l, l < 64 → t.t.r.getV s.t.x.priv n l =
        if d.toNat ≤ n ∧ n < d.toNat + 8 ∧ e.getLsbD l = true then s.t.z zt.toNat l (8 * grp.toNat + (n - d.toNat))
        else s.t.r.getV s.t.x.priv n l) ∧ OnlyRegs s t 4)

/-- R247, R248, R249, R255, R262, R263 and R264: They read what is there at their issue, behind acquires and fences, with `.rel`
behind every earlier access of the split. A `rayq` whose set record and indexes are in order puts its rays into flight, offered to
the yard, and queues its operation. `cand` reads each lane's candidate; `cacc` keeps each lane's verdict, once. A `tex` whose
descriptor is legal and whose texels may all be read queues its reads with their weights; `texq` writes the size of the level asked
for, the number of levels and the format. A split that stands alone goes on at its next word. Model choices: log 63, 69, 72, 123,
133. -/
def Obligations.RayAndTextureWords : Prop :=
  (∀ (s : State) (c : Ctl) (d a : Fld) (ac : BitVec 4) (rel : BitVec 1),
    let e := s.t.act c
    let idx := fun l => (s.t.v a l).toNat
    (∀ u v b, s.Admits (.rayq c d a ac rel) [Need.s d.toNat 0, Need.v a.toNat 0] → e ≠ 0 → s.mayFetch (rel == 1#1) = true → s.mayAct Order.plain = true → s.t.outstanding ac.toNat < 255 →
      let at_ := (s.t.s d).toNat
      let q := readSet at_ s.t.i.part (natOfBytes (b.take 64))
      at_ % 64 = 0 → s.globalFault s.t.i.part at_ 64 rightRead false false = none → s.meetNow false (s.pieces at_ 64) = (v, none) →
      (v.act Order.plain).readWords s.t.i.part at_ 2 = (u, .ok b) → u.setOk q (natOfBytes (b.take 64)) = true →
      (∀ l ∈ lanes e, idx l < q.count ∧ s.ray at_ s.t.i.part (idx l) = none ∧ u.rayFaults q l (idx l) = [] ∧
        ∀ k ∈ lanes e, k < l → idx k ≠ idx l) →
      Answers (.rayq c d a ac rel) s fun t =>
        Queues u t (u.newOp (.rays at_ ((lanes e).map fun l => (l, idx l, none))) ac.toNat e
          [] false false none) (s.t.split.afterEnding 4) ∧
        t.y = { s.y with rays := s.y.rays ++ (lanes e).map fun l => q.ray s.t.i.grid (idx l) } ∧ t.d = s.d) ∧
    (s.Admits (.cand c d) [Need.v d.toNat 3] → s.t.y.kind = 1 → Answers (.cand c d) s fun t =>
      WritesQuad s t d.toNat e (fun l i => (s.t.cand l).getD i 0) ∧ OnlyRegs s t 4) ∧
    (s.Admits (.cand c d) [Need.v d.toNat 3] → s.t.y.kind ≠ 1 → e ≠ 0 → exec (.cand c d) s = .next (s.raise 0x29 e 0)) ∧
    (s.Admits (.cacc c a) [Need.v a.toNat 0] → s.t.y.kind = 1 →
      (∀ l ∈ lanes e, (∀ v, (l, v) ∉ s.t.y.verdicts) ∧ idx l ≤ 2) → Answers (.cacc c a) s fun t =>
        t.t.y = { s.t.y with verdicts := s.t.y.verdicts ++ (lanes e).map fun l => (l, idx l) } ∧ t.t.r = s.t.r ∧
        t = (Moved s t).onT (fun v => { v with y := t.t.y }) ∧ SameLanes s t ∧ Leaves s t (s.t.split.after 4))) ∧
  (∀ (s u w : State) (c : Ctl) (d a : Fld) (ac : BitVec 4) (rel : BitVec 1) (lit : Word) (b : List Byte),
    let e := s.t.act c
    let q := readTex (natOfBytes b)
    e ≠ 0 → texClean (natOfBytes b) = true →
    (s.Admits (.texq c d a lit) [Need.v d.toNat 3, Need.v a.toNat 0] → s.mayAct Order.plain = true →
      (s.act Order.plain).readConst lit.toNat 32 = (u, some b) → Answers (.texq c d a lit) s fun t =>
      WritesQuad u t d.toNat e (fun l i =>
        let v := min (s.t.v a l).toNat q.levels
        BitVec.ofNat 32 (match i with
          | 0 => max 1 (q.width / 2 ^ v)
          | 1 => max 1 (q.height / 2 ^ v)
          | 2 => q.levels + 1
          | _ => q.format)) ∧ OnlyRegs u t 8) ∧
    (s.Admits (.tex c d a ac rel lit) [Need.v d.toNat 3, Need.v a.toNat 2] → s.mayFetch (rel == 1#1) = true →
      s.t.outstanding ac.toNat < 255 → s.readConst lit.toNat 32 = (u, some b) →
      let texels := fun l => q.texels (s.t.v a l) (s.t.vk a 1 l) (s.t.vk a 2 l)
      (∀ l ∈ lanes e, ∀ p ∈ texels l, u.globalFault s.t.i.part p.1 (texelBytes q.format) rightRead false false = none) →
      let acc := ((lanes e).map fun l => (texels l).map fun p => u.laneAcc p.1 0 0 l).flatten
      u.linesFull (linesOf acc) = false → u.meetHomes false acc = (w, none) →
      Answers (.tex c d a ac rel lit) s fun t =>
        Queues w t
          { w.newOp (.texture q.format d ((lanes e).map fun l =>
              (l, (texels l).map fun p => (p.1, (u.m.translate s.t.i.part p.1).getD 0, p.2)))) ac.toNat e [] false false none with
            pulled := acc.any fun a => a.win.isNone && w.m.needsPull a.ua }
          (s.t.split.afterEnding 8) ∧ w.t = s.t ∧ t.d.teams = s.d.teams ∧ t.d.bars = s.d.bars ∧ t.d.grids = s.d.grids))

/-- R80, R128, R134, R144, R186, R251, R339, R340, R341 and R346: `rdst` reads a state register into the lanes or uniform register
that its form names, CYCLES as the count of its core then stands; `wrst` writes the fields that can be written; `quies` reads Q, the
least epoch of any access in flight, or E where none is. A split that stands alone goes on at its next word. Model choices: log 6.
-/
def Obligations.StateRegisterWords : Prop :=
  ∀ (s : State) (c : Ctl) (k : Bool) (d : Fld) (form : BitVec 2),
    let e := s.t.act c
    (e ≠ 0 → ∀ p ∈ ([(0x000, fun _ l => l), (0x001, fun t _ => t.i.width), (0x004, fun t _ => t.i.num), (0x006, fun t _ => t.i.team),
        (0x009, fun t _ => t.i.grid), (0x00A, fun t _ => t.core), (0x00B, fun t _ => t.i.role),
        (0x010, fun t _ => t.d.quantum.toNat), (0x012, fun t _ => t.r.fpflags.toNat), (0x020, fun t _ => t.x.now.cause.toNat),
        (0x021, fun t _ => t.x.now.lanes.toNat), (0x022, fun t _ => t.x.now.region.toNat), (0x023, fun t _ => t.x.now.pc.toNat),
        (0x024, fun t _ => (if t.x.now.mask = true then 1 else 0) + (if t.x.priv = true then 2 else 0) +
          (if t.x.preempt.isSome = true then 4 else 0)),
        (0x025, fun t _ => t.x.now.info.toNat), (0x030, fun t _ => t.x.grace.toNat)] : List (BitVec 12 × (Train → Nat → Nat))),
      let x := fun l => BitVec.ofNat 64 (p.2 s.t l)
      s.Admits (.rdst c d form p.1) (needsState form d) → Answers (.rdst c d form p.1) s fun t =>
        (match form.toNat with
         | 0 => WritesV s t d.toNat e (fun l => (x l).extractLsb' 0 32)
         | 1 => WritesVV s t d.toNat e x
         | _ => WritesS s t d.toNat true (x (lowest e))) ∧ OnlyRegs s t 4) ∧
    (e ≠ 0 → ∀ g m p, s.grid s.t.i.grid = some g → s.myTeam = some m → s.part s.t.i.part = some p →
      let reads := fun (u t : State) (x : Dword) => (match form.toNat with
         | 0 => WritesV u t d.toNat e (fun _ => x.extractLsb' 0 32)
         | 1 => WritesVV u t d.toNat e (fun _ => x)
         | _ => WritesS u t d.toNat true x) ∧ OnlyRegs u t 4
      (∀ q ∈ ([(0x005, g.launch.trains), (0x007, m.cluster), (0x008, m.rank), (0x031, p.ageLimit.toNat)] : List (BitVec 12 × Nat)),
        s.Admits (.rdst c d form q.1) (needsState form d) → Answers (.rdst c d form q.1) s fun t => reads s t (BitVec.ofNat 64 q.2)) ∧
      (s.Admits (.rdst c d form 0x018) (needsState form d) → Answers (.rdst c d form 0x018) s fun t =>
        t.d = { s.d with cores := t.d.cores } ∧ (∀ n, n ≠ s.t.core → t.core n = s.core n) ∧
        t.core s.t.core = { s.core s.t.core with cycles := (t.core s.t.core).cycles } ∧
        reads { s with d := t.d } t (t.core s.t.core).cycles)) ∧
    (e ≠ 0 → let x := s.t.stateSource form d e
      ∀ p ∈ ([(0x010, fun u => u.onT fun t => { t with d := { t.d with quantum := x.truncate 32 &&& 0xFF } }),
        (0x012, fun u => u.onT fun t => { t with r := { t.r with fpflags := x.truncate 32 &&& 0x1F } }),
        (0x023, fun u => u.onT fun t => { t with x := { t.x with now := { t.x.now with pc := x &&& 0xFF_FFFF_FFFF_FFFC } } }),
        (0x024, fun u => u.onT fun t => { t with x := { t.x with now := { t.x.now with mask := x.getLsbD 0 } } }),
        (0x030, fun u => u.onT fun t => { t with x := { t.x with grace := x.truncate 32 } }),
        (0x031, fun u => u.onPart s.t.i.part fun p => { p with ageLimit := x.truncate 32 &&& 0xFFFF }),
        (0x000, fun u => u), (0x018, fun u => u), (0x020, fun u => u)] : List (BitVec 12 × (State → State))),
      s.Admits (.wrst c d form p.1) (needsState form d) → (privilegedReg p.1.toNat = true → s.t.x.priv = true) →
      Answers (.wrst c d form p.1) s fun t =>
        t = Moved (p.2 s) t ∧ t.t.d.quantum = (p.2 s).t.d.quantum ∧ t.t.d.exited = s.t.d.exited ∧ Leaves (p.2 s) t (s.t.split.after 4)) ∧
    (s.Admits (.quies k d) [Need.s d.toNat 0] → s.t.x.priv = true → Answers (.quies k d) s fun t =>
      WritesS s t d.toNat true (BitVec.ofNat 64 s.quiescence) ∧ OnlyRegs s t 4 ∧
      s.quiescence ≤ s.m.epoch ∧ (∀ v ∈ s.trains, ∀ o ∈ v.c.ops, o.inFlight = true → s.quiescence ≤ o.epoch) ∧
      (s.quiescence = s.m.epoch ∨ ∃ v ∈ s.trains, ∃ o ∈ v.c.ops, o.inFlight = true ∧ o.epoch = s.quiescence))

/-- R123, R159, R363 and R364: `spawn` reads a launch record once its split's accesses are performed and, where the checks of a
launch pass, takes the next sequence number for a queued grid of its partition and writes it to sd; a refusal writes 2^63 plus the
status. `svc` suspends its split with its code, and once the service has replied writes sd and goes on; guarded off it only goes on.
Model choices: log 51, 77, 123. -/
def Obligations.ServiceWords : Prop :=
  ∀ (s : State) (c : Ctl) (d a : Fld) (queue : BitVec 4) (code : BitVec 14),
    (∀ u v b, s.Admits (.spawn c d a queue) [Need.s d.toNat 0, Need.s a.toNat 0] → s.t.whole s.t.split = true → s.t.act c ≠ 0 →
      s.recordFault (s.t.act c) s.t.i.part (s.t.s a).toNat = none → s.t.unperformed = [] → s.mayAct Order.plain = true →
      s.meetNow false (s.pieces (s.t.s a).toNat 160) = (v, none) →
      (v.act Order.plain).readWords s.t.i.part (s.t.s a).toNat 5 = (u, .ok b) →
      let bits := natOfBytes (b.take 160)
      let st := u.checkLaunch s.t.i.part queue.toNat bits
      (st = 0 → Answers (.spawn c d a queue) s fun t =>
        WritesS s t d.toNat true (BitVec.ofNat 64 s.q.nextSeq) ∧ t.q.nextSeq = s.q.nextSeq + 1 ∧ t.m = u.m ∧ SameLanes s t ∧
        Leaves s t (s.t.split.afterEnding 4) ∧
        ∃ g, t.d = { s.d with grids := s.d.grids ++ [g] } ∧ g.seq = s.q.nextSeq ∧ g.part = s.t.i.part ∧ g.queue = queue.toNat ∧
          g.launch = readLaunch bits ∧ g.life = .queued ∧ g.parent = none) ∧
      (st ≠ 0 → Answers (.spawn c d a queue) s fun t =>
        WritesS s t d.toNat true (BitVec.ofNat 64 (2 ^ 63 + st)) ∧ t.q = s.q ∧ t.d = s.d ∧ t.m = u.m ∧ SameLanes s t ∧
        Leaves s t (s.t.split.afterEnding 4))) ∧
    (s.Admits (.svc c d code) [Need.s d.toNat 0] → s.t.Lone →
      (s.t.act c = 0 → exec (.svc c d code) s =
        .next (Next s { s.t.split with pc := s.t.split.pc + 4, region := s.t.split.pc + 4, count := s.t.split.count + 1 })) ∧
      (s.t.act c ≠ 0 → s.t.split.answer = none → exec (.svc c d code) s =
        .next (s.onT fun t => t.setSplit { t.split with asleep := true, asked := some code.toNat, answer := none })) ∧
      (∀ x, s.t.act c ≠ 0 → s.t.split.answer = some x → Answers (.svc c d code) s fun t =>
        WritesS s t d.toNat true x ∧ t.t.split = { s.t.split with
          pc := s.t.split.pc + 4, region := s.t.split.pc + 4, count := s.t.split.count + 1, asleep := false, asked := none, answer := none } ∧ t.m = s.m ∧ t.d = s.d ∧ SameLanes s t))

/-- R183, R185, R188 and R342: A return of an entry that is no pre-emption leaves the handler: the latches, the flags and the mode
are those that entry froze, MASK too, and one frozen state less stands. A record's split goes on at TRAPPC, or with `.replay` at
TRAPREGION; after a late record plain `eret` leaves it where it stands. -/
def Obligations.HandlerReturns : Prop :=
  ∀ (s : State) (k : Bool) (f : Frozen) (rest : List Frozen),
    let now := s.t.x.now
    s.t.x.priv = true → s.t.x.frozen = f :: rest → s.t.d.depth = f.depth → now.cause.toNat % 256 ≠ 0x22 →
    (s.t.x.resume = true → s.t.x.restored = true) → s.eretWaits = false → f.priv = false → rest = [] → f.depth = 0 →
    f.slot1.mask = 0 → f.slot1.recs = [] → f.slot0.mask ≠ 0 → f.slot0.mask &&& s.t.d.exited = 0 → f.slot0.recs = [] → f.slot0.held = false →
    f.slot0.asleep = false → f.cur = false → now.cause.toNat / 2 ^ 16 % 4 = 0 →
    ∀ p ∈ ([(.eret k, false), (.eretReplay k, true)] : List (Instr × Bool)), s.Admits p.1 [] →
    (p.2 = true → f.slot0.count.toNat = now.cause.toNat / 2 ^ 32) →
      Answers p.1 s fun t =>
        t.t.r = { s.t.r with g0 := f.g0, g1 := f.g1, fpflags := f.fpflags } ∧
        t.t.x.priv = false ∧ t.t.x.frozen = [] ∧ t.t.x.now = { now with mask := f.mask } ∧
        t.t.d.depth = 0 ∧ t.t.d.cur = false ∧ t.t.d.exited = s.t.d.exited ∧ t.t.d.slot1.mask = 0 ∧
        t.t.d.slot0 = (if p.2 = true then { f.slot0 with pc := now.region, sync := none, half := none, parked := none }
          else if now.cause.getLsbD 9 = true then f.slot0 else { f.slot0 with pc := now.pc, sync := none, half := none, parked := none }) ∧
        t.t.c.ops = s.t.c.ops ∧ t.t.priv = s.t.priv ∧ t.m = s.m ∧ t.d = s.d

/-- R195, R196, R199, R238, R344 and R368: In a handler `csave` keeps the context and writes its image, and a second one in the same
entry the same image again; the trap registers in it are those that the entry wrote; `crest` of a resume entry loads that context,
and the saved stores issue again in their order, each once all its granules have been met, or parks whole; `zsave` writes its image
and keeps the frozen matrix operations; `zload` takes them back, or owes *matrix lost* when MATRIXGEN has moved on. Model choices:
log 41, 42, 43, 45, 49, 100, 123. -/
def Obligations.ContextWords : Prop :=
  ∀ (s : State) (k : Bool) (a : Fld), s.t.x.priv = true →
    let va := (s.t.s a).toNat
    let part := s.t.i.part
    let gen := (s.myTeam.map Team.matrixGen).getD 0
    (∀ m, s.Admits (.csave k) [] → s.csaveWaits = false → s.myTeam = some m → Answers (.csave k) s fun t =>
      t.t.r = s.t.r ∧ t.t.c.ops = s.t.c.ops ∧ SameLanes s t ∧ Leaves s t (s.t.split.after 4) ∧
      (let made := if s.t.x.saved = true then s.t.x.savedAt else s.tick
       t.m = s.m.deviceWrite part (m.area + 0x10000 + 0x10000 * s.t.i.num)
         (saveHeader csaveLength 0 ++ (List.range (csaveLength - 64)).map fun i => Config.imageByte made i)) ∧
      (s.t.x.saved = true → t.t.x = s.t.x) ∧
      (s.t.x.saved = false → t.t.x = { s.t.x with saved := true, savedAt := s.tick, context := t.t.x.context } ∧
        ∃ x, t.t.x.context = some x ∧ x.frozen = s.t.x.frozen ∧ x.siding = s.t.d.siding ∧ x.err = s.t.c.err ∧ x.pins = s.t.pins ∧
        x.quantum = s.t.d.quantum ∧ x.grace = s.t.x.grace ∧ x.trap = s.t.x.entry ∧ x.gen = gen ∧
        (∀ n l, 120 ≤ n → l < 64 → Table.get 0 x.v (n * 64 + l) = Table.get 0 s.t.r.v (n * 64 + l)) ∧
        (∀ n, 56 ≤ n → Table.get 0 x.s n = Table.get 0 s.t.r.s n) ∧ ∀ n, 120 ≤ n → Table.get 0 x.p n = Table.get 0 s.t.r.p n)) ∧
    (∀ x w again, s.Admits (.crest k) [] → s.t.x.resume = true → s.t.storing = false →
      let u := s.meetImages
      s.t.x.context = some x → u.imagesBad = false → u.reissueAll s.t.x.stores = (w, again) →
      (∀ o ∈ w.t.c.ops ++ again, o.done = false) → w.t.group = none → w.t.life = .running → Answers (.crest k) s fun t =>
        t.t.x = { w.t.x with frozen := x.frozen, now := x.trap, grace := x.grace, restored := true, stores := [] } ∧
        t.t.d.quantum = x.quantum ∧ t.t.c.err = x.err ∧ t.t.c.ops = w.t.c.ops ++ again ∧
        (∀ p, p ∈ t.t.pins ↔ p ∈ x.pins) ∧ t.t.d.exited = w.t.d.exited ∧ t.m = w.m ∧ t.d = w.d) ∧
    (∀ (u : State) (o : Op) (os : List Op), u.reissueAll [] = (u, []) ∧
      (let v := u.reissueMet o
       u.reissueAll (o :: os) = ((v.1.reissueAll os).1, v.2 :: (v.1.reissueAll os).2)) ∧
      ((u.reissue o).done = true → u.reissueMet o = (u, u.reissue o)) ∧
      ((u.reissue o).done = false → ∀ v ok, u.meetPlaces (u.reissue o).homes = (v, ok) → ∃ r, u.reissueMet o = (v, r) ∧
        r.parked = !ok ∧ r.work = (u.reissue o).work ∧ r.epoch = u.m.epoch ∧ r.lanes = o.lanes ∧ r.counter = o.counter)) ∧
    (∀ u, s.Admits (.zsave k a) [Need.s a.toNat 0] → s.mayAct Order.plain = true →
      let n := zLength s.t.m.ice.length
      let image := zHeader n s.t.m.ice.length gen ++ (List.range (n - 64)).map fun i => Config.imageByte s.tick i
      s.imageTrap va n rightWrite = none → s.meetNow true (s.pieces va n) = (u, none) → Answers (.zsave k a) s fun t =>
        t.t.m = { s.t.m with ice := [] } ∧ t.t.r = s.t.r ∧ SameLanes s t ∧ Leaves s t (s.t.split.after 4) ∧
        t.t.x = { s.t.x with zsaved := true, images := ⟨image, s.t.m.ice⟩ :: s.t.x.images } ∧ t.m = u.m.deviceWriteRun part va image) ∧
    (∀ u v b, s.Admits (.zload k a) [Need.s a.toNat 0] → s.mayAct Order.plain = true →
      s.imageTrap va 64 rightRead = none → s.meetNow false (s.pieces va 64) = (v, none) → (v.act Order.plain).readWords part va 2 = (u, .ok b) →
      let head := natOfBytes (b.take 64)
      zHeaderBad head = false →
      let n := head / 2 ^ 96 % 2 ^ 32
      (head / 2 ^ 64 % 2 ^ 32 = gen.toNat → head / 2 ^ 16 % 2 = 1 → Answers (.zload k a) s fun t =>
        t.t.m = { s.t.m with ice := [] } ∧ t.t.r = s.t.r ∧ t.m = u.m ∧ t.d = s.d ∧ SameLanes s t ∧ Leaves s t (s.t.split.after 4)) ∧
      (∀ x w image, head / 2 ^ 64 % 2 ^ 32 = gen.toNat → head / 2 ^ 16 % 2 = 0 → u.imageTrap va n rightRead = none →
        u.mayAct Order.plain = true → u.meetNow false (u.pieces va n) = (x, none) → (x.act Order.plain).readWords part va ((n + 31) / 32) = (w, .ok image) → Answers (.zload k a) s fun t =>
          t.t.m = { s.t.m with ice := t.t.m.ice } ∧ t.t.r = s.t.r ∧ t.m = w.m ∧ t.d = s.d ∧ SameLanes s t ∧
          Leaves s t (s.t.split.after 4) ∧ ∀ i, s.t.x.images.find? (fun i => i.bytes == image.take n) = some i → t.t.m.ice = i.ops) ∧
      (head / 2 ^ 64 % 2 ^ 32 ≠ gen.toNat → Answers (.zload k a) s fun t =>
        t.t.m = { s.t.m with ice := [], lost := some 1 } ∧ t.t.r = s.t.r ∧ t.m = u.m ∧ t.d = s.d ∧ SameLanes s t ∧
        Leaves s t (s.t.split.after 4)))

/-- R13, R20, R26, R28, R30, R33, R34 and R35: A malformed header is answered 0x01, a partition whose client the endpoint is not
0x02, a management request that does not come by the management port 0x02, an unknown kind 0x01; a request by a port that carries no
traffic is not heard; in the red-signal state the management port alone is heard, and what it asks but for `query` and `attest` is
answered 0x08. Nothing else changes, but that a request which had waited waits no more. Model choices: log 87, 107, 140. -/
def Obligations.RequestChecks : Prop :=
  ∀ (s : State) (r : Req) (image bytes : List Byte) (m : MapBody) (x y : Dword) (ns : List Nat) (n k seq : Nat) (item : QueryItem)
    (b : PartBody) (c : CatalogueImage),
    let partition : List (Instr × Nat × Bool) := [(.loadImage r image, 0x01, true), (.map r m, 0x02, true), (.unmap r x y, 0x03, false),
      (.copyIn r x y ns bytes, 0x04, false), (.copyOut r x y ns, 0x05, false), (.launch r n x k, 0x06, true),
      (.waitForEvent r seq n, 0x07, false), (.query r item, 0x08, false), (.resumeContext r x n, 0x0B, true)]
    let management : List (Instr × Nat × Bool) := [(.partitionCreate r b, 0x0A, false), (.partitionDestroy r n, 0x0A, false),
      (.catalogue r k c, 0x0C, false)]
    let others : List (Instr × Nat × Bool) := [(.attest r bytes, 0x09, false), (.unknownKindRequest r k, k, false)]
    let told := fun (i : Instr × Nat × Bool) (status : Nat) =>
      let u := s.answer { r with kind := i.2.1 } status
      if i.2.2 = true then u.unpark i.1 else u
    (s.portRuns r.port = false → ∀ i ∈ partition ++ management ++ others, exec i.1 s = .next s) ∧
    (s.k.phase = .accepting → s.portRuns r.port = true → malformed r = true →
      ∀ i ∈ partition ++ management ++ others, exec i.1 s = .next (told i 0x01)) ∧
    (s.Hears r →
      ((∀ p, s.part r.part = some p → r.endpoint ∉ p.clients) → ∀ i ∈ partition, exec i.1 s = .next (told i 0x02)) ∧
      (r.port ≠ 8 → ∀ i ∈ management, exec i.1 s = .next (told i 0x02)) ∧
      exec (.unknownKindRequest r k) s = .next (s.answer { r with kind := k } 0x01)) ∧
    (s.k.phase = .redSignal → (s.portRuns r.port = true ↔ r.port = 8) ∧
      (r.port = 8 → (∀ i ∈ partition ++ management, i.1 ≠ .query r item → exec i.1 s = .next (told i 0x08)) ∧
        exec (.unknownKindRequest r k) s = .next (s.answer { r with kind := k } 0x08)))

/-- R15, R27, R29, R64, R65 and R80: An accepted map request adds one mapping with its rights and page size, or one window entry,
and no byte of the space already mapped changes its place; an accepted unmap leaves nothing mapped in its range, everything outside
where it was, and the epoch higher by 1. Model choices: log 16, 23, 24, 25, 78, 109. -/
def Obligations.MappingRequests : Prop :=
  ∀ (s : State) (r : Req) (addr len : Dword), s.Serves r →
    (∀ attrs a, readAttrs attrs = some a → s.mapsInto r.part addr.toNat len.toNat a.page = true → len ≠ 0 →
      s.sharesFit r.part (len.toNat / 65536) = true → (if a.hint = 2 then s.pinsFit r.part (len.toNat / 65536) = true else
        s.k.flashFull = false) →
      len.toNat / 65536 ≤ s.freeFrames r.part + (if a.hint = 2 then 0 else s.deepRoom r.part) →
      ∃ t, exec (.map r (.pages addr len attrs)) s = .next t ∧
        Replies s t r 0x02 0x00 [] [] ∧ t.t = s.t ∧ t.rest = s.rest ∧ t.d = s.d ∧ t.k = s.k ∧ t.m.epoch = s.m.epoch ∧
        ∃ ua, t.m.maps = s.m.maps ++ [⟨r.part, addr.toNat, len.toNat, ua, a.page, a.rights, a.tolerant, a.subst,
            decide (a.hint = 2), false, false⟩] ∧
          ∀ x, (x < ua ∨ ua + len.toNat ≤ x) → Table.get 0 t.m.mem x = Table.get 0 s.m.mem x) ∧
    (∀ peer theirs rights p, s.mapsInto r.part addr.toNat len.toNat 65536 = true → len ≠ 0 → s.part r.part = some p →
      (s.windowsOf r.part < p.windows → ∃ t, exec (.map r (.window addr len peer theirs rights)) s = .next t ∧
        ∃ n, Replies s t r 0x02 0x00 [] [] ∧
          t.k = { s.k with windows := s.k.windows ++ [⟨s.k.nextWindow, n, r.part, addr.toNat, len.toNat, peer, theirs, rights.toNat⟩],
                           nextWindow := s.k.nextWindow + 1 } ∧
          t.m = s.m ∧ t.d = s.d ∧ t.t = s.t) ∧
      (p.windows ≤ s.windowsOf r.part → exec (.map r (.window addr len peer theirs rights)) s =
        .next ((s.answer { r with kind := 0x02 } 0x03).unpark (.map r (.window addr len peer theirs rights))))) ∧
    (addr.toNat % 65536 = 0 → len.toNat % 65536 = 0 → s.unmapsCleanly r.part addr.toNat len.toNat = true →
      ∃ t, exec (.unmap r addr len) s = .next t ∧
        Replies s t r 0x03 0x00 [] [] ∧ t.m.epoch = s.m.epoch + 1 ∧ t.m.mem = s.m.mem ∧ t.t = s.t ∧ t.rest = s.rest ∧ t.d = s.d ∧
        (∀ va, addr.toNat ≤ va → va < addr.toNat + len.toNat → t.m.mapping r.part va = none ∧ t.window r.part va = none) ∧
        ∀ part va, (part ≠ r.part ∨ va < addr.toNat ∨ addr.toNat + len.toNat ≤ va) →
          t.m.translate part va = s.m.translate part va ∧ t.window part va = s.window part va) ∧
    (addr.toNat % 65536 ≠ 0 ∨ len.toNat % 65536 ≠ 0 → exec (.unmap r addr len) s = .next (s.answer { r with kind := 0x03 } 0x01))

/-- R27, R28, R365 and R366: An accepted copy is given the next sequence number; when its last chunk has been performed its bytes
stand in memory, or in the reply to its copy out, and its event is complete. A wait reports a complete event and frees its entry,
and waits for one that is not; its time limit is answered 0x07. Model choices: log 5, 74, 76. -/
def Obligations.CopiesAndWaits : Prop :=
  ∀ (s : State) (r : Req) (addr len : Dword) (after : List Nat) (data : List Byte) (seq ms : Nat),
    (s.Serves r → s.q.events.length < Config.eventEntries →
      (data.length = len.toNat → s.copyBad r.part addr.toNat len.toNat after rightWrite = false →
        Answers (.copyIn r addr len after data) s fun t =>
          Replies s t r 0x04 0x00 [s.q.nextSeq] [] ∧ GivesNumber s t r.part ∧ t.m = s.m ∧ t.d = s.d ∧ t.t = s.t ∧
          ∃ c, t.q.copies = s.q.copies ++ [c] ∧ c.seq = s.q.nextSeq ∧ c.addr = addr.toNat ∧ c.len = len.toNat ∧ c.after = after ∧
            c.out = false ∧ Table.getList 0 c.data 0 data.length = data) ∧
      (s.copyBad r.part addr.toNat len.toNat after rightRead = false → Answers (.copyOut r addr len after) s fun t =>
        t.q.replies = s.q.replies ∧ GivesNumber s t r.part ∧ t.m = s.m ∧ t.d = s.d ∧ t.t = s.t ∧
        ∃ c, t.q.copies = s.q.copies ++ [c] ∧ c.seq = s.q.nextSeq ∧ c.addr = addr.toNat ∧ c.len = len.toNat ∧ c.out = true)) ∧
    (∀ c ua e, s.subject.a = c.seq → (s.q.copies.find? fun o => o.seq = c.seq) = some c → (∀ a ∈ c.after, a = 0 ∨ s.completed a = true) →
      c.left = [0] → 0 < c.len → c.addr % 256 + c.len ≤ 256 → s.subject.b = 0 → c.bad = none →
      s.copyMay c.part c.addr (if c.out = true then rightRead else rightWrite) = true → s.m.translate c.part c.addr = some ua →
      ua % 65536 = c.addr % 65536 → s.servable ua (!c.out) = true → s.m.dormant ua = false →
      (∀ w ∈ eccWords ua c.len, w ∉ s.m.poison ∧ w ∉ s.m.latent) →
      (s.q.events.find? fun o => o.seq = c.seq) = some e → (∀ w ∈ s.q.waiting, w.seq ≠ c.seq) → Answers .copyPerform s fun t =>
        t.q.copies = s.q.copies.filter (fun o => o.seq != c.seq) ∧
        (t.q.events.find? fun o => o.seq = c.seq) = some { e with status := some 0x00, addr := none } ∧
        (∀ x, Table.get 0 t.m.mem x = if c.out = false ∧ ua ≤ x ∧ x < ua + c.len then Table.get 0 c.data (x - ua)
          else Table.get 0 s.m.mem x) ∧
        t.q.replies = s.q.replies ++ (if c.out = true then [⟨c.reqid, 0x05, c.part, c.endpoint, 0x00, [c.seq],
          (List.range c.len).map fun i => Table.get 0 s.m.mem (ua + i)⟩] else [])) ∧
    (s.Serves r → 0 < seq → seq < s.q.nextSeq → (seq, r.part) ∈ s.q.issuedBy →
      ∀ e, (s.q.events.find? fun o => o.seq = seq) = some e →
        (∀ st, e.status = some st → Answers (.waitForEvent r seq ms) s fun t =>
          Replies s t r 0x07 st (st :: e.addr.toList) [] ∧ t.q.events = s.q.events.filter (fun o => o.seq != seq) ∧ t.m = s.m ∧ t.d = s.d) ∧
        (e.status = none → Answers (.waitForEvent r seq ms) s fun t =>
          t = { s with q := { s.q with waiting := s.q.waiting ++ [⟨r.reqid, r.endpoint, r.part, seq⟩] } })) ∧
    (∀ w, (s.q.waiting.find? fun o => decide (o.reqid.toNat = s.subject.a) && decide (o.endpoint = s.subject.b)) = some w →
      Answers .waitTimeLimit s fun t =>
        Replies s t w.req 0x07 0x07 [] [] ∧ t.q.events = s.q.events ∧ t.d = s.d ∧ t.m = s.m ∧
        t.q.waiting = s.q.waiting.eraseP fun o => decide (o.reqid.toNat = s.subject.a) && decide (o.endpoint = s.subject.b))

/-- R53, R54, R55, R56, R90, R123, R124, R200, R201 and R367: A launch that passes its checks takes the next sequence number and a
place in its queue, and one that does not is answered with the status of the check; it waits while its record's lines are still to
come. An image that passes is loaded whole: its entry, objects and shapes stand, and its event is complete; one that no format pass
accepts is answered 0x01 with the first failure's kind and number, one for which a table or share is full 0x03, and one for which
frames are still held waits. A wholly vacated grid that is resumed belongs to the target, and its trains keep their pins, and no new
descriptor is written for it before it has been placed; in its own partition nothing of its trains changes. Model choices: log 51,
77, 79, 80, 86, 105, 125, 128, 141, 142. -/
def Obligations.LaunchesAndLoads : Prop :=
  ∀ (s : State) (r : Req) (n queue : Nat) (at_ : Dword) (image : List Byte), s.Serves r →
    (∀ u w, (∃ i ∈ s.q.images, i.part = r.part ∧ i.num = n) → queue ≤ 15 → s.recordFault 0 r.part at_.toNat = none →
      s.serviceRead r.part at_.toNat 5 = (u, w) → let i := Instr.launch r n at_ queue
      (w = none → exec i s = .next (u.park i)) ∧ ∀ b, w = some b →
      let v := natOfBytes b
      let st := u.checkLaunch r.part queue v
      (st = 0 → Answers i s fun t =>
        Replies s t r 0x06 0x00 [s.q.nextSeq] [] ∧ GivesNumber s t r.part ∧ t.m = u.m ∧ t.t = s.t ∧
        ∃ g, t.d = { s.d with grids := s.d.grids ++ [g] } ∧ g.seq = s.q.nextSeq ∧ g.part = r.part ∧ g.queue = queue ∧ g.image = n ∧
          g.launch = readLaunch v ∧ g.life = .queued ∧ g.dealt = 0 ∧ g.error = false) ∧
      (st ≠ 0 → exec i s = .next ((u.answer { r with kind := 0x06 } st).unpark i))) ∧
    (∀ x, s.readImage r.part image = .ok x → s.imageLacks r.part x = none → x.bad = none →
      s.imageFits r.part x = true → (∀ e ∈ s.q.events, e.seq ≠ s.q.nextSeq) →
      (∀ w ∈ s.q.waiting, w.seq ≠ s.q.nextSeq) → Answers (.loadImage r image) s fun t =>
        Replies s t r 0x01 0x00 [s.q.nextImage, s.q.nextSeq] [] ∧ t.q.nextImage = s.q.nextImage + 1 ∧ t.q.nextSeq = s.q.nextSeq + 1 ∧
        (∃ gs, gs.length = x.tableGranules ∧ t.q.images = s.q.images ++ [x.image s.q.nextImage r.part s.q.nextSeq gs]) ∧
        t.o.shapes = s.o.shapes ++ x.shapes ∧
        (∃ objects, t.o.objects = s.o.objects ++ objects ∧ ∀ o ∈ objects, o.part = r.part ∧ o.gen = 1 ∧ o.shortfalls = 0 ∧ o.hits = 0) ∧
        t.q.events = s.q.events ++ [⟨s.q.nextSeq, r.part, some 0x00, none⟩] ∧ t.t = s.t ∧ t.d = s.d) ∧
    (∀ e, s.readImage r.part image = .error e → Answers (.loadImage r image) s fun t =>
      Replies s t r 0x01 0x01 [e.1, e.2] [] ∧ t.q.images = s.q.images ∧ t.m = s.m ∧ t.o = s.o) ∧
    (∀ x full, s.readImage r.part image = .ok x → s.imageLacks r.part x = some full → Answers (.loadImage r image) s fun t =>
      Replies s t r 0x01 0x03 [full] [] ∧ t.q.images = s.q.images ∧ t.m = s.m ∧ t.o = s.o) ∧
    (∀ x, s.readImage r.part image = .ok x → s.imageLacks r.part x = none → x.bad = none → s.imageFits r.part x = false →
      Answers (.loadImage r image) s fun t => t = s.park (.loadImage r image)) ∧
    (∀ d p g, (s.q.descs.find? fun e => e.addr = at_.toNat) = some d → d.state = 1 → d.version = Config.saveVersion →
      d.part = r.part → s.part n = some p → s.grid d.seq = some g → g.part = d.part → s.placeable p g.launch = true → (n ≠ d.part → s.pinsFit n (d.bytes / 65536) = true) →
      s.q.events.length < Config.eventEntries → (n ≠ d.part → d.bytes / 65536 ≤ s.freeFrames n) →
      (∀ w ∈ s.q.waiting, w.seq ≠ s.q.nextSeq) → Answers (.resumeContext r at_ n) s fun t =>
        Replies s t r 0x0B 0x00 [s.q.nextSeq] [] ∧ t.q.nextSeq = s.q.nextSeq + 1 ∧ t.grid d.seq = some { g with part := n, resumed := true } ∧
        (t.q.descs.find? fun e => e.addr = at_.toNat) = some { d with state := 2 } ∧
        (n = d.part → t.t = s.t ∧ t.rest = s.rest) ∧
        (n ≠ d.part → ∀ v ∈ t.trains, v.i.grid = d.seq → v.i.id ≠ 0 → ∃ u ∈ s.trains, v = u.moved n ∧
          ∀ p ∈ u.pins, u.i.part ≠ n → (u.i.part, p) ∈ v.kept))

/-- R13, R27, R30, R35, R36 and R97: Every query is answered. One of an object answers its five figures and, when asked, sets its
counts to 0 in the same step; one of a port answers whether it is down and what it has dropped; one of an item that is not there is
a bad request. An attestation holds the nonce; a partition created has its share under the lowest free number, and its cores the
images it chose; one destroyed is gone with its grids, trains and mappings, and the others stand; a catalogue image whose header is
clean is kept under the lowest free number from 4 when its signature holds, and answered 0x05 when it does not. Model choices: log
82, 83, 85, 102, 111, 112, 134, 141. -/
def Obligations.ManagementRequests : Prop :=
  ∀ (s : State) (r : Req),
    (s.Serves r →
      (∀ item, ∃ t, exec (.query r item) s = .next t ∧ t.m = s.m ∧ t.t = s.t ∧ t.d.grids = s.d.grids ∧
        ∃ u vs bs, s.queryItem r.part item = (u, vs) ∧
          ((vs = none ∧ Replies s t r 0x08 0x01 [] []) ∨ (vs = some bs ∧ Replies s t r 0x08 0x00 bs.1 bs.2))) ∧
      (∀ h clear o, s.object r.part h.toNat = some o → ∃ t, exec (.query r (.object h clear)) s = .next t ∧
        Replies s t r 0x08 0x00 [o.shortfalls, o.hits, o.gen, (o.nodes.filter fun n => n.state = .resident).length,
          ((s.part o.part).map Part.drops).getD 0] [] ∧
        t.object r.part h.toNat = some (if clear = true then { o with shortfalls := 0, hits := 0 } else o) ∧ t.m = s.m ∧ t.d = s.d) ∧
      (∀ n, ∃ t, exec (.query r (.port n)) s = .next t ∧ ∃ more, Replies s t r 0x08 0x00
        ((if portDown s.k.selfTest n = true then 1 else 0) :: Table.get 0 s.k.dropped n :: more) [])) ∧
    (∀ nonce, s.Hears r →
      (nonce.length = 32 → ∃ t, exec (.attest r nonce) s = .next t ∧
        (∃ a b, Replies s t r 0x09 0x00 [] (a ++ nonce ++ b)) ∧ t.m = s.m ∧ t.d = s.d ∧ t.k = s.k) ∧
      (nonce.length ≠ 32 → exec (.attest r nonce) s = .next (s.answer { r with kind := 0x09 } 0x01))) ∧
    (s.Hears r → r.port = 8 →
      (∀ b x y z n, s.catalogueChoice 1 b.traversal = some x → s.catalogueChoice 2 b.sampler = some y →
        s.catalogueChoice 3 b.walker = some z → 0 < b.w → 0 < b.h → b.x + b.w ≤ 16 → b.y + b.h ≤ 16 → b.clients.length ≤ 16 →
        n < 8 → s.part n = none → (∀ k < n, (s.part k).isSome = true) → (∀ p ∈ s.q.parts, p.overlaps b = false) →
        s.sharesExceed b = false → ∃ t, exec (.partitionCreate r b) s = .next t ∧
          Replies s t r 0x0A 0x00 [n] [] ∧ t.m = s.m ∧ t.d = { s.d with cores := t.d.cores } ∧
          (∀ cx cy, b.x ≤ cx → cx < b.x + b.w → b.y ≤ cy → cy < b.y + b.h → (t.core (cx + 16 * cy)).stores = [x, y, z]) ∧
          ∃ p, t.q.parts = s.q.parts ++ [p] ∧ p.num = n ∧ (p.x, p.y, p.w, p.h) = (b.x, b.y, b.w, b.h) ∧
            (p.hbm, p.deep, p.windows) = (b.hbm, b.deep, b.windows) ∧ p.clients = b.clients ∧ p.cats = [x, y, z] ∧ p.ageLimit = 64) ∧
      (∀ part, (s.part part).isSome = true → ∃ t, exec (.partitionDestroy r part) s = .next t ∧
        t.q.replies.getLast? = some ⟨r.reqid, 0x0A, r.part, r.endpoint, 0x00, [part], []⟩ ∧ t.part part = none ∧
        (∀ other, other ≠ part → t.part other = s.part other) ∧ t.m.maps = s.m.maps.filter (fun p => p.part != part) ∧
        t.d.grids = s.d.grids.filter (fun g => g.part != part) ∧ (∀ v ∈ t.trains, v.i.part = part → v.i.id = 0) ∧
        t.k.windows = s.k.windows.filter (fun w => w.part != part) ∧
        t.q.images = s.q.images.filter (fun i => i.part != part) ∧ t.m.mem = s.m.mem) ∧
      (∀ kind c i, 1 ≤ kind → kind ≤ 3 → c.reserved = 0 → c.kind = kind → i < 60 →
        (∀ e ∈ s.k.catalogue, e.num ≠ i + 4) → (∀ j < i, ∃ e ∈ s.k.catalogue, e.num = j + 4) →
        ∃ t, exec (.catalogue r kind c) s = .next t ∧ t.m = s.m ∧
          (Config.signatureValid c.bytes c.signature = true → Replies s t r 0x0C 0x00 [i + 4] [] ∧
            t.k = { s.k with catalogue := s.k.catalogue ++ [⟨i + 4, kind, c.version, c.bytes⟩] }) ∧
          (Config.signatureValid c.bytes c.signature = false → Replies s t r 0x0C 0x05 [] [] ∧ t.k = s.k)))

/-- R14, R21, R22, R23, R24, R31, R32, R33, R34, R73 and R79: Bring-up ends in the accepting phase exactly when no test found an
irrecoverable failure, else in the red-signal state, whose responder is the lowest service core of base die 0 that passed, or in the
dark one where none runs; the indicator is on in both. From a module without power it begins with a device that holds nothing.
Without power nothing survives but what is still to come from outside. A grant request within its client's largest grant is granted
while the budget covers it, waits under a throttle, and otherwise waits while every client above its floor is asked for its excess;
what a reclaimed client returns is granted no more. The throttle withdraws every grant. A forced refresh, a packet dropped at a port
that runs and a retired block each count. Model choices: log 27, 28, 88, 90, 92, 93, 95. -/
def Obligations.PhasesAndPower : Prop :=
  (∀ (s : State) (f : SelfTest),
    let good := f.imageVerified = true ∧ f.serviceCores = [] ∧ (∀ a ∈ f.cores, ∀ b ∈ f.cores, a.1 = b.1 → a.2 = b.2) ∧
      (∀ x, ((f.channels.filter fun c => c.1 = x).map Prod.snd).eraseDups.length ≤ 4) ∧ f.meshLinks = [] ∧ f.flashOk = true ∧ f.management = true
    let alone := f.management = false ∨ ∀ n < 4, n ∈ f.serviceCores
    ((s.k.phase = .comingUp ∨ s.k.phase = .off) → Answers (.bringUp f) s fun t =>
      (t.k.phase = .accepting ↔ good) ∧ (t.k.phase = .dark ↔ ¬good ∧ alone) ∧ (t.k.phase = .redSignal ↔ ¬good ∧ ¬alone) ∧
      (t.k.indicator = true ↔ ¬good) ∧ (good → t.k.selfTest = f) ∧ t.k.selfTest.serviceCores = f.serviceCores ∧
      (t.k.phase = .redSignal → ∃ n < 4, t.k.responder = some n ∧ n ∉ f.serviceCores ∧ ∀ m < n, m ∈ f.serviceCores) ∧
      (let u := if s.k.phase = .off then { State.reset with agenda := s.agenda, tick := s.tick } else s
       t = { u with k := { u.k with phase := t.k.phase, indicator := t.k.indicator, selfTest := t.k.selfTest, spares := t.k.spares,
                                    responder := t.k.responder, spareBlocks := t.k.spareBlocks } })) ∧
    (s.k.phase ≠ .comingUp → s.k.phase ≠ .off → exec (.bringUp f) s = .next s) ∧
    (∀ i ∈ ([.powerOff, .shutdownTrip] : List Instr), Answers i s fun t =>
      t.k.phase = .off ∧ t.m.mem = [] ∧ t.m.maps = [] ∧ t.q.parts = [] ∧ t.q.images = [] ∧ t.q.events = [] ∧ t.d = ⟨[], [], [], []⟩ ∧
      t.t = Train.vacant ∧ t.rest = [] ∧ t.o = ⟨[], []⟩ ∧ t.agenda = s.agenda ∧ t.tick = s.tick)) ∧
  (∀ s : State, s.k.phase ≠ .off →
    let p := s.k.power
    let c := s.subject.a
    let n := s.subject.b
    let held := fun (q : Power) x => Table.get 0 q.grants x
    (Answers .throttleTrip s fun t => (∀ x, held t.k.power x = 0) ∧ t.k.power.throttled = true ∧ t.k.power.waiting = p.waiting ∧
      t = { s with k := { s.k with power := t.k.power } }) ∧
    (p.waiting = [] → exec .throttleRelease s = .next { s with k := { s.k with power := { p with throttled := false } } }) ∧
    (p.waiting = [] → 0 < n → held p c + n ≤ largestGrant c → Answers .grantRequest s fun t =>
      t = { s with k := { s.k with power := t.k.power } } ∧
      (p.throttled = false → p.used + n ≤ 2480 → t.k.power.waiting = [] ∧
        ∀ x, held t.k.power x = if x = c then held p c + n else held p x) ∧
      (p.throttled = false → 2480 < p.used + n → t.k.power.waiting = [(c, n)] ∧ t.k.power.grants = p.grants ∧
        ∀ x, x ∈ t.k.power.reclaimed ↔ x ∈ p.grants.map Prod.fst) ∧
      (p.throttled = true → t.k.power = { p with waiting := [(c, n)] })) ∧
    (c ∈ p.reclaimed → p.waiting = [] → Answers .reclaimReturn s fun t =>
      t = { s with k := { s.k with power := t.k.power } } ∧ c ∉ t.k.power.reclaimed ∧
      ∀ x, held t.k.power x = if x = c then 0 else held p x) ∧
    (c < 512 → Answers .forcedRefresh s fun t => t = { s with k := { s.k with refreshes := t.k.refreshes } } ∧
      ∀ x, Table.get 0 t.k.refreshes x = Table.get 0 s.k.refreshes x + if x = c then 1 else 0) ∧
    (s.portRuns c = false → exec .unsupportedPacket s = .next s) ∧
    (s.portRuns c = true → Answers .unsupportedPacket s fun t => t = { s with k := { s.k with dropped := t.k.dropped } } ∧
      ∀ x, Table.get 0 t.k.dropped x = Table.get 0 s.k.dropped x + if x = c then 1 else 0) ∧
    (Answers .badBlockRetirement s fun t => t.k.spareBlocks = c ∧ (s.k.flashFull = true → t.k.flashFull = true) ∧
      t = { s with k := { s.k with spareBlocks := c, flashFull := t.k.flashFull } }))

/-- R13, R16, R17, R18, R19, R20, R37, R61 and R114: A chunk that a window entry accepts is written as one unit and acknowledged, by
a port that stamps its endpoint on the message; one that fails its check is answered with an error status and not written, nor is
any later chunk of its transfer; one that nothing accepts, or on the management port, is dropped and counted at its port; a port
that does not run receives nothing. A read is answered with the bytes; an atomic writes its result and is answered with the prior
value. The place of the memory shown, the status of a failed chunk, the port that counts and the port that sends are the model's
choices. Model choices: log 94, 95, 96, 113. -/
def Obligations.MessagesAtTheTarget : Prop :=
  ∀ (s : State) (w : Window) (ua : Nat),
    let clean := fun n => s.m.dormant ua = false ∧ ∀ x ∈ eccWords ua n, x ∉ s.m.latent ∧ x ∉ s.m.poison
    let sends := fun (t : State) (kind : Nat) (tag : Word) (off : Nat) (data : List Byte) (value : Dword) =>
      t.t = s.t ∧ t.rest = s.rest ∧ t.d = s.d ∧ ∃ p < 8, s.portRuns p = true ∧
        t.k = { s.k with broken := t.k.broken, sent :=
          s.k.sent ++ [⟨kind, Config.portEndpoint p, w.peer, w.peerWindow, tag, off, data.length, data, value, 0⟩] }
    let comes := fun (port source window right off n : Nat) => s.portRuns port = true ∧ port ≠ 8 ∧
      s.accepts source window right off n = some w ∧ s.exposed w off right = some ua ∧ s.servable ua (right ≠ rightRead) = true
    (∀ m : PeerWrite,
      (s.portRuns m.port = false → exec (.writeChunk m) s = .next s) ∧
      (s.portRuns m.port = true → (m.port = 8 ∨ s.accepts m.source m.window rightWrite m.offset m.data.length = none) →
        Answers (.writeChunk m) s fun t =>
          (∀ x, Table.get 0 t.k.dropped x = Table.get 0 s.k.dropped x + if x = m.port then 1 else 0) ∧
          t = { s.unpark (.writeChunk m) with k := { s.k with dropped := t.k.dropped } }) ∧
      (comes m.port m.source m.window rightWrite m.offset m.data.length →
        (m.crcOk = false ∨ (m.source, m.window, m.tag) ∈ s.k.broken → Answers (.writeChunk m) s fun t =>
          t.m = s.m ∧ sends t 5 m.tag m.offset [] 1 ∧ (∀ b ∈ s.k.broken, b ∈ t.k.broken) ∧ (m.source, m.window, m.tag) ∈ t.k.broken) ∧
        (m.crcOk = true → (m.source, m.window, m.tag) ∉ s.k.broken → clean m.data.length → Answers (.writeChunk m) s fun t =>
          sends t 5 m.tag m.offset [] 0 ∧ t.k.broken = s.k.broken ∧ ∀ x, Table.get 0 t.m.mem x =
            if ua ≤ x ∧ x < ua + m.data.length then m.data.getD (x - ua) 0 else Table.get 0 s.m.mem x))) ∧
    (∀ m : PeerRead, comes m.port m.source m.window rightRead m.offset m.length → clean m.length → Answers (.readRequest m) s fun t =>
      t.m = s.m ∧ sends t 2 m.tag m.offset ((List.range m.length).map fun i => Table.get 0 s.m.mem (ua + i)) 0) ∧
    (∀ m : PeerAtomic,
      let n := if m.wide = true then 8 else 4
      let old := natOfBytes (Table.getList 0 s.m.mem ua n)
      let new := atomNew (8 * n) m.cas m.aop.toNat old (m.operand.toNat % 2 ^ (8 * n)) (m.operand2.toNat % 2 ^ (8 * n))
      m.offset % n = 0 → (m.cas = true ∨ m.aop.toNat ≤ 8 ∨ (m.aop.toNat = 9 ∧ m.wide = false)) →
      comes m.port m.source m.window rightAtomic m.offset n → clean n → Answers (.atomicRequest m) s fun t =>
        sends t 4 m.tag m.offset [] (BitVec.ofNat 64 old) ∧
        (∀ x, Table.get 0 t.m.mem x = if ua ≤ x ∧ x < ua + n then BitVec.ofNat 8 (new / 2 ^ (8 * (x - ua))) else Table.get 0 s.m.mem x) ∧
        (m.cas = true → new = if old = m.operand.toNat % 2 ^ (8 * n) then m.operand2.toNat % 2 ^ (8 * n) else old))

/-- R13, R16, R17, R18, R19, R103, R111, R173, R174 and R179: The last transfer of an operation settles it: a read reply's chunk is
written, an acknowledge of status 0 settles a written chunk, an atomic reply gives the lane the prior value, and it retires when
every older operation on its counter has completed; a failed check, another status or an abandoned message settles what is left with
an error mark, which the counter keeps from its retirement on, and ends the operation's other transfers. A port that does not run
brings nothing. Model choices: log 98, 114, 123, 139. -/
def Obligations.MessagesAtTheSource : Prop :=
  ∀ (s : State) (x : Transfer) (o : Op) (port : Nat), s.t.life = .running → s.t.i.id = x.train → s.t.op x.op = some o →
    o.done = false → o.stop = none → o.counter < 16 → o.err = false → (∀ p ∈ s.t.c.ops, p.id ≠ o.id → p.err = false ∧ p.stop = none) →
    (∀ e ∈ o.after, ∀ p ∈ s.t.c.ops, p.id ≠ e.1) → s.transfer x.tag x.offset = some x →
    let comes := s.portRuns port = true ∧ port ≠ 8
    let ends := fun (t : State) (bad : Bool) => (∃ w, t.t.c.ops = (retireOps [] (s.t.c.ops.map fun p =>
        if p.id = o.id then { o with work := w, done := true, err := bad } else p)).2) ∧
      t.k.transfers = (if bad = true then (s.k.transfers.erase x).filter (fun y => y.train != x.train || y.op != x.op)
        else s.k.transfers.erase x) ∧
      ((∀ p ∈ t.t.c.ops, p.id ≠ o.id) → t.t.c.err = if bad = true then s.t.c.err ||| BitVec.ofNat 16 (2 ^ o.counter) else s.t.c.err) ∧
      ((∃ p ∈ t.t.c.ops, p.id = o.id) → t.t.c.err = s.t.c.err) ∧ t.t.i = s.t.i ∧ t.rest = s.rest
    let barrier := fun (t : State) (bar : Option BarKey) n bad => ∀ k b, bar = some k → s.bar k = some b → t.bar k = some (b.settleBytes n bad)
    (s.ack.port = port → s.portRuns port = false → exec .acknowledge s = .next s) ∧
    (∀ u bar, o.work = .engine [u] bar true none → x.unit = 0 → u.settled = false →
      (∀ a b status, s.ack = ⟨port, a, b, x.offset, x.tag, status⟩ → comes → status ≠ 0 → Answers .acknowledge s fun t =>
        ends t true ∧ barrier t bar u.bytes true ∧ t.t.r = s.t.r ∧ t.m = s.m) ∧
      (∀ a b, s.ack = ⟨port, a, b, x.offset, x.tag, 0⟩ → comes → o.writesChunk 0 = true → Answers .acknowledge s fun t =>
        ends t false ∧ barrier t bar u.bytes false ∧ t.t.r = s.t.r ∧ t.m = s.m) ∧
      (s.subject.a = x.tag.toNat → s.subject.b = x.offset → Answers .messageAbandon s fun t =>
        ends t true ∧ barrier t bar u.bytes true ∧ t.t.r = s.t.r ∧ t.m = s.m) ∧
      (∀ a b w lo ua n data prior, comes → u.moves = [⟨.at ⟨7, w, lo⟩, some ⟨3, 0, ua⟩, n⟩] → data.length = n → 0 < n →
        s.frozen = false → s.servable ua true = true → (∀ y ∈ eccWords ua n, y ∉ s.m.latent) →
        Answers (.readReply ⟨port, a, b, x.offset, x.tag, data, prior, true⟩) s fun t =>
          ends t false ∧ barrier t bar u.bytes false ∧ t.t.r = s.t.r ∧
          ∀ y, Table.get 0 t.m.mem y = if ua ≤ y ∧ y < ua + n then data.getD (y - ua) 0 else Table.get 0 s.m.mem y) ∧
      (∀ a b w lo d n data prior, comes → u.moves = [⟨.at ⟨7, w, lo⟩, d, n⟩] → d.isSome = true →
        Answers (.readReply ⟨port, a, b, x.offset, x.tag, data, prior, false⟩) s fun t =>
          ends t true ∧ barrier t bar u.bytes true ∧ t.m = s.m)) ∧
    (∀ a b space wide cas d l data prior, comes → o.work = .atomic space wide cas true 0 d [l] → x.unit = l.lane → l.lane < 64 →
      o.prv = s.t.x.priv → s.t.group = none → Answers (.atomicReply ⟨port, a, b, x.offset, x.tag, data, prior, true⟩) s fun t =>
        ends t false ∧ t.m = s.m ∧ t.t.priv = s.t.priv ∧
        WritesData s t d.toNat (if wide = true then 8 else 4) false (laneBit l.lane) fun _ => prior.toNat)

/-- R38, R66, R68, R69, R70, R73, R74, R78 and R80: An access that reaches its home slice meets the tier map there, and one that
finds a deep granule with no free frame is parked; an error that ECC corrects counts at its channel; a line that arrives in a
promoting granule sets its bit, the last one commits the promotion, and the epoch rises; a line written of a demoting granule counts
its bytes, the last one, with no access to the granule in flight, commits the demotion; a zero fill makes its granule live with
every byte zero. Only a granule's own record changes. Model choices: log 19, 20. -/
def Obligations.TierEvents : Prop :=
  ∀ (s : State) (g : Nat) (e : Gran), s.m.gran g = some e →
    let line := s.subject.a % 256
    let others := fun (t : State) => (∀ h, h ≠ g → t.m.gran h = s.m.gran h) ∧ t.t = s.t ∧ t.rest = s.rest ∧ t.d = s.d ∧ t.o = s.o
    (∀ t, s.subject.a / 256 = g → s.train s.subject.c = some t → (t.c.ops.any fun o => o.wants s.subject.a (s.subject.b % 2 = 1)) = true →
      (∀ u, s.homeAccess (s.subject.a * 256) (s.subject.b % 2 = 1) = some u →
        let u := if s.m.needsPull (s.subject.a * 256) = true then
          (u.mapTrains (fun v => v.i.id = t.i.id) fun v => v.pullAt s.subject.a (s.subject.b % 2 = 1)).noteStall t.core else u
        (s.subject.b < 2 → exec .homeSliceAccess s = .next u) ∧
        (∀ k, 1 ≤ k → k ≤ 8 → s.subject.b / 2 = k → Answers .homeSliceAccess s fun v =>
          ((s.subject.a * 8 + k - 1) ∈ v.m.latent ∨ (s.subject.a * 8 + k - 1) ∈ v.m.poison) ∧
          v = { u with m := { u.m with latent := v.m.latent } })) ∧
      (s.homeAccess (s.subject.a * 256) (s.subject.b % 2 = 1) = none → s.subject.b < 2 → Answers .homeSliceAccess s fun v => v.m = s.m ∧
        ∃ y ∈ v.trains, y.i = t.i ∧ y.r = t.r ∧ y.c.ops = t.c.ops.map fun o =>
          if o.wants s.subject.a (s.subject.b % 2 = 1) = true then (match o.work with
            | .engine .. => { o with pulled := true }
            | _ => { o with parked := true }) else o)) ∧
    (∀ t, s.train s.subject.c = some t → s.subject.b / 2 = 11 → Answers .homeSliceAccess s fun v =>
      v = { s with k := { s.k with corrected := v.k.corrected } } ∧
      ∀ x, Table.get 0 v.k.corrected x = Table.get 0 s.k.corrected x + if x = Config.channelOf s.subject.a then 1 else 0) ∧
    (s.subject.a / 256 = g → s.subject.b = 0 → e.tier = .promoting → line ∉ e.lines →
      (e.lines.length + 1 < 256 → Answers .lineArrival s fun t => others t ∧ t.m.mem = s.m.mem ∧ t.m.epoch = s.m.epoch ∧
        t.m.gran g = some { e with lines := e.lines ++ [line], pulled := e.pulled.filter fun l => l != line }) ∧
      (e.lines.length = 255 → s.ownerOf e.part g = none → Answers .lineArrival s fun t => others t ∧ t.m.mem = s.m.mem ∧
        t.m.epoch = s.m.epoch + 1 ∧ t.m.gran g = some { e with tier := .fast, lines := [], pulled := [], loc := none } ∧
        t.m.quarantine = s.m.quarantine ++ [⟨2, e.part, e.loc.getD 0, 65536, s.m.epoch⟩])) ∧
    (s.subject.a / 256 = g → e.tier = .demoting → line ∉ e.lines → (∀ i < 8, s.subject.a * 8 + i ∉ s.m.latent) →
      (e.lines.length + 1 < 256 → Answers .demotionLineWritten s fun t => others t ∧ t.m.mem = s.m.mem ∧ t.m.epoch = s.m.epoch ∧
        t.m.gran g = some { e with lines := e.lines ++ [line] } ∧ t.k.written = s.k.written + 256) ∧
      (e.lines.length = 255 → s.inUse g = false → s.ownerOf e.part g = none → Answers .demotionLineWritten s fun t => others t ∧ t.m.mem = s.m.mem ∧
        t.m.epoch = s.m.epoch + 1 ∧ t.m.gran g = some { e with tier := .deep, lines := [], frame := none } ∧
        t.m.quarantine = s.m.quarantine ++ [⟨1, e.part, e.frame.getD 0, 65536, s.m.epoch⟩])) ∧
    (s.subject.a = g → e.filling = true → Answers .dormantZeroFill s fun t => others t ∧
      t.m.gran g = some { e with dormant := false, filling := false } ∧
      ∀ x, Table.get 0 t.m.mem x = if g * 65536 ≤ x ∧ x < g * 65536 + 65536 then 0 else Table.get 0 s.m.mem x)

/-- R66, R71, R78, R80, R81, R89, R93, R98, R192, R193 and R201: The shunter starts the demotion of a granule that may be a victim;
what was freed at an epoch that Q has passed leaves the queue, a unified range to be given out again, and the context descriptor of
a wholly vacated grid that waits for frames is then written, when they are there, one that stands being brought up to date; a
refinement request leaves its queue and its target's deep granules start to be promoted; a parked slot whose granule holds a frame,
or can be given one, is parked no more, and a parked access issues again, translated again, under the epoch of now; a switch-out
gives every train of the cluster the pre-emption with REASON 1. Model choices: log 17, 18, 19, 33, 57, 61, 99, 144. -/
def Obligations.ResidencyEvents : Prop :=
  ∀ s : State,
    (∀ p e, s.part s.subject.a = some p → s.m.gran s.subject.b = some e → s.evictable p.num s.subject.b = true →
      s.framesWanted p = true → s.ownerOf p.num s.subject.b = none → Answers .evictionRequest s fun t =>
        (∃ l, l ∉ s.m.locsHeld ∧ t.m.gran s.subject.b = some (if e.dormant = true
          then { e with tier := .deep, lines := [], filling := false, loc := some l, frame := none }
          else { e with tier := .demoting, lines := [], loc := some l })) ∧
        t.m.epoch = s.m.epoch + (if e.dormant = true then 1 else 0) ∧ t.m.mem = s.m.mem ∧ t.t = s.t ∧ t.rest = s.rest ∧ t.d = s.d) ∧
    (∀ q, s.m.quarantine[s.subject.a]? = some q → q.epoch < s.quiescence → (s.d.grids.map Grid.seq).Nodup →
      let u := { s with m := { s.m with
        quarantine := s.m.quarantine.take s.subject.a ++ s.m.quarantine.drop (s.subject.a + 1),
        freeUa := if q.kind = 0 then s.m.freeUa ++ [(q.ua, q.len)] else s.m.freeUa } }
      ((∀ g ∈ s.d.grids, g.part = q.part → s.wholeVacated g = false) → exec .quarantineRelease s = .next u) ∧
      (∀ g ∈ s.d.grids, g.part = q.part → s.wholeVacated g = true →
        (∀ h ∈ s.d.grids, h.part = q.part → h.seq ≠ g.seq → s.wholeVacated h = false) →
        let mine := s.d.teams.filter fun m => m.grid = g.seq
        let tells := fun (d : Desc) (t : State) => d.seq = g.seq ∧ d.part = g.part ∧ d.state = 1 ∧
          d.bytes = (mine.map fun m => (if m.area = 0 then 0 else areaBytes) + 65536 * m.frames.length).sum ∧
          (∀ p, p ∈ d.teams ↔ ∃ m ∈ mine, m.life = .vacated ∧ p = (m.idx, m.area)) ∧ d.teams.Pairwise (fun a b => a.1 ≤ b.1) ∧
          (d.record = d.addr + 0x100 → d.areas = d.addr + 0x200 → natOfBytes (Table.getList 0 t.m.mem d.addr 64) = d.bits % 2 ^ 512)
        (s.descWanted g = true → u.freeFrames g.part < g.descGranules → exec .quarantineRelease s = .next u) ∧
        (s.descWanted g = true → g.descGranules ≤ u.freeFrames g.part → Answers .quarantineRelease s fun t =>
          ∃ d, t.q = { s.q with descs := s.q.descs ++ [d] } ∧ tells d t ∧ d.version = Config.saveVersion ∧ d.record = d.addr + 0x100 ∧
            d.areas = d.addr + 0x200 ∧ d.granules.length = g.descGranules ∧ d.addr = d.granules.headD 0 * 65536 ∧ t.t = s.t ∧ t.d = s.d) ∧
        (∀ e, (s.q.descs.find? fun d => d.seq = g.seq && d.part = g.part && d.state != 2) = some e → Answers .quarantineRelease s fun t =>
          ∃ d, t.q = { s.q with descs := s.q.descs.map fun x => if x.addr = e.addr then d else x } ∧ tells d t ∧
            d = { e with state := 1, bytes := d.bytes, teams := d.teams } ∧ t.t = s.t ∧ t.d = s.d))) ∧
    (∀ q, s.m.quarantine[s.subject.a]? = some q → s.quiescence ≤ q.epoch → exec .quarantineRelease s = .next s) ∧
    (∀ p h n ldo more o, s.part s.subject.a = some p → p.refine = (h, n, ldo) :: more → s.object s.subject.a h = some o → n < o.nodes.length →
      (o.node n).state = .absent →
      let gs := s.m.payload s.subject.a (o.node n)
      s.m.framesUsed s.subject.a + (gs.filter fun g => s.m.tierOf g == some .deep).length ≤ s.frames s.subject.a →
      Answers .refineServe s fun t =>
        t.part s.subject.a = some { p with refine := more } ∧ t.m.mem = s.m.mem ∧
        (∀ g ∈ gs, ∀ e, s.m.gran g = some e → e.tier = .deep → e.dormant = false →
          (∃ f, t.m.gran g = some { e with tier := .promoting, lines := [], pulled := [], frame := some f }) ∧
          (t.object s.subject.a h).map (fun x => (x.node n).state) = some .promoting)) ∧
    (∀ v g, s.train s.subject.a = some v → s.subject.b < 2 →
      let one := decide (s.subject.b = 1)
      (v.slot one).parked = some g → (s.m.tierOf g ≠ some .deep ∨ s.frameFree v.i.part = true) →
      Answers .parkResume s fun t => t.train s.subject.a = some (v.setSlot one { v.slot one with parked := none }) ∧
        t.m.tierOf g ≠ some .deep ∧ t.m.mem = s.m.mem ∧ t.d = s.d) ∧
    (∀ o n signed d a p e, s.t.i.id = s.subject.a → s.subject.b = 2 → s.t.op s.subject.c = some o → o.parked = true → o.done = false →
      o.work = .load n signed d [a] → a.done = false → a.tag = none → s.globalFault s.t.i.part a.va n rightRead false o.prv = none →
      s.window s.t.i.part a.va = none → s.m.mapping s.t.i.part a.va = some p →
      s.m.gran (granuleOf (p.ua + (a.va - p.va))) = some e → e.tier = .fast → Answers .parkResume s fun t =>
        (let again : LaneAcc := ⟨a.lane, a.va, p.ua + (a.va - p.va), a.x, a.y, none, none, false⟩
         t.t.op s.subject.c = some { o with parked := false, pulled := true, epoch := s.m.epoch, work := .load n signed d [again] }) ∧ t.t.r = s.t.r ∧ t.m.mem = s.m.mem ∧ t.d = s.d) ∧
    (∀ v m g k, s.train s.subject.a = some v → (v.slot (decide (s.subject.b = 1))).parked = some k → s.team v.i.grid v.i.team = some m → s.grid v.i.grid = some g →
      v.life = .running → g.launch.handler ≠ 0 → g.launch.whole = false → v.x.preempt = none → v.nested = false → m.life = .placed → v.i.id ≠ 0 →
      Answers .switchOut s fun t => t.m = s.m ∧ t.d.grids = s.d.grids ∧
        (∀ u ∈ s.trains, u.i.id ≠ 0 → u.life = .running → u.x.preempt = none → u.nested = false →
          (∃ o ∈ s.d.teams, o.grid = v.i.grid ∧ o.cluster = m.cluster ∧ o.life = .placed ∧ o.idx = u.i.team ∧ o.grid = u.i.grid) →
          ∃ w ∈ t.trains, w.i = u.i ∧ w.x.preempt = some 1 ∧ w.r = u.r ∧ w.d = u.d) ∧
        ∃ w ∈ t.trains, w.i = v.i ∧ w.x.preempt = some 1)

/-- R76, R100, R111, R114, R117, R180, R349 and R355: When the last lane of a counted load, store or atomic has been performed its
effect stands: the lane's registers have the bytes read, the bytes stored stand in memory, the atomic has written its result and
given its lane the old value. A counter retires in issue order: an operation retires once it and every older one on its counter have
completed, and stays until then. The results of an `ldo` or a complete `oreq` are written together. A poisoned reply attaches its
late record, to the split that holds what is left of those that issued it, or, when they have been divided, the lowest lane
concerned that has not exited, or, when none is left, the first in the order of delivery. Model choices: log 101, 104, 119, 123. -/
def Obligations.CountedRepliesComplete : Prop :=
  (∀ ops : List Op, (ops.map Op.id).Nodup →
    let x := retireOps [] ops
    x.1.Sublist ops ∧ x.2.Sublist ops ∧ ∀ (i : Nat) (o : Op), ops[i]? = some o →
      let gone := o.done = true ∧ (o.counter = 16 ∨ ∀ (j : Nat) (p : Op), j < i → ops[j]? = some p → p.counter = o.counter → p.done = true)
      (o ∈ x.1 ↔ gone) ∧ (o ∈ x.2 ↔ ¬gone)) ∧
  ∀ (s : State) (o : Op), s.t.life = .running → s.t.i.id = s.subject.a → s.t.op s.subject.b = some o → s.mayPerform o = true →
    o.err = false → o.prv = s.t.x.priv → (∀ p ∈ s.t.c.ops, p.id ≠ o.id → p.err = false ∧ p.stop = none) →
    (∀ e ∈ o.after, ∀ p ∈ s.t.c.ops, p.id ≠ e.1) →
    let retires := fun (t : State) => ∃ w, t.t.c.ops =
      (retireOps [] (s.t.c.ops.map fun p => if p.id = o.id then { o with work := w, done := true } else p)).2
    let ends := fun (t : State) => retires t ∧ t.t.c = { s.t.c with ops := t.t.c.ops } ∧ t.t.priv = s.t.priv ∧ t.t.d = s.t.d ∧ t.rest = s.rest
    let clean := fun ua n => s.m.dormant ua = false ∧ ∀ w ∈ eccWords ua n, w ∉ s.m.latent ∧ w ∉ s.m.poison
    let bytes := fun ua n => natOfBytes (Table.getList 0 s.m.mem ua n)
    (o.stop = none →
      (∀ n signed d a, o.work = .load n signed d [a] → a.done = false → a.win = none → s.subject.c = a.lane → a.lane < 64 →
        s.servable a.ua false = true → clean a.ua n → n ∈ [1, 2, 4, 8, 16] → Answers .loadReply s fun t =>
          ends t ∧ t.m = s.m ∧ t.d = s.d ∧ WritesData s t d.toNat n signed (laneBit a.lane) fun _ => bytes a.ua n) ∧
      (∀ d l ws, o.work = .object d [(l, ws)] → ws.length = 4 → l < 64 → Answers .loadReply s fun t =>
        ends t ∧ t.m = s.m ∧ t.d = s.d ∧ WritesQuad s t d.toNat (laneBit l) fun _ i => ws.getD i 0) ∧
      (∀ d h n evict l was st gen, o.work = .request d [⟨l, h, n, evict, was, some (st, gen)⟩] → l < 64 → Answers .loadReply s fun t =>
        ends t ∧ t.m = s.m ∧ t.d = s.d ∧
        WritesVV s t d.toNat (laneBit l) fun _ => BitVec.ofNat 32 gen ++ BitVec.ofNat 32 st) ∧
      (∀ n a, o.work = .store 3 n [a] → a.done = false → a.win = none → s.subject.c = a.lane → s.servable a.ua true = true →
        clean a.ua n → 0 < n → Answers .storePerformed s fun t =>
          ends t ∧ t.t.r = s.t.r ∧ t.d = s.d ∧ ∀ x, Table.get 0 t.m.mem x =
            if a.ua ≤ x ∧ x < a.ua + n then BitVec.ofNat 8 (a.x / 2 ^ (8 * (x - a.ua))) else Table.get 0 s.m.mem x) ∧
      (∀ space wide cas ret aop d a,
        let n := if wide = true then 8 else 4
        o.work = .atomic space wide cas ret aop d [a] → a.done = false → a.tag = none → a.win = none → s.subject.c = a.lane →
        a.lane < 64 →
        (space = 3 → s.servable a.ua true = true → clean a.ua n → Answers .atomicPerform s fun t =>
          let new := atomNew (8 * n) cas aop (bytes a.ua n) a.x a.y
          ends t ∧ t.d = s.d ∧
          (∀ x, Table.get 0 t.m.mem x =
            if a.ua ≤ x ∧ x < a.ua + n then BitVec.ofNat 8 (new / 2 ^ (8 * (x - a.ua))) else Table.get 0 s.m.mem x) ∧
          (if ret = true then WritesData s t d.toNat n false (laneBit a.lane) fun _ => bytes a.ua n else t.t.r = s.t.r)) ∧
        (space = 1 → (s.team s.t.i.grid (a.ua / 2 ^ 32)).isSome = true → Answers .atomicPerform s fun t =>
          let team := a.ua / 2 ^ 32
          let off := a.ua % 2 ^ 32
          let old := natOfBytes (s.scratchRead s.t.i.grid team off n)
          let new := atomNew (8 * n) cas aop old a.x a.y
          ends t ∧ t.m = s.m ∧
          (∀ x, t.scratchRead s.t.i.grid team x 1 = if off ≤ x ∧ x < off + n then [BitVec.ofNat 8 (new / 2 ^ (8 * (x - off)))]
            else s.scratchRead s.t.i.grid team x 1) ∧
          (if ret = true then WritesData s t d.toNat n false (laneBit a.lane) fun _ => old else t.t.r = s.t.r)))) ∧
    (∀ r, o.stop = some r → o.work = .reply → s.t.x.priv = false → s.t.d.slot0.mask ≠ 0 → s.t.d.slot0.mask &&& s.t.d.slot1.mask = 0 →
      let left := o.split &&& s.t.live
      let lane := lowest (r.lanes &&& s.t.live)
      ((left ≠ 0 ∧ o.divided = false ∧ left &&& ~~~s.t.d.slot0.mask = 0) ∨ (o.divided = true ∧ s.t.d.slot0.mask.getLsbD lane = true) ∨
          (r.lanes &&& s.t.live = 0 ∧ (o.divided = true ∨ left = 0)) →
        Answers .loadReply s fun t => retires t ∧ t.t.d.slot0 = { s.t.d.slot0 with recs := s.t.d.slot0.recs ++ [r] } ∧
          t.t.d.slot1 = s.t.d.slot1 ∧ t.t.r = s.t.r ∧ t.m = s.m ∧ t.d = s.d) ∧
      ((left ≠ 0 ∧ o.divided = false ∧ left &&& ~~~s.t.d.slot1.mask = 0) ∨ (o.divided = true ∧ s.t.d.slot1.mask.getLsbD lane = true) →
        Answers .loadReply s fun t => retires t ∧ t.t.d.slot1 = { s.t.d.slot1 with recs := s.t.d.slot1.recs ++ [r] } ∧
          t.t.d.slot0 = s.t.d.slot0 ∧ t.t.r = s.t.r ∧ t.m = s.m ∧ t.d = s.d))

/-- R64, R65, R80, R101, R111, R173, R174, R358, R359 and R360: The engine translates an operation whose pages allow every access,
and the operation takes the epoch; a page that fails stops it whole, with an error mark at its barrier and, when it retires, a late
record for the lowest failing address. The last unit is written whole, its bytes leave the barrier's PENDING, and the operation
retires in its counter's issue order; a unit that reads a poisoned word is not written and leaves an error mark. Model choices: log
34, 119, 123. -/
def Obligations.EngineOperations : Prop :=
  ∀ (s : State) (o : Op) (bar : Option BarKey) (ob : Option Nat), s.t.life = .running → s.t.i.id = s.subject.a →
    s.t.op s.subject.b = some o → s.mayPerform o = true → o.err = false → o.stop = none → o.prv = false → s.t.x.priv = false →
    (∀ p ∈ s.t.c.ops, p.id ≠ o.id → p.err = false ∧ p.stop = none) →
    let retires := fun (t : State) err stop => ∃ w, t.t.c.ops = (retireOps [] (s.t.c.ops.map fun p =>
      if p.id = o.id then { o with work := w, done := true, err := err, stop := stop } else p)).2
    let gone := fun (t : State) => ∀ p ∈ t.t.c.ops, p.id ≠ o.id
    let barrier := fun (t : State) n bad => ∀ k b, bar = some k → s.bar k = some b → t.bar k = some (b.settleBytes n bad)
    (∀ units, o.work = .engine units bar false ob →
      (∀ u ∈ units, ∀ m ∈ u.moves, ∀ p ∈ m.global, s.pageFault s.t.i.part p.1 p.2 = none ∧
        ∃ e, s.m.gran (granuleOf ((s.m.translate s.t.i.part p.1).getD 0)) = some e ∧ e.tier = .fast ∧ e.dormant = false) →
      Answers .engineTranslate s fun t => t.m.mem = s.m.mem ∧ t.m.epoch = s.m.epoch ∧ t.d = { s.d with cores := t.d.cores } ∧ t.t.r = s.t.r ∧
        t.t.c.ops = s.t.c.ops.map fun p => if p.id = o.id then
          { o with work := .engine (units.map fun u => { u with moves := u.moves.map s.translatedMove }) bar true ob, epoch := s.m.epoch } else p) ∧
    (∀ u va cause reason, o.work = .engine [u] bar false ob → u.settled = false → s.lowestFault u.moves = some (va, cause, reason) →
      o.split &&& s.t.live &&& ~~~s.t.d.slot0.mask = 0 → s.t.d.slot0.mask ≠ 0 →
      s.t.d.slot0.mask.getLsbD (lowest (o.lanes &&& s.t.live)) = true → Answers .engineTranslate s fun t =>
        let r : Rec := ⟨BitVec.ofNat 8 cause, o.lanes, memInfo reason 3 va, o.pc, o.region, o.count, o.age, true⟩
        retires t false (some r) ∧ barrier t u.bytes true ∧ t.m = s.m ∧ t.t.r = s.t.r ∧
        (gone t → t.t.d.slot0 = { s.t.d.slot0 with recs := s.t.d.slot0.recs ++ [r] }) ∧ (¬gone t → t.t.d.slot0 = s.t.d.slot0)) ∧
    (∀ u m src n dst, o.work = .engine [u] bar true ob → u.moves = [⟨.at ⟨1, m, src⟩, some ⟨3, 0, dst⟩, n⟩] → u.settled = false →
      u.tag = none → u.remote = false → s.subject.c = 0 → 0 < n → s.servable dst true = true → (∀ w ∈ eccWords dst n, w ∉ s.m.latent) →
      Answers .engineUnitSettle s fun t => retires t false none ∧ barrier t u.bytes false ∧ t.t.r = s.t.r ∧
        ∀ x, Table.get 0 t.m.mem x = if dst ≤ x ∧ x < dst + n then (s.scratchRead s.t.i.grid m src n).getD (x - dst) 0
          else Table.get 0 s.m.mem x) ∧
    (∀ u ua team off n, o.work = .engine [u] bar true ob → u.moves = [⟨.at ⟨3, 0, ua⟩, some ⟨1, team, off⟩, n⟩] → u.settled = false →
      u.tag = none → u.remote = false → s.subject.c = 0 → 0 < n → s.servable ua false = true → s.m.dormant ua = false →
      (s.team s.t.i.grid team).isSome = true → (∀ w ∈ eccWords ua n, w ∉ s.m.latent) →
      ((∀ w ∈ eccWords ua n, w ∉ s.m.poison) → Answers .engineUnitSettle s fun t =>
        retires t false none ∧ t.m = s.m ∧ t.t.r = s.t.r ∧ ∀ x, t.scratchRead s.t.i.grid team x 1 =
          if off ≤ x ∧ x < off + n then [Table.get 0 s.m.mem (ua + (x - off))] else s.scratchRead s.t.i.grid team x 1) ∧
      (∀ w ∈ eccWords ua n, w ∈ s.m.poison → o.counter < 16 → Answers .engineUnitSettle s fun t =>
        retires t true none ∧ (gone t → t.t.c.err = s.t.c.err ||| BitVec.ofNat 16 (2 ^ o.counter)) ∧ (¬gone t → t.t.c.err = s.t.c.err) ∧
        barrier t u.bytes true ∧ t.m = s.m ∧
        ∀ x, t.scratchRead s.t.i.grid team x 1 = s.scratchRead s.t.i.grid team x 1))

/-- R127, R130, R134, R135, R136, R142, R149, R165, R186, R196 and R198: A one-team cluster that is dealt is placed on its core: the
grid has started and dealt one cluster more, the team's barriers stand, and each of its trains starts at ENTRY with every lane in
slot 0, registers 0 and QUANTUM 16, on its quarter. A vacated one that is placed again runs on its new core: each of its trains is
in its handler with cause 0x22, SOURCE 3, and REASON 2. Model choices: log 48, 54, 59, 116. -/
def Obligations.TeamsArePlaced : Prop :=
  ∀ (s : State) (g : Grid) (c : Nat), s.grid g.seq = some g → g.launch.clw = 1 → g.launch.clh = 1 → g.launch.whole = false →
    g.parent = none →
    (s.nextDeal s.subject.a = some (g, .fresh [[c]]) → 1 ≤ g.launch.width → g.launch.width ≤ 64 → Answers .teamDeal s fun t =>
      let k := clusterIndex g.launch g.dealt
      (∃ n, t.grid g.seq = some { g with life := .started, dealt := g.dealt + 1, turn := n, resumed := false } ∧ (g.life ≠ .queued → n = g.turn) ∧
        (g.life = .queued → ∀ h ∈ s.d.grids, h.part = g.part → h.turn < n)) ∧
      (∃ m, t.d.teams = s.d.teams ++ [m] ∧ m.grid = g.seq ∧ m.idx = k ∧ m.core = c ∧ m.life = .placed ∧ m.scratch = [] ∧ m.resv = []) ∧
      t.d.bars = s.d.bars ++ declared 0 g.seq k g.launch.tbar ++ declared 1 g.seq k g.launch.cbar ∧
      t.t = s.t ∧ t.nextTrain = s.nextTrain + g.launch.trains ∧
      ∃ ts, t.rest = s.rest ++ ts ∧ ts.length = g.launch.trains ∧ ∀ i v, ts[i]? = some v →
        v.i.id = s.nextTrain + i ∧ v.i.num = i ∧ v.i.grid = g.seq ∧ v.i.team = k ∧ v.i.part = g.part ∧ v.i.width = g.launch.width ∧
        v.life = .running ∧ v.core = c ∧ v.quarter = ((s.core c).quarter + i) % 4 ∧ v.seat < 32 ∧ v.r = Regs.reset ∧ v.x = TrapSt.reset ∧
        v.d.slot0.pc = BitVec.ofNat 64 g.launch.entry ∧ v.d.slot0.mask = v.all ∧ v.d.slot1.mask = 0 ∧ v.d.exited = 0 ∧
        v.d.depth = 0 ∧ v.d.quantum = 16) ∧
    (∀ m k, s.subject.a = g.seq → s.team g.seq s.subject.b = some m → s.nextDeal g.part = some (g, .again k [c]) → m.cluster = k →
      m.rank = 0 → m.awaits = [] → m.life = .vacated →
      (s.d.teams.filter fun o => o.grid = g.seq && o.cluster = k && o.life = .vacated) = [m] → Answers .teamReplace s fun t =>
        (t.team g.seq m.idx).map (fun o => (o.life, o.core, o.cluster)) = some (.placed, c, k) ∧
        (t.grid g.seq).map Grid.back = some (g.back.filter fun j => j != k) ∧
        ∀ u ∈ s.trains, u.i.grid = g.seq → u.i.team = m.idx → u.life = .vacated → u.i.id ≠ 0 → ∃ w ∈ t.trains,
          w.i = u.i ∧ w.life = .running ∧ w.core = c ∧ w.x.priv = true ∧ w.x.resume = true ∧ w.x.restored = false ∧
          w.x.now.cause = 0x3_0022 ∧ w.x.now.info = BitVec.ofNat 64 (2 ^ 61) + u.x.info ∧ w.x.now.mask = true ∧
          w.d.slot0.pc = u.i.handler ∧ w.d.slot0.mask = u.live ∧ w.d.slot1.mask = 0 ∧ w.d.depth = u.d.depth ∧ w.d.siding = u.d.siding ∧
          w.x.floor = u.d.depth ∧ w.priv = u.priv ∧ w.x.context = u.x.context)

/-- R141, R142, R143, R185, R193, R194 and R195: A grid that has ended completes its event with *done*, *grid error* or *hardware
fault*, and its teams and barriers are gone. A spatial pre-emption reaches every train of the clusters chosen, but for one in a
NESTED entry, and holds the cores chosen and those of the teams that go; in a handler that masks it, it counts against PREEMPTGRACE;
one not taken in time stops the team, and the grid takes the error with cause 0x23. Model choices: log 56, 58, 144. -/
def Obligations.GridsAndPreemptions : Prop :=
  ∀ s : State,
    (∀ g e, s.grid s.subject.a = some g → s.gridEnded g = true → g.parent = none →
      (s.q.events.find? fun x => x.seq = g.seq) = some e → (∀ w ∈ s.q.waiting, w.seq ≠ g.seq) → Answers .gridComplete s fun t =>
        t.grid g.seq = some { g with life := .complete } ∧ t.d.teams = s.d.teams.filter (fun m => m.grid != g.seq) ∧
        t.d.bars = s.d.bars.filter (fun b => b.key.grid != g.seq) ∧ t.q.replies = s.q.replies ∧ t.m.mem = s.m.mem ∧
        (t.q.events.find? fun x => x.seq = g.seq) = some { e with
          status := some (if g.failed = true then 0x09 else if g.error = true then 0x0A else 0x00), addr := none }) ∧
    (∀ h p g cs gone, s.grid s.subject.a = some h → s.part h.part = some p → s.victims p = some (g, cs, gone) → s.subject.c = 0 →
      (s.subject.a, s.subject.b) ∈ gone → Answers .preemptRequest s fun t =>
        t.m = s.m ∧ t.d.teams = s.d.teams ∧ t.d.grids = s.d.grids ∧
        (∀ c, (t.core c).held = if c ∈ cs ∨ ∃ m ∈ s.d.teams, (m.grid, m.idx) ∈ gone ∧ m.core = c then some g.seq else (s.core c).held) ∧
        (∀ u ∈ s.trains, ((u.i.grid, u.i.team) ∉ gone ∨ u.life ≠ .running ∨ u.x.preempt ≠ none ∨ u.nested = true) → u ∈ t.trains) ∧
        ∀ u ∈ s.trains, (u.i.grid, u.i.team) ∈ gone → u.i.id ≠ 0 → u.life = .running → u.x.preempt = none → u.nested = false → ∃ w ∈ t.trains,
          w.i = u.i ∧ w.r = u.r ∧ w.d = u.d ∧
          w.x = { u.x with preempt := some 0, graceRun := if u.x.priv = true ∧ u.x.now.mask = true then some u.x.grace else none }) ∧
    (∀ reason n g m, s.t.i.id = s.subject.a → s.t.i.id ≠ 0 → s.t.life = .running → s.t.x.priv = true → s.t.x.preempt = some reason →
      s.t.x.graceRun = some n → s.grid s.t.i.grid = some g → s.team s.t.i.grid s.t.i.team = some m → Answers .graceExpiry s fun t =>
        t.t.i = s.t.i ∧ t.t.life ≠ .running ∧ t.t.d.exited = s.t.all ∧
        (t.team s.t.i.grid s.t.i.team).map Team.stopped = some true ∧
        ∃ h info, t.grid s.t.i.grid = some h ∧ h.error = true ∧
          h.causes = g.causes ++ [(s.t.i.team, s.t.i.num, 0x23, info, s.t.split.pc)] ∧ info = BitVec.ofNat 64
            (reason * 2 ^ 60 + (if s.matrixBit = true then 2 else 0) + if s.t.m.ice = [] then 0 else 1))

/-- R150, R175, R364 and R72: At the end of a turn the other live slot is current and its count starts afresh. The end of a
`bar.try` suspension writes pd from the parity now and the split goes on; the reply to an `svc` writes its uniform register and the
split goes on. Model choices: log 5, 10, 62. -/
def Obligations.TurnsAndSuspensions : Prop :=
  ∀ s : State, s.t.i.id = s.subject.a →
    (s.t.turnOver = true → exec .quantumExpiry s =
      .next (s.onT fun t => { t with d := { t.d with cur := !t.d.cur, used := 0, limit := t.d.quantum } })) ∧
    (s.t.turnOver = false → exec .quantumExpiry s = .next s) ∧
    (s.t.life = .running → s.t.live ≠ 0 → s.t.group = none → s.t.x.priv = false → s.t.d.slot1.mask = 0 → s.t.d.cur = false → s.t.d.depth = 0 →
      s.t.x.frozen = [] → s.t.d.slot0.asleep = true → s.t.d.slot0.mask ≠ 0 → s.t.d.slot0.held = false → s.t.d.slot0.recs = [] →
      (∀ k pd pa bar sb b, s.t.d.slot0.asked = none → s.instrAt s.t.i.part s.t.d.slot0.pc = some (.barTry k pd pa bar sb) →
        s.bar (s.barKey s.t bar.toNat) = some b → b.lastErr = false → Answers .barTryTimeout s fun t =>
          WritesP s t pd.toNat s.t.live (fun _ => b.phase.getLsbD 0 != (s.t.p pa).getLsbD (lowest s.t.live)) ∧
          t.t.d.slot0 = { s.t.d.slot0 with pc := s.t.d.slot0.pc + 4, asleep := false, half := none } ∧ t.d = s.d ∧ t.m = s.m) ∧
      (∀ k d code asked, s.subject.b = 0 → s.t.d.slot0.asked = some asked → s.instrAt s.t.i.part s.t.d.slot0.pc = some (.svc k d code) →
        Answers .svcReply s fun t =>
          (asked ≠ 4 → WritesS s t d.toNat true (s.svcValue s.t asked) ∧ t.d = s.d) ∧
          (asked = 4 → t.d = { s.d with cores := t.d.cores } ∧
            ∃ x, (s.core s.t.core).stall ≤ x ∧ ((s.core s.t.core).pulls = false → x = (s.core s.t.core).stall) ∧
              WritesS s t d.toNat true (BitVec.ofNat 64 x)) ∧
          t.t.d.slot0 = { s.t.d.slot0.afterEnding 4 with asleep := false, asked := none, answer := none, half := none } ∧ t.m = s.m)) ∧
    (∀ p, s.part s.t.i.part = some p →
      s.svcValue s.t 0 = 0 ∧ s.svcValue s.t 1 = BitVec.ofNat 64 (s.coresOf p).length ∧
      (s.coresOf p).length + (p.cores.filter fun c => (s.core c).failed).length = p.w * p.h ∧ s.svcValue s.t 2 = BitVec.ofNat 64 (p.hbm * 2 ^ 30) ∧
      s.svcValue s.t 3 = BitVec.ofNat 64 (p.deep * 2 ^ 36) ∧ s.svcValue s.t 0x11 = BitVec.allOnes 64)

/-- R143, R183, R184, R185, R186, R187, R271 and R272: A record attached to slot 0, where no other stands, is delivered at the next
boundary: the train enters its handler in privileged mode, with every lane that has not exited in slot 0 at HANDLER, the trap
registers of the record, MASK 1, latches and flags 0, the banked registers and predicates 0 but for s56 and s57; what it interrupted
is frozen without that record, the user's registers stay, and the frame's 256 bytes alone are written. An illegal word or packet
attaches its record and has no other effect; in a handler it ends the train. Model choices: log 9. -/
def Obligations.TrapsAreTaken : Prop :=
  ∀ s : State,
    (∀ r, s.t.i.id = s.subject.a → s.t.life = .running → s.t.x.priv = false → s.t.x.preempt = none → s.t.d.slot0.recs = [r] →
      r.cause ≠ 0x18 → s.t.i.handler ≠ 0 → ∀ m, s.myTeam = some m → Answers .trapEntry s fun t =>
        t.t.x.priv = true ∧
        t.t.x.now = ⟨BitVec.ofNat 64 (r.cause.toNat + (if r.late = true then 2 ^ 9 else 0) + r.count.toNat * 2 ^ 32), r.lanes,
          r.region &&& 0xFF_FFFF_FFFF_FFFF, r.pc &&& 0xFF_FFFF_FFFF_FFFF, r.info, true⟩ ∧
        t.t.d.slot0 = Split.fresh s.t.i.handler s.t.live s.t.i.handler 0 0 ∧ t.t.d.slot1 = Split.empty ∧
        t.t.d.cur = false ∧ t.t.d.depth = s.t.d.depth ∧ t.t.d.exited = s.t.d.exited ∧
        (∃ f, t.t.x.frozen = f :: s.t.x.frozen ∧ f.slot0 = { s.t.d.slot0 with recs := [], asleep := false, asked := none, answer := none, parked := none } ∧
          f.slot1 = { s.t.d.slot1 with asleep := false, asked := none, answer := none, parked := none } ∧ f.cur = s.t.d.cur ∧ f.depth = s.t.d.depth ∧
          f.g0 = s.t.r.g0 ∧ f.g1 = s.t.r.g1 ∧ f.fpflags = s.t.r.fpflags ∧ f.priv = false ∧ f.mask = s.t.x.now.mask ∧ f.trap = s.t.x.now ∧ f.entry = s.t.x.entry) ∧ t.t.x.entry = t.t.x.now ∧
        t.t.r = { s.t.r with g0 := 0, g1 := 0, fpflags := 0, bank := t.t.r.bank } ∧
        (∀ n l, t.t.r.getV true (n + 120) l = 0) ∧ (∀ n, 120 ≤ n → t.t.r.getP true n = 0) ∧ (∀ n, n < 8 → t.t.r.getS true (n + 56) =
          if n = 0 then BitVec.ofNat 64 (m.area + 0x10000 + 0x10000 * s.t.i.num) else if n = 1 then BitVec.ofNat 64 m.area else 0) ∧
        (∀ l o, l < 64 → o < 0x10000 → (l ≠ 0 ∨ o < 0xF000 ∨ 0xF100 ≤ o) →
          Table.get 0 t.t.priv (privKey l o) = Table.get 0 s.t.priv (privKey l o)) ∧
        t.m = s.m ∧ t.d = s.d ∧ t.rest = s.rest) ∧
    (∀ w, s.t.life = .running → s.t.live ≠ 0 → s.t.group = none → s.t.Lone → s.t.x.priv = false →
      exec (.illegalInstruction false w) s = .next (s.onT fun t => t.setSplit { t.split with recs :=
        [⟨0x01, t.split.mask, w.zeroExtend 64, t.split.pc, t.split.region, t.split.count, t.c.issued, false⟩] }) ∧
      exec (.illegalInstruction true w) s = .next (s.onT fun t => t.setSplit { t.split with recs :=
        [⟨0x02, t.split.mask, w.zeroExtend 64, s.packetAddr, t.split.region, t.split.count, t.c.issued, false⟩] })) ∧
    (∀ packet w g, s.t.life = .running → s.t.group = none → s.t.x.priv = true → s.grid s.t.i.grid = some g →
      Answers (.illegalInstruction packet w) s fun t => t.t.life ≠ .running ∧ (t.grid s.t.i.grid).map Grid.error = some true ∧
        t.t.d.exited = s.t.all ∧ t.t.r = s.t.r)

/-- R38, R202, R203, R219, R220, R230, R231, R233 and R234: The oldest operation in an array that is not stopped commits all its
rows together, while none is frozen before it: a clear zeroes them, an `mma` adds each block sum to its element; a marked one is not
performed, and its late record is raised. An array that makes no progress stops; its reset abandons the operations of the teams that
hold tiles or reservations, takes their reservations and counts MATRIXGEN. A core that fails is withdrawn, and the grids with teams
on it end with *hardware fault*; cores held for those grids, and those held with it for one grid, are held no more. Model choices:
log 39, 60, 119, 135. -/
def Obligations.MatrixEvents : Prop :=
  ∀ s : State,
    let c := s.subject.a
    (∀ o os, s.t.i.id = s.subject.a → s.t.m.mat = o :: os → s.t.m.ice = [] → o.id = s.subject.b → (s.core s.t.core).hung = false → o.wild = false →
      (o.poison = none → Answers .mmaCommit s fun t =>
        t = s.onT (fun u => { u with m := t.t.m }) ∧ t.t.m.mat = os ∧ t.t.m.ice = s.t.m.ice ∧ t.t.m.lost = s.t.m.lost ∧
        (o.clear = true → ∀ tile row col, row < 64 → col < 32 →
          t.t.z tile row col = if tile = o.tile ∧ o.rows.getLsbD row = true then 0 else s.t.z tile row col) ∧
        (o.clear = false → (o.sums.map Prod.fst).Nodup → (∀ p ∈ o.sums, p.1 < 2048) → ∀ tile row col, row < 64 → col < 32 →
          t.t.z tile row col = match (if tile = o.tile then o.sums.find? fun p => p.1 = row * 32 + col else none) with
            | some p => addBlock (s.t.z tile row col) p.2
            | none => s.t.z tile row col)) ∧
      (∀ off, o.poison = some off → s.t.life = .running → s.t.x.priv = false → o.split &&& s.t.live &&& ~~~s.t.d.slot0.mask = 0 →
        s.t.d.slot0.mask ≠ 0 →
        s.t.d.slot0.mask.getLsbD (lowest (o.rows &&& s.t.live)) = true → Answers .mmaCommit s fun t =>
          t.t.m = { s.t.m with mat := os } ∧ t.t.d.slot0 = { s.t.d.slot0 with recs := s.t.d.slot0.recs ++
            [⟨0x0B, o.rows, memInfo 8 6 off, o.pc, o.region, o.count, o.age, true⟩] } ∧ t.t.r = s.t.r ∧ t.m = s.m ∧ t.d = s.d)) ∧
    (s.arrayBusy c = true → Answers .matrixHang s fun t => t = { s with d := { s.d with cores := t.d.cores } } ∧
      t.core c = { s.core c with hung := true } ∧ ∀ n, n ≠ c → t.core n = s.core n) ∧
    ((s.core c).hung = true → (s.d.teams.map fun m => (m.grid, m.idx)).Nodup → Answers .arrayReset s fun t =>
      t.core c = { s.core c with hung := false, resets := (s.core c).resets + 1 } ∧
      ((∀ m ∈ s.d.teams, m.core = c → m.area = 0) → t.m = s.m) ∧
      ∀ m ∈ s.d.teams, m.life = .placed → m.core = c → s.holdsMatrix m = true →
        t.team m.grid m.idx = some { m with resv := [], obuf := [], obBad := [], matrixGen := m.matrixGen + 1 } ∧
        ∀ u ∈ s.trains, u.i.grid = m.grid → u.i.team = m.idx → (u.life = .running ∨ u.life = .vacated) →
          ∃ w ∈ t.trains, w.i = u.i ∧ w.r = u.r ∧ w.life = u.life ∧ w.m = ⟨[], [], [], some 0⟩) ∧
    (c < Config.cores → s.k.phase = .accepting → (s.core c).failed = false → Answers .coreFailure s fun t =>
      (t.core c).failed = true ∧
      (∀ n, n ≠ c → t.core n = { s.core n with held := (t.core n).held } ∧ ((t.core n).held = (s.core n).held ∨
        (t.core n).held = none ∧ ((s.core n).held = (s.core c).held ∨
          ∃ m ∈ s.d.teams, m.life = .placed ∧ m.core = c ∧ (s.core n).held = some m.grid))) ∧
      (∀ n, (s.core c).held.isSome = true → (s.core n).held = (s.core c).held → (t.core n).held = none) ∧
      (∀ m ∈ s.d.teams, m.life = .placed → m.core = c → ∀ g, s.grid m.grid = some g →
        (t.grid m.grid).map (fun h => (h.failed, h.dealt, h.back)) = some (true, g.launch.clusters, []) ∧
        (s.t.i.grid = m.grid → s.t.life = .running → s.t.i.id ≠ 0 → t.t.i = s.t.i ∧ t.t.life ≠ .running)))

/-- R245, R246, R249, R250, R251, R252, R253, R256, R257, R258 and R259: At the end of a call the least of the closest key and the
opaque hits' keys is the closest; the candidates are the hits above the floor and below it, in the order of their keys, of which the
least 16, or 15 beside a floor, wait for verdicts in slots from 0 upward, with STATE 3 and the floor kept when there are more, else
with STATE 2; the route keeps no entry beyond TMAX, each station once with its smaller DIST, and one that would need a 17th entry
makes the ray overflow, which ends it with STATE 6, or 4 when FIRST and a hit are set. Verdicts accept candidates in the same way;
one that ends, or FIRST with a hit, finishes the ray with STATE 4; after STATE 3 it goes back to its station with the largest key
sent as its floor; else it moves to the head of its route, or finishes with STATE 4 or 5. The yard accepts a submitted ray whose
record is in order, and it waits on the platform of its NEXT; a refused one leaves flight. A ray whose page is lost leaves flight
and its grid takes the error. A free unit takes a platform's rays; on a core that is being vacated their call is abandoned. The
ray's two records are written at these points only, once what the yard reads and writes can be served. A batch that is ready is
launched as a grid of its submitting grid's queue. Model choices: log 56, 64, 66, 68, 70, 71, 123. -/
def Obligations.YardEvents : Prop :=
  (∀ (st : Nat) (q : RayRec) (hs : List Hit) (f : Floor) (on : Bool) (t : Tour) (vs : Nat → Nat), st < 65536 → (val32 q.tmax).isNan = false →
    (∀ h ∈ hs, (val32 h.t).isNan = false ∧ h.prim ≠ 0xFFFFFFFF ∧ h.kind < 16) → t.hits = hs →
    let floor := if on = true then some f else none
    let solid := hs.filter fun h => h.solid || q.opaque_
    let q' := solid.foldl (fun x h => x.offer h.t h.prim h.bary st h.kind) q
    let seen := hs.filter fun h => !(h.solid || q.opaque_) && q'.takes (h.key st) && (!on || HitKey.lt ⟨f.t, st, f.prim.toNat⟩ (h.key st))
    let cap := if on = true then 15 else 16
    let a := callRay st q floor t
    q.Closest q' st solid ∧
    (t.overflowed = true → a = if q'.first = true ∧ q'.closest ≠ 0xFFFFFFFF then ⟨q', [], [], none, .finish 4⟩
      else ⟨{ q' with status := withKind q'.status 3 }, [], [], none, .finish 6⟩) ∧
    (t.overflowed = false → seen = [] → a = finishOrMove q' (q'.reach t.route)) ∧
    (t.overflowed = false → seen ≠ [] →
      (let state := if cap < seen.length then 3 else 2
       a.r = { q' with next := st, status := withState q'.status state } ∧ a.route = q'.reach t.route ∧
       a.floor = (if cap < seen.length then floor else none) ∧ a.fate = .judge state) ∧
      a.cands.map Cand.slot = List.range (min cap seen.length) ∧ a.cands.Pairwise (fun c d => HitKey.lt (d.key st) (c.key st) = false) ∧
      ∃ left, (seen.map Hit.cand).Perm (a.cands.map (fun c => { c with slot := 0 }) ++ left) ∧
        ∀ c ∈ a.cands, ∀ d ∈ left, HitKey.lt (d.key st) (c.key st) = false) ∧
    (∀ (cs : List Cand) (route : List Hop), cs ≠ [] → (∀ c ∈ cs, (val32 c.t).isNan = false ∧ c.prim ≠ 0xFFFFFFFF ∧ c.kind < 16) → q.next < 65536 →
      let taken := (cs.filter fun c => vs c.slot != 0).map Cand.hit
      let p := taken.foldl (fun x h => x.offer h.t h.prim h.bary q.next h.kind) q
      let b := applyVerdicts q route cs vs
      q.Closest p q.next taken ∧
      ((∃ c ∈ cs, vs c.slot = 2) ∨ (p.first = true ∧ p.closest ≠ 0xFFFFFFFF) → b = ⟨p, p.reach route, [], none, .finish 4⟩) ∧
      ((∀ c ∈ cs, vs c.slot ≠ 2) → (p.first = false ∨ p.closest = 0xFFFFFFFF) → natBits q.status 0 8 = 3 →
        ∃ c, cs.getLast? = some c ∧ b = ⟨{ p with status := withState p.status 1 }, p.reach route, [], some ⟨c.t, c.prim⟩, .move q.next⟩) ∧
      ((∀ c ∈ cs, vs c.slot ≠ 2) → (p.first = false ∨ p.closest = 0xFFFFFFFF) → natBits q.status 0 8 ≠ 3 →
        b = finishOrMove p (p.reach route)))) ∧
  (∀ (q : RayRec) (h : Hop) (route : List Hop), (route.map Hop.station).Nodup →
    let hit := q.closest ≠ 0xFFFFFFFF
    let lower := fun (a b : Hop) => ltF (decodeF bf16 a.dist) (decodeF bf16 b.dist) = true
    (∀ x, x ∈ q.reach route ↔ x ∈ route ∧ ltF (val32 q.tmax) (decodeF bf16 x.dist) = false) ∧
    (finishOrMove q [] = if hit then ⟨q, [], [], none, .finish 4⟩ else ⟨{ q with status := withKind q.status 0 }, [], [], none, .finish 5⟩) ∧
    (finishOrMove q (h :: route) = if q.first = true ∧ hit then ⟨q, h :: route, [], none, .finish 4⟩
      else ⟨{ q with next := h.station, status := withState q.status 1 }, route, [], none, .move h.station⟩) ∧
    ((∀ o ∈ route, o.station ≠ h.station) → 16 ≤ route.length → addHop h route = (route, true)) ∧
    ((∀ o ∈ route, o.station ≠ h.station) → route.length < 16 →
      (addHop h route).2 = false ∧ ∀ x, x ∈ (addHop h route).1 ↔ x ∈ route ∨ x = h) ∧
    (∀ o ∈ route, o.station = h.station → (addHop h route).2 = false ∧
      (¬ lower h o → (addHop h route).1 = route) ∧ (lower h o → ∀ x, x ∈ (addHop h route).1 ↔ x = h ∨ (x ∈ route ∧ x ≠ o)))) ∧
  ∀ (s : State) (r : Ray),
    let here := fun (t : State) => t.ray r.set.addr r.set.part r.index
    here s = some r →
    (∀ o l u, s.t.life = .running → s.t.i.id = s.subject.a → s.t.i.part = r.set.part → o.id = s.subject.b → s.t.c.ops = [o] →
      s.mayPerform o = true → o.stop = none → o.work = .rays r.set.addr [(l, r.index, none)] → s.subject.c = l → s.yardFrozen = false →
      s.rayReachable r = true → s.yardReach r.set.part (s.offerReads r) (s.offerWrites r) = (u, true) → u.m.latent = [] →
      let rec_ := (u.rayRecs r).1
      (∀ ts, u.refusal r.set rec_ = (none, ts) → (s.y.scenes.any fun e => e.2.1 = r.set.part && e.2.2 = r.set.scene) = true →
        (s.y.space.any fun e => e.1 = r.set.part && e.2.1 = r.set.addr) = true → u.pinsFit r.set.part 0 = true → Answers .rayAccept s fun t =>
          here t = some { r with hitgroup := rec_.hitgroup, templates := ts, place := .platform, station := rec_.next,
                                 since := s.y.started, order := s.y.order, cands := [], verdicts := [], batches := [] } ∧
          t.t.c.ops = [] ∧ t.t.r = s.t.r ∧ t.t.d = s.t.d) ∧
      (∀ reason ts, u.refusal r.set rec_ = (some reason, ts) → Answers .rayAccept s fun t => here t = none ∧ t.t.c.ops = [])) ∧
    (s.subject = ⟨r.set.addr, r.index, r.set.part⟩ → r.place ≠ .offered → r.place ≠ .shading → s.rayReachable r = false →
      Answers .rayRecordLost s fun t => here t = none ∧ (∀ g, s.grid r.grid = some g → t.grid r.grid = some { g with error := true })) ∧
    (∀ p f, s.partOfCore s.subject.a = some p → (∀ c ∈ s.y.calls, c.core ≠ s.subject.a) → (s.core s.subject.a).failed = false →
      s.vacatingCore s.subject.a = false → s.yardFrozen = false → s.nextPlatform p = some f → Answers .stationCall s fun t =>
        t.y.calls = s.y.calls ++ [⟨s.subject.a, p.num, f.scene, f.station, (f.rays.take 4096).map fun x => (x.set.addr, x.index)⟩] ∧
        t.y.started = s.y.started + 1 ∧ t.m = s.m ∧ t.d = s.d ∧ t.t = s.t ∧
        ∀ x ∈ f.rays.take 4096, ∀ q, t.ray x.set.addr p.num x.index = some q → q.place = .inCall s.subject.a) ∧
    (∀ c, (s.y.calls.find? fun x => x.core = s.subject.a) = some c → c.part = r.set.part → c.rays = [(r.set.addr, r.index)] →
      r.place = .inCall c.core →
      let called := fun (t : State) => t.y.calls = s.y.calls.filter fun x => x.core != s.subject.a
      let reach := s.yardReach c.part (s.callReads c [r] ++ r.templateReads) r.records
      (s.vacatingCore c.core = true ∨ (s.core c.core).failed = true → Answers .callEnd s fun t =>
        called t ∧ here t = some { r with place := .platform } ∧ t.m = s.m) ∧
      (s.vacatingCore c.core = false → (s.core c.core).failed = false → s.rayReachable r = true →
        (s.yardFrozen = true → exec .callEnd s = .next s) ∧
        (∀ u, s.yardFrozen = false → reach = (u, false) → exec .callEnd s = .next u) ∧
        (∀ u, s.yardFrozen = false → reach = (u, true) → u.m.latent = [] → Answers .callEnd s fun t =>
          let x := u.rayRecs r
          let tour := match u.stationAt c.part c.scene c.station with
            | none => ⟨[], readRoute x.2, false, []⟩
            | some e => u.tourOn c e.1 e.2 r.index x.1 (readRoute x.2)
          called t ∧ (callRay c.station x.1 (readFloor x.2) tour).Settles u t r))) ∧
    (∀ b g, s.batch s.subject.a = some b → b.launched = none → s.batchReady b = true → b.members ≠ [] → s.grid b.owner = some g →
      ∀ u, s.yardFrozen = false → s.yardReach b.set.part [(b.template, 160)] [] = (u, true) → u.m.latent = [] →
      u.templateOk b.set.part b.template = true →
      let v := readLaunch (u.template b.set.part b.template)
      b.members.length ≤ v.trains * v.width → s.queued g.queue < Config.queueEntries →
      ∀ i ∈ ([.anyhitBatchLaunch, .hitBatchLaunch] : List Instr), (i = .anyhitBatchLaunch ↔ b.kind = 1) → Answers i s fun t =>
        (∃ h, t.d = { s.d with grids := s.d.grids ++ [h] } ∧ h.seq = s.q.nextSeq ∧ h.part = b.set.part ∧ h.queue = g.queue ∧
          h.launch = v ∧ h.life = .queued ∧ h.parent = some g.seq ∧ h.batch = b.num) ∧
        t.q.nextSeq = s.q.nextSeq + 1 ∧ (t.batch b.num).map Batch.launched = some (some s.q.nextSeq) ∧ t.m = u.m ∧ t.t = s.t) ∧
    (s.subject = ⟨r.set.addr, r.index, r.set.part⟩ → r.place = .anyHit → (∀ c ∈ r.cands, (s.verdict r c.slot).isSome = true) →
      s.rayReachable r = true →
      (s.yardFrozen = true → exec .verdictApply s = .next s) ∧
      (∀ u, s.yardFrozen = false → s.yardReach r.set.part r.templateReads r.records = (u, false) → exec .verdictApply s = .next u) ∧
      (∀ u, s.yardFrozen = false → s.yardReach r.set.part r.templateReads r.records = (u, true) → u.m.latent = [] →
        Answers .verdictApply s fun t =>
          let x := u.rayRecs r
          (applyVerdicts x.1 (readRoute x.2) r.cands fun slot => (u.verdict r slot).getD 0).Settles u t r))
/-- R138, R139, R150, R265, R266, R267, R271 and R273: A step makes the first act of the agenda. Where that act is the issue
boundary of the train on the issue stage, which runs, has no record to deliver, is not parked, and whose turn goes on, then: a PC
outside text raises 0x0A; an illegal packet is what `illegalInstruction` does with 0x02; a word that stands alone and decodes to an
instruction has that instruction's effect, and one that does not decode is an illegal instruction; the words of a chained group are
run as one group. What issues does so in its turn alone, as a packed train, whose split still stands where the packer found it, or
as the lead, the first eligible one from the quarter's pointer on; its group is counted, and behind the lead the pointer passes its
slot; an attempt that is held takes no turn. The moves from word to word are the instructions' own. Model choices: log 4, 9, 62, 64,
116, 120. -/
def Obligations.StepRunsDecodedWord : Prop :=
  ∀ (s : State) (rest : List Act),
    let u := { s with agenda := rest, tick := s.tick + 1 }
    (∀ i sub, s.agenda = .event i sub :: rest → step s = exec i { u with subject := sub }) ∧
    (s.agenda = .issue s.t.i.id :: rest → s.t.life = .running → s.t.pick s.matrixBit = none →
      s.t.turnOver = false → s.t.canIssue s.t.d.cur = true →
      let pc := s.t.split.pc.toNat
      let counted := u.countIssue exec s.t s.t.split
      let brings := fun (o : Host.Outcome State Fault Refusal) =>
        (∀ x, o = .next x → s.t.went x.t = true →
          step s = .next (if u.inTurn exec s.t = true then x.onCore s.t.core counted else u)) ∧
        (∀ x, o = .next x → s.t.went x.t = false → x.t.d.cur = s.t.d.cur → step s = .next (x.noteHeld s.t)) ∧
        ((∀ x, o ≠ .next x) → step s = o)
      (s.textBase s.t.i.part pc = none → brings (.next (u.raise 0x0A s.t.split.mask (memInfo 0 3 pc)))) ∧
      (∀ base a b c, s.textBase s.t.i.part pc = some base →
        let v := { u with m := u.m.meetRange s.t.i.part (pc - (pc - base) % 12) 12 }
        v.packet s.t.i.part (pc - (pc - base) % 12) = (a, b, c) →
        (packetBad a b c = true → brings (exec (.illegalInstruction true a) v)) ∧
        (packetBad a b c = false →
          let f := groupAt a b c ((pc - base) % 12 / 4)
          (∀ w lit i, f.words = [(w, lit)] → decode w lit = some i → brings (exec i v)) ∧
          (∀ w lit, f.words = [(w, lit)] → decode w lit = none → brings (exec (.illegalInstruction false w) v)) ∧
          (f.words = [] → brings (exec (.illegalInstruction false (if (pc - base) % 12 = 4 then b else c)) v)) ∧
          (1 < f.words.length → brings (runGroup exec f v)))) ∧
      let pack := u.pack exec s.t
      (u.inTurn exec s.t = true ↔ if pack = [] then u.withheld s.t.core = false ∧
          ∀ v ∈ u.mates s.t, (u.issuing exec v).isSome = true → s.seatBehind s.t ≤ s.seatBehind v
        else ∃ e ∈ pack, e.id = s.t.i.id) ∧
      (∀ e, e ∈ pack ↔ e ∈ (s.core s.t.core).packs.getD s.t.quarter [] ∧ ∃ v sp, u.train e.id = some v ∧ v.life = .running ∧
        v.core = s.t.core ∧ v.quarter = s.t.quarter ∧ u.issuing exec v = some sp ∧ sp.pc = e.pc ∧ sp.half.map Half.left = e.left ∧
        sp.sync.isSome = e.sync ∧ sp.cars ≤ e.cars) ∧
      (∀ c : CoreSt, (counted c).issues = c.issues + 1 ∧ if pack = []
        then (counted c).pointers = c.pointers.set s.t.quarter ((s.t.seat + 1) % 32) ∧ (counted c).packed = c.packed
        else (counted c).pointers = c.pointers ∧ (counted c).packed = c.packed + 1))

/-- R249, R255, R265, R268, R275, R276, R277, R278, R280, R281, R282 and R284: The words that the spec's encodings, the memory
opcodes of R279 among them, give for these instructions decode to them, and the instructions encode to these words; an atomic's are
two, the second its literal. -/
def Obligations.WordsOfTheSpec : Prop :=
  (∀ p ∈ ([(0x00000000, .nop ⟨false, 0⟩), (0x040142FF, .addi ⟨false, 0⟩ 5 5 0x7F), (0x0441C409, .bfx ⟨false, 0⟩ 7 8 9),
    (0x0523062A, .lea ⟨false, 0⟩ 12 12 42), (0x0542450B, .sel ⟨false, 0⟩ 9 10 11), (0x0560FFFF, .movi ⟨false, 0⟩ 3 0x3FFF),
    (0x07A0C280, .cmpiLtI32 ⟨false, 0⟩ 3 5 0), (0x0C20C203, .frnd ⟨false, 0⟩ 3 4 3), (0x0C48100D, .fcvt ⟨false, 0⟩ 32 32 0 13),
    (0x106E9C3A, .sadd ⟨false, 0⟩ 58 56 58), (0x1200C485, .rdln ⟨false, 0⟩ 3 9 5), (0x12808103, .pandn ⟨false, 0⟩ 2 2 3),
    (0x13014001, .pset ⟨false, 0⟩ 5 1), (0x14C28280, .ballot ⟨false, 0⟩ 10 5), (0x1560C000, .elect ⟨false, 0⟩ 3),
    (0x15E00280, .jmpi ⟨false, 0⟩ 5), (0x16600000, .idem false), (0x16800123, .trap ⟨false, 0⟩ 0x123), (0x16C14008, .barArrive false 5 2),
    (0x17800100, .wait false 1 0), (0x17A00004, .fence ⟨false, 0⟩ 4), (0x17C00000, .yield ⟨false, 0⟩),
    (0x1901C523, .ldgAcq ⟨false, 0⟩ 7 5 1 0 3), (0x1C410509, .tscat ⟨false, 0⟩ 4 10 1 1), (0x1D204311, .rayq ⟨false, 0⟩ 1 6 2 1),
    (0x1D420000, .cand ⟨false, 0⟩ 8), (0x1E1E1020, .rdst ⟨false, 0⟩ 120 1 0x020), (0x1E224010, .wrst ⟨false, 0⟩ 9 0 0x010),
    (0x1E400001, .eretReplay false), (0x1F008000, .quies false 2)] : List (Word × Instr)),
    decodeWords [p.1] = some (p.2, 1) ∧ encode p.2 = [p.1]) ∧
  decodeWords [0x19E14506, 0x00087000] = some (.atom ⟨false, 0⟩ 5 10 6 0x00087000, 2) ∧
  encode (.atom ⟨false, 0⟩ 5 10 6 0x00087000) = [0x19E14506, 0x00087000]

/-- R80, R124, R31, R186, R135 and R150: As the state stands before bring-up the device is coming up, with no partition, grid, train
or mapping; the epoch is 0, the first sequence number 1; memory, in its canonical form, lists nothing. That unlisted memory reads 0,
and the values that the spec does not give, are the model's choice. Model choices: log 1, 2. -/
def Obligations.ResetState : Prop :=
  let s := State.reset
  s.k.phase = .comingUp ∧ s.m.epoch = 0 ∧ s.q.nextSeq = 1 ∧ s.q.parts = [] ∧ s.q.images = [] ∧ s.q.events = [] ∧ s.q.descs = [] ∧
  s.d = ⟨[], [], [], []⟩ ∧ s.o = ⟨[], []⟩ ∧ s.m.maps = [] ∧ s.m.tier = [] ∧ s.m.poison = [] ∧ s.rest = [] ∧ s.t.life = .ended ∧
  s.t.x.priv = false ∧ s.t.x.now = TrapRegs.reset ∧ s.t.x.grace = 65536 ∧ s.t.d.quantum = 16 ∧ Memory.wf s.m.mem = true ∧ s.m.mem = []

/-- R265, R266, R268, R269, R270 and R272: The words of every well-formed instruction of the opcode table, whatever its operands and
whatever text follows them, decode to that instruction and to no other, and the decoder takes exactly its words: two where the
instruction has a literal, else one. -/
def Obligations.DecodeEncode : Prop :=
  ∀ (i : Instr) (rest : List Word), i.isWord = true → i.wellFormed = true →
    decodeWords (encode i ++ rest) = some (i, (encode i).length) ∧ ((encode i).length = 2 ↔ (literalOf i).isSome = true)

/-- R265, R268 and R272: Two words never stand for one instruction: what a word decodes to is well formed, is an instruction of the
opcode table, and encodes to that word, with the literal where it takes one. -/
def Obligations.EncodeDecode : Prop :=
  ∀ (w lit : Word) (i : Instr), decode w lit = some i →
    i.isWord = true ∧ i.wellFormed = true ∧ encode i = (if takesLiteralOp (fld w 21 8).toNat = true then [w, lit] else [w])

/-- R4 and R57: From every state whose memory has its canonical form, addresses strictly rising and no byte listed that reads 0
anyway, a step that answers a next state leaves memory in that form, so that equal memories are equal data. The form is the model's
own. Model choices: log 1. -/
def Obligations.StepKeepsMemoryForm : Prop :=
  ∀ s t : State, Memory.wf s.m.mem = true → step s = .next t → Memory.wf t.m.mem = true

/-- R272, R273, R3, R137, R269, R181 and R186: A word that is not well formed raises 0x01, whatever else is wrong with it; a
privileged word in user mode raises 0x03, whatever registers it names; a word that names a register or tile outside its role's
budget raises 0x04. Each is a record of the whole split with the word as TRAPINFO, and nothing else changes. -/
def Obligations.WordChecks : Prop :=
  ∀ (s : State) (c : Ctl) (k : Bool) (d a b : Fld) (kind form : BitVec 2) (reg : BitVec 12) (lit : Word)
    (zt : BitVec 2),
    s.t.Lone → s.Issuing → s.t.x.priv = false →
    let record := fun (i : Instr) (cause : BitVec 8) => s.onT fun u => u.setSplit { u.split with recs :=
      [⟨cause, u.split.mask, (wordOf i).zeroExtend 64, u.split.pc, u.split.region, u.split.count, u.c.issued, false⟩] }
    (∀ i : Instr, i.isWord = true → i.wellFormed = false → exec i s = .next (record i 0x01)) ∧
    (∀ i ∈ ([.tinv k a kind, .csave k, .crest k, .zsave k a, .zload k a, .eret k, .eretReplay k, .quies k d] : List Instr),
      i.wellFormed = true → exec i s = .next (record i 0x03)) ∧
    (privilegedReg reg.toNat = true → (Instr.wrst c d form reg).wellFormed = true →
      exec (.wrst c d form reg) s = .next (record (.wrst c d form reg) 0x03)) ∧
    (∀ p ∈ ([(.add c d a b, needs3 d a b), (.addS c d a b, needs3S d a b), (.addB64 c d a b, needsPair d a b), (.movk c d lit, [Need.v d.toNat 0]),
        (.cmpEq c d a b, needsCmp d a b), (.fadd c d a b, needs3 d a b), (.sadd c d a b, [Need.s d.toNat 0, Need.s a.toNat 0, Need.s b.toNat 0]),
        (.rdln c d a 0, [Need.s d.toNat 0, Need.v a.toNat 0]), (.pand c d a b, needsP d a b), (.guard c 0 a, [Need.p a.toNat]),
        (.shflIdx c d a b, needs3 d a b), (.jmpi c a, [Need.s a.toNat 0]), (.barArrive k d 0, [Need.p d.toNat]),
        (.cand c d, [Need.v d.toNat 3]), (.zclr c zt, [Need.z zt.toNat])] : List (Instr × List Need)),
      p.1.wellFormed = true → (∃ n ∈ p.2, s.t.inBudget n = false) → exec p.1 s = .next (record p.1 0x04))
end

