-- ==== Sys2Proof/Laws/State.lean ====
section
/-! SUPPORT. The fields of the state after the named updates: one lemma a field, true by definition. -/
namespace Sys2Proof.Machine

/-! ### `State.onT` changes the train on the issue stage alone. -/

@[simp] theorem State.onT_t (s : State) (f : Train → Train) : (s.onT f).t = f s.t := rfl
@[simp] theorem State.onT_rest (s : State) (f : Train → Train) : (s.onT f).rest = s.rest := rfl
@[simp] theorem State.onT_nextTrain (s : State) (f : Train → Train) : (s.onT f).nextTrain = s.nextTrain := rfl
@[simp] theorem State.onT_agenda (s : State) (f : Train → Train) : (s.onT f).agenda = s.agenda := rfl
@[simp] theorem State.onT_subject (s : State) (f : Train → Train) : (s.onT f).subject = s.subject := rfl
@[simp] theorem State.onT_tick (s : State) (f : Train → Train) : (s.onT f).tick = s.tick := rfl
@[simp] theorem State.onT_m (s : State) (f : Train → Train) : (s.onT f).m = s.m := rfl
@[simp] theorem State.onT_q (s : State) (f : Train → Train) : (s.onT f).q = s.q := rfl
@[simp] theorem State.onT_d (s : State) (f : Train → Train) : (s.onT f).d = s.d := rfl
@[simp] theorem State.onT_o (s : State) (f : Train → Train) : (s.onT f).o = s.o := rfl
@[simp] theorem State.onT_y (s : State) (f : Train → Train) : (s.onT f).y = s.y := rfl
@[simp] theorem State.onT_k (s : State) (f : Train → Train) : (s.onT f).k = s.k := rfl

/-! ### `Train.withR` -/

@[simp] theorem Train.withR_i (t : Train) (r : Regs) : (t.withR r).i = t.i := rfl
@[simp] theorem Train.withR_life (t : Train) (r : Regs) : (t.withR r).life = t.life := rfl
@[simp] theorem Train.withR_core (t : Train) (r : Regs) : (t.withR r).core = t.core := rfl
@[simp] theorem Train.withR_quarter (t : Train) (r : Regs) : (t.withR r).quarter = t.quarter := rfl
@[simp] theorem Train.withR_seat (t : Train) (r : Regs) : (t.withR r).seat = t.seat := rfl
@[simp] theorem Train.withR_r (t : Train) (r : Regs) : (t.withR r).r = r := rfl
@[simp] theorem Train.withR_d (t : Train) (r : Regs) : (t.withR r).d = t.d := rfl
@[simp] theorem Train.withR_x (t : Train) (r : Regs) : (t.withR r).x = t.x := rfl
@[simp] theorem Train.withR_c (t : Train) (r : Regs) : (t.withR r).c = t.c := rfl
@[simp] theorem Train.withR_m (t : Train) (r : Regs) : (t.withR r).m = t.m := rfl
@[simp] theorem Train.withR_w (t : Train) (r : Regs) : (t.withR r).w = t.w := rfl
@[simp] theorem Train.withR_y (t : Train) (r : Regs) : (t.withR r).y = t.y := rfl
@[simp] theorem Train.withR_group (t : Train) (r : Regs) : (t.withR r).group = t.group := rfl
@[simp] theorem Train.withR_pins (t : Train) (r : Regs) : (t.withR r).pins = t.pins := rfl
@[simp] theorem Train.withR_kept (t : Train) (r : Regs) : (t.withR r).kept = t.kept := rfl
@[simp] theorem Train.withR_priv (t : Train) (r : Regs) : (t.withR r).priv = t.priv := rfl
@[simp] theorem Train.withR_privBad (t : Train) (r : Regs) : (t.withR r).privBad = t.privBad := rfl

/-! ### `Train.setPriv` -/

@[simp] theorem Train.setPriv_i (t : Train) (lane off : Nat) (b : List Byte) : (t.setPriv lane off b).i = t.i := rfl
@[simp] theorem Train.setPriv_life (t : Train) (lane off : Nat) (b : List Byte) : (t.setPriv lane off b).life = t.life := rfl
@[simp] theorem Train.setPriv_core (t : Train) (lane off : Nat) (b : List Byte) : (t.setPriv lane off b).core = t.core := rfl
@[simp] theorem Train.setPriv_quarter (t : Train) (lane off : Nat) (b : List Byte) : (t.setPriv lane off b).quarter = t.quarter := rfl
@[simp] theorem Train.setPriv_seat (t : Train) (lane off : Nat) (b : List Byte) : (t.setPriv lane off b).seat = t.seat := rfl
@[simp] theorem Train.setPriv_r (t : Train) (lane off : Nat) (b : List Byte) : (t.setPriv lane off b).r = t.r := rfl
@[simp] theorem Train.setPriv_d (t : Train) (lane off : Nat) (b : List Byte) : (t.setPriv lane off b).d = t.d := rfl
@[simp] theorem Train.setPriv_x (t : Train) (lane off : Nat) (b : List Byte) : (t.setPriv lane off b).x = t.x := rfl
@[simp] theorem Train.setPriv_c (t : Train) (lane off : Nat) (b : List Byte) : (t.setPriv lane off b).c = t.c := rfl
@[simp] theorem Train.setPriv_m (t : Train) (lane off : Nat) (b : List Byte) : (t.setPriv lane off b).m = t.m := rfl
@[simp] theorem Train.setPriv_w (t : Train) (lane off : Nat) (b : List Byte) : (t.setPriv lane off b).w = t.w := rfl
@[simp] theorem Train.setPriv_y (t : Train) (lane off : Nat) (b : List Byte) : (t.setPriv lane off b).y = t.y := rfl
@[simp] theorem Train.setPriv_group (t : Train) (lane off : Nat) (b : List Byte) : (t.setPriv lane off b).group = t.group := rfl
@[simp] theorem Train.setPriv_pins (t : Train) (lane off : Nat) (b : List Byte) : (t.setPriv lane off b).pins = t.pins := rfl
@[simp] theorem Train.setPriv_kept (t : Train) (lane off : Nat) (b : List Byte) : (t.setPriv lane off b).kept = t.kept := rfl
@[simp] theorem Train.setPriv_priv (t : Train) (lane off : Nat) (b : List Byte) : (t.setPriv lane off b).priv = Table.setList 0 t.priv (privKey lane off) b := rfl
@[simp] theorem Train.setPriv_privBad (t : Train) (lane off : Nat) (b : List Byte) : (t.setPriv lane off b).privBad = t.privBad.filter (fun w => !(privKey lane off ≤ w * 32 && w * 32 + 32 ≤ privKey lane off + b.length)) := rfl

/-! ### `Train.setSlot` -/

@[simp] theorem Train.setSlot_i (t : Train) (one : Bool) (sp : Split) : (t.setSlot one sp).i = t.i := by cases one <;> rfl
@[simp] theorem Train.setSlot_life (t : Train) (one : Bool) (sp : Split) : (t.setSlot one sp).life = t.life := by cases one <;> rfl
@[simp] theorem Train.setSlot_core (t : Train) (one : Bool) (sp : Split) : (t.setSlot one sp).core = t.core := by cases one <;> rfl
@[simp] theorem Train.setSlot_quarter (t : Train) (one : Bool) (sp : Split) : (t.setSlot one sp).quarter = t.quarter := by cases one <;> rfl
@[simp] theorem Train.setSlot_seat (t : Train) (one : Bool) (sp : Split) : (t.setSlot one sp).seat = t.seat := by cases one <;> rfl
@[simp] theorem Train.setSlot_r (t : Train) (one : Bool) (sp : Split) : (t.setSlot one sp).r = t.r := by cases one <;> rfl
@[simp] theorem Train.setSlot_x (t : Train) (one : Bool) (sp : Split) : (t.setSlot one sp).x = t.x := by cases one <;> rfl
@[simp] theorem Train.setSlot_c (t : Train) (one : Bool) (sp : Split) : (t.setSlot one sp).c = t.c := by cases one <;> rfl
@[simp] theorem Train.setSlot_m (t : Train) (one : Bool) (sp : Split) : (t.setSlot one sp).m = t.m := by cases one <;> rfl
@[simp] theorem Train.setSlot_w (t : Train) (one : Bool) (sp : Split) : (t.setSlot one sp).w = t.w := by cases one <;> rfl
@[simp] theorem Train.setSlot_y (t : Train) (one : Bool) (sp : Split) : (t.setSlot one sp).y = t.y := by cases one <;> rfl
@[simp] theorem Train.setSlot_group (t : Train) (one : Bool) (sp : Split) : (t.setSlot one sp).group = t.group := by cases one <;> rfl
@[simp] theorem Train.setSlot_pins (t : Train) (one : Bool) (sp : Split) : (t.setSlot one sp).pins = t.pins := by cases one <;> rfl
@[simp] theorem Train.setSlot_kept (t : Train) (one : Bool) (sp : Split) : (t.setSlot one sp).kept = t.kept := by cases one <;> rfl
@[simp] theorem Train.setSlot_priv (t : Train) (one : Bool) (sp : Split) : (t.setSlot one sp).priv = t.priv := by cases one <;> rfl
@[simp] theorem Train.setSlot_privBad (t : Train) (one : Bool) (sp : Split) : (t.setSlot one sp).privBad = t.privBad := by cases one <;> rfl
@[simp] theorem Train.setSlot_d_cur (t : Train) (one : Bool) (sp : Split) : (t.setSlot one sp).d.cur = t.d.cur := by cases one <;> rfl
@[simp] theorem Train.setSlot_d_used (t : Train) (one : Bool) (sp : Split) : (t.setSlot one sp).d.used = t.d.used := by cases one <;> rfl
@[simp] theorem Train.setSlot_d_quantum (t : Train) (one : Bool) (sp : Split) : (t.setSlot one sp).d.quantum = t.d.quantum := by cases one <;> rfl
@[simp] theorem Train.setSlot_d_limit (t : Train) (one : Bool) (sp : Split) : (t.setSlot one sp).d.limit = t.d.limit := by cases one <;> rfl
@[simp] theorem Train.setSlot_d_exited (t : Train) (one : Bool) (sp : Split) : (t.setSlot one sp).d.exited = t.d.exited := by cases one <;> rfl
@[simp] theorem Train.setSlot_d_depth (t : Train) (one : Bool) (sp : Split) : (t.setSlot one sp).d.depth = t.d.depth := by cases one <;> rfl
@[simp] theorem Train.setSlot_d_siding (t : Train) (one : Bool) (sp : Split) : (t.setSlot one sp).d.siding = t.d.siding := by cases one <;> rfl
@[simp] theorem Train.setSlot_d_joins (t : Train) (one : Bool) (sp : Split) : (t.setSlot one sp).d.joins = t.d.joins := by cases one <;> rfl
@[simp] theorem Train.slot_setSlot_self (t : Train) (one : Bool) (sp : Split) : (t.setSlot one sp).slot one = sp := by cases one <;> rfl
@[simp] theorem Train.slot_setSlot_not (t : Train) (one : Bool) (sp : Split) : (t.setSlot one sp).slot (!one) = t.slot (!one) := by cases one <;> rfl
theorem Train.split_eq_slot (t : Train) : t.split = t.slot t.d.cur := rfl
theorem Train.setSplit_eq (t : Train) (sp : Split) : t.setSplit sp = t.setSlot t.d.cur sp := rfl
/-- The divergence state after a split is put back depends on the divergence state before alone. -/
theorem Train.setSplit_d_congr {t u : Train} (sp : Split) (h : t.d = u.d) : (t.setSplit sp).d = (u.setSplit sp).d := by
  unfold Train.setSplit Train.setSlot; rw [h]; cases u.d.cur <;> simp
@[simp] theorem Train.split_setSplit (t : Train) (sp : Split) : (t.setSplit sp).split = sp := by unfold Train.setSplit Train.split; cases h : t.d.cur <;> simp [Train.setSlot, h]
@[simp] theorem Train.setSplit_i (t : Train) (sp : Split) : (t.setSplit sp).i = t.i := by simp [Train.setSplit]
@[simp] theorem Train.setSplit_life (t : Train) (sp : Split) : (t.setSplit sp).life = t.life := by simp [Train.setSplit]
@[simp] theorem Train.setSplit_core (t : Train) (sp : Split) : (t.setSplit sp).core = t.core := by simp [Train.setSplit]
@[simp] theorem Train.setSplit_quarter (t : Train) (sp : Split) : (t.setSplit sp).quarter = t.quarter := by simp [Train.setSplit]
@[simp] theorem Train.setSplit_seat (t : Train) (sp : Split) : (t.setSplit sp).seat = t.seat := by simp [Train.setSplit]
@[simp] theorem Train.setSplit_r (t : Train) (sp : Split) : (t.setSplit sp).r = t.r := by simp [Train.setSplit]
@[simp] theorem Train.setSplit_x (t : Train) (sp : Split) : (t.setSplit sp).x = t.x := by simp [Train.setSplit]
@[simp] theorem Train.setSplit_c (t : Train) (sp : Split) : (t.setSplit sp).c = t.c := by simp [Train.setSplit]
@[simp] theorem Train.setSplit_m (t : Train) (sp : Split) : (t.setSplit sp).m = t.m := by simp [Train.setSplit]
@[simp] theorem Train.setSplit_w (t : Train) (sp : Split) : (t.setSplit sp).w = t.w := by simp [Train.setSplit]
@[simp] theorem Train.setSplit_y (t : Train) (sp : Split) : (t.setSplit sp).y = t.y := by simp [Train.setSplit]
@[simp] theorem Train.setSplit_group (t : Train) (sp : Split) : (t.setSplit sp).group = t.group := by simp [Train.setSplit]
@[simp] theorem Train.setSplit_pins (t : Train) (sp : Split) : (t.setSplit sp).pins = t.pins := by simp [Train.setSplit]
@[simp] theorem Train.setSplit_kept (t : Train) (sp : Split) : (t.setSplit sp).kept = t.kept := by simp [Train.setSplit]
@[simp] theorem Train.setSplit_priv (t : Train) (sp : Split) : (t.setSplit sp).priv = t.priv := by simp [Train.setSplit]
@[simp] theorem Train.setSplit_privBad (t : Train) (sp : Split) : (t.setSplit sp).privBad = t.privBad := by simp [Train.setSplit]
@[simp] theorem Train.setSplit_d_cur (t : Train) (sp : Split) : (t.setSplit sp).d.cur = t.d.cur := by simp [Train.setSplit]
@[simp] theorem Train.setSplit_d_used (t : Train) (sp : Split) : (t.setSplit sp).d.used = t.d.used := by simp [Train.setSplit]
@[simp] theorem Train.setSplit_d_quantum (t : Train) (sp : Split) : (t.setSplit sp).d.quantum = t.d.quantum := by simp [Train.setSplit]
@[simp] theorem Train.setSplit_d_limit (t : Train) (sp : Split) : (t.setSplit sp).d.limit = t.d.limit := by simp [Train.setSplit]
@[simp] theorem Train.setSplit_d_exited (t : Train) (sp : Split) : (t.setSplit sp).d.exited = t.d.exited := by simp [Train.setSplit]
@[simp] theorem Train.setSplit_d_depth (t : Train) (sp : Split) : (t.setSplit sp).d.depth = t.d.depth := by simp [Train.setSplit]
@[simp] theorem Train.setSplit_d_siding (t : Train) (sp : Split) : (t.setSplit sp).d.siding = t.d.siding := by simp [Train.setSplit]
@[simp] theorem Train.setSplit_d_joins (t : Train) (sp : Split) : (t.setSplit sp).d.joins = t.d.joins := by simp [Train.setSplit]

/-! ### `Div.take` -/

@[simp] theorem Div.take_slot0 (d : Div) (c : Bool) : (d.take c).slot0 = d.slot0 := rfl
@[simp] theorem Div.take_slot1 (d : Div) (c : Bool) : (d.take c).slot1 = d.slot1 := rfl
@[simp] theorem Div.take_cur (d : Div) (c : Bool) : (d.take c).cur = c := rfl
@[simp] theorem Div.take_used (d : Div) (c : Bool) : (d.take c).used = 0 := rfl
@[simp] theorem Div.take_quantum (d : Div) (c : Bool) : (d.take c).quantum = d.quantum := rfl
@[simp] theorem Div.take_limit (d : Div) (c : Bool) : (d.take c).limit = d.quantum := rfl
@[simp] theorem Div.take_exited (d : Div) (c : Bool) : (d.take c).exited = d.exited := rfl
@[simp] theorem Div.take_depth (d : Div) (c : Bool) : (d.take c).depth = d.depth := rfl
@[simp] theorem Div.take_siding (d : Div) (c : Bool) : (d.take c).siding = d.siding := rfl
@[simp] theorem Div.take_joins (d : Div) (c : Bool) : (d.take c).joins = d.joins := rfl

end Sys2Proof.Machine
end

