-- ==== Sys2Proof/Laws/Split.lean ====
section
/-! SUPPORT. What merges, pops, turns and departures can do: they change the divergence state alone, and never which lanes have
exited or QUANTUM. -/
namespace Sys2Proof.Machine

/-- The train `u` is `t` but for its live slots, siding and turn: what `settle` may change. -/
def Settled (t u : Train) : Prop := ∃ d : Div, u = { t with d := d } ∧ d.exited = t.d.exited ∧ d.quantum = t.d.quantum

theorem Settled.refl (t : Train) : Settled t t := ⟨t.d, rfl, rfl, rfl⟩

theorem Settled.trans {t u v : Train} (h : Settled t u) (k : Settled u v) : Settled t v := by
  obtain ⟨d, rfl, hx, hq⟩ := h
  obtain ⟨e, rfl, kx, kq⟩ := k
  exact ⟨e, rfl, kx.trans hx, kq.trans hq⟩

theorem settled_of_d (t : Train) (d : Div) (hx : d.exited = t.d.exited) (hq : d.quantum = t.d.quantum) :
    Settled t { t with d := d } := ⟨d, rfl, hx, hq⟩

theorem settled_setSlot (t : Train) (one : Bool) (sp : Split) : Settled t (t.setSlot one sp) := by
  cases one <;> exact settled_of_d t _ rfl rfl

theorem settled_setSplit (t : Train) (sp : Split) : Settled t (t.setSplit sp) := settled_setSlot t _ sp

theorem settled_noteJoin (t : Train) (m : Mask) : Settled t (t.noteJoin m) := settled_of_d t _ rfl rfl

theorem settled_drop (t : Train) : Settled t t.drop := settled_of_d t _ rfl rfl

theorem settled_settleStep {t u : Train} {b : Bool} (h : t.settleStep b = some u) : Settled t u := by
  unfold Train.settleStep at h
  split at h
  · injection h with h; subst h
    exact ((settled_setSlot t _ _).trans (settled_setSlot _ _ _)).trans (settled_noteJoin _ _)
  · split at h
    · cases h
    · dsimp only at h
      split at h
      · cases h
      · split at h
        · split at h
          · injection h with h; subst h; exact settled_drop t
          · injection h with h; subst h; exact (settled_drop t).trans (settled_setSlot _ _ _)
        · split at h
          · split at h
            · injection h with h; subst h; exact settled_drop t
            · injection h with h; subst h
              exact ((settled_drop t).trans (settled_setSlot _ _ _)).trans (settled_noteJoin _ _)
          · cases h

theorem settled_settleN (b : Bool) (n : Nat) (t : Train) : Settled t (Train.settleN b n t) := by
  induction n generalizing t with
  | zero => exact Settled.refl t
  | succ n ih =>
    unfold Train.settleN
    split
    · exact Settled.refl t
    · exact (settled_settleStep ‹_›).trans (ih _)

theorem settled_release (t : Train) : Settled t t.release := settled_of_d t _ rfl rfl

theorem settled_stuckRecord (t : Train) : Settled t t.stuckRecord := by
  unfold Train.stuckRecord
  dsimp only
  split
  · exact Settled.refl t
  · exact settled_setSlot _ _ _

theorem settled_turn (t : Train) : Settled t t.turn := by
  unfold Train.turn
  split
  · exact settled_of_d t _ rfl rfl
  · exact Settled.refl t

/-- Merges, pops, the coupling and stuck tests and the turn change the divergence state alone (R150, R154, R159, R160). -/
theorem settled_settle (t : Train) : Settled t t.settle := by
  unfold Train.settle
  dsimp only
  refine Settled.trans ?_ (settled_turn _)
  have h := (settled_settleN t.d.cur 400 t).trans (settled_release _)
  split
  · exact h.trans (settled_stuckRecord _)
  · exact h

theorem Settled.live {t u : Train} (h : Settled t u) : u.live = t.live := by
  obtain ⟨d, rfl, hx, _⟩ := h
  simp only [Train.live, Train.all, hx]

theorem settled_region (t : Train) (first : Dword) (ends idem : Bool) : Settled t (t.region first ends idem) := by
  unfold Train.region
  dsimp only
  split
  · exact settled_setSplit _ _
  · split
    · exact settled_setSplit _ _
    · exact Settled.refl t

theorem settled_depart_on (t : Train) (first next : Dword) (ends idem : Bool) : Settled t (t.depart first next .on ends idem) :=
  (settled_region t first ends idem).trans (settled_setSplit _ _)

theorem settled_depart_stay (t : Train) (first next : Dword) (ends idem : Bool) : Settled t (t.depart first next .stay ends idem) :=
  (settled_region t first ends idem).trans (settled_setSplit _ _)

/-- A word or group that goes on at the next word: the train keeps all but its divergence state, and one more group has issued. -/
theorem finish_on (t : Train) (first next : Dword) (ends idem yields : Bool) (n : Nat) :
    Settled { t with c := { t.c with issued := t.c.issued + 1 }, group := none }
      (t.finish first next .on ends idem yields n) := by
  obtain ⟨d, ha, hx, hq⟩ := settled_depart_on t first next ends idem
  unfold Train.finish
  simp only [Leave.whole, if_true, ha]
  refine Settled.trans (settled_of_d _ { d with used := d.used + n } hx hq) ?_
  refine (settled_settle _).trans ?_
  split
  · exact settled_of_d _ _ rfl rfl
  · exact Settled.refl _

end Sys2Proof.Machine
end

