-- ==== Sys2Proof/Laws/Lone.lean ====
section
/-! SUPPORT. A train whose current split stands alone: nothing merges, pops or takes the turn, so a group leaves exactly what its
departure says (R150, R154). -/
namespace Sys2Proof.Machine

/-- Nothing merges or pops while the other slot is empty and no siding entry of the mode stands. -/
theorem settle_lone {t : Train} (ho : (t.slot (!t.d.cur)).mask = 0) (hd : t.d.depth ≤ t.base) (hh : t.split.held = false)
    (hl : t.live ≠ 0) : t.settle = t := by
  have hm : t.mergeable = false := by
    unfold Train.mergeable
    unfold Train.slot at ho
    cases hc : t.d.cur <;> simp [hc] at ho <;> simp [ho]
  have hs : t.settleStep t.d.cur = none := by
    unfold Train.settleStep
    simp [hm, hd]
  have hn : Train.settleN t.d.cur 400 t = t := by
    unfold Train.settleN
    rw [hs]
  have hw : ∀ sp : Split, sp.mask = 0 → t.whole sp = false := by
    intro sp hsp
    unfold Train.whole
    rw [hsp]
    exact beq_eq_false_iff_ne.mpr fun h => hl h.symm
  have hr : t.release = t := by
    unfold Train.release
    unfold Train.slot at ho
    unfold Train.split at hh
    cases hc : t.d.cur
    · simp [hc] at ho hh
      have := hw t.d.slot1 ho
      simp [this, hh]
    · simp [hc] at ho hh
      have := hw t.d.slot0 ho
      simp [this, hh]
  have hk : t.stuck = false := by
    unfold Train.stuck
    unfold Train.slot at ho
    unfold Train.split at hh
    cases hc : t.d.cur <;> simp [hc] at ho hh <;> simp [ho, hh]
  have ht : t.turn = t := by
    unfold Train.turn Train.canIssue
    simp [ho]
  unfold Train.settle
  simp only [hn, hr, hk]
  simpa using ht

/-- Where a split goes on behind a word or group of `len` bytes. -/
def Split.onward (sp : Split) (len : Dword) (ends idem : Bool) : Split :=
  { sp with
    pc := sp.pc + len,
    region := if ends = true then sp.pc + len else if idem = true then sp.pc else sp.region,
    count := if ends = true ∨ idem = true then sp.count + 1 else sp.count }

@[simp] theorem Split.onward_after (sp : Split) (len : Dword) : sp.onward len false false = sp.after len := rfl
@[simp] theorem Split.onward_ending (sp : Split) (len : Dword) (idem : Bool) : sp.onward len true idem = sp.afterEnding len := by
  simp [Split.onward, Split.afterEnding]

/-- The departure to the next word of a split none of whose words is still to come. -/
theorem depart_on {t : Train} (len : Dword) (ends idem : Bool) (hh : t.split.half = none) :
    t.depart t.split.pc (t.split.pc + len) .on ends idem = t.setSplit (t.split.onward len ends idem) := by
  simp only [Train.depart, Train.goOn, Train.region, regionAt, Split.onward]
  unfold Train.split at hh ⊢
  unfold Train.setSplit Train.setSlot
  cases hc : t.d.cur <;> cases ends <;> cases idem <;> simp [hc] at hh ⊢ <;> simp [hh]

/-- What is left of a train once a group of its lone split has gone on at `sp`. -/
theorem settle_departed {t : Train} (sp : Split) (n : Nat) (hs : sp.held = false) (ho : (t.slot (!t.d.cur)).mask = 0)
    (hd : t.d.depth ≤ t.base) (hl : t.live ≠ 0) :
    let u : Train := { t.setSplit sp with
      d := { (t.setSplit sp).d with used := (t.setSplit sp).d.used + n }, c := { (t.setSplit sp).c with issued := (t.setSplit sp).c.issued + 1 },
      group := none }
    u.settle = u ∧ u.canIssue (!u.d.cur) = false := by
  refine ⟨settle_lone ?_ ?_ ?_ ?_, ?_⟩
  · unfold Train.slot at ho ⊢
    unfold Train.setSplit Train.setSlot
    cases hc : t.d.cur <;> simp [hc] at ho ⊢ <;> exact ho
  · unfold Train.base at hd ⊢
    unfold Train.setSplit Train.setSlot
    cases hc : t.d.cur <;> simpa using hd
  · unfold Train.split Train.setSplit Train.setSlot
    cases hc : t.d.cur <;> simpa [hc] using hs
  · unfold Train.live Train.all at hl ⊢
    unfold Train.setSplit Train.setSlot
    cases hc : t.d.cur <;> simpa using hl
  · unfold Train.canIssue Train.slot
    unfold Train.slot at ho
    unfold Train.setSplit Train.setSlot
    cases hc : t.d.cur <;> simp [hc] at ho ⊢ <;> simp [ho]

theorem endIfExited_of_live {s : State} (h : s.t.live ≠ 0) : s.endIfExited = s := by
  unfold State.endIfExited
  rw [if_neg]
  simp only [Bool.and_eq_true, decide_eq_true_eq]
  exact fun hk => h hk.1

/-- A word that stands alone, of a split that stands alone, and that goes on at the next word (R150, R154, R266). -/
theorem conclude_lone {s : State} (ends idem yields : Bool) (len : Dword) (hg : s.t.group = none) (hl : s.t.live ≠ 0) (h : s.t.Lone) :
    s.conclude .on ends idem yields len = Next s (s.t.split.onward len ends idem) := by
  obtain ⟨ho, hd, hm, hh, ha, hr, hhalf⟩ := h
  unfold State.conclude State.finish
  rw [hg]
  dsimp only
  obtain ⟨h1, h2⟩ := settle_departed (t := s.t) (s.t.split.onward len ends idem) 1 hh ho hd hl
  have key : s.t.finish s.t.split.pc (s.t.split.pc + len) .on ends idem yields 1 =
      { s.t.setSplit (s.t.split.onward len ends idem) with
        d := { (s.t.setSplit (s.t.split.onward len ends idem)).d with used := (s.t.setSplit (s.t.split.onward len ends idem)).d.used + 1 },
        c := { (s.t.setSplit (s.t.split.onward len ends idem)).c with
          issued := (s.t.setSplit (s.t.split.onward len ends idem)).c.issued + 1 }, group := none } := by
    unfold Train.finish
    rw [depart_on len ends idem hhalf]
    dsimp only at h1 h2 ⊢
    simp only [Leave.whole, if_true]
    rw [h1, h2]
    simp
  unfold State.onT
  dsimp only
  rw [key, endIfExited_of_live]
  · unfold Next State.onT Train.setSplit Train.setSlot
    cases hc : s.t.d.cur <;> simp [hg, hc]
  · unfold Train.live Train.all at hl ⊢
    unfold Train.setSplit Train.setSlot
    cases hc : s.t.d.cur <;> simpa using hl

end Sys2Proof.Machine
end

