-- ==== Sys2Proof/Laws/Table.lean ====
section
/-! SUPPORT. Sparse tables: read after write, and every operation keeps the canonical form. -/
namespace Sys2Proof.Table

variable {α : Type} [DecidableEq α] {d : α}

omit [DecidableEq α] in
theorem get_of_not_mem {m : Sparse α} {i : Nat} (h : ∀ e ∈ m, e.1 ≠ i) : get d m i = d := by
  induction m with
  | nil => rfl
  | cons e m ih =>
    obtain ⟨j, v⟩ := e
    have hj : j ≠ i := h (j, v) (by simp)
    simp only [get, if_neg hj]
    exact ih fun e he => h e (by simp [he])

omit [DecidableEq α] in
theorem get_append_right {m n : Sparse α} {i : Nat} (h : ∀ e ∈ m, e.1 ≠ i) : get d (m ++ n) i = get d n i := by
  induction m with
  | nil => rfl
  | cons e m ih =>
    obtain ⟨j, v⟩ := e
    simp only [List.cons_append, get, if_neg (h (j, v) (by simp))]
    exact ih fun e he => h e (by simp [he])

omit [DecidableEq α] in
theorem get_append_left {m n : Sparse α} {i : Nat} (h : ∀ e ∈ n, e.1 ≠ i) : get d (m ++ n) i = get d m i := by
  induction m with
  | nil => exact get_of_not_mem h
  | cons e m ih =>
    obtain ⟨j, v⟩ := e
    simp only [List.cons_append, get, ih]

omit [DecidableEq α] in
/-- Reading an entry that a filter keeps. -/
theorem get_filter {m : Sparse α} {p : Nat × α → Bool} {i : Nat} (h : ∀ v, p (i, v) = true) : get d (m.filter p) i = get d m i := by
  induction m with
  | nil => rfl
  | cons e m ih =>
    obtain ⟨j, v⟩ := e
    by_cases hj : j = i
    · subst hj; simp [h, get]
    · by_cases hp : p (j, v) = true <;> simp [hp, get, hj, ih]

theorem run_key {k : Nat} {vs : List α} {e : Nat × α} (h : e ∈ run d k vs) : k ≤ e.1 ∧ e.1 < k + vs.length := by
  induction vs generalizing k with
  | nil => simp [run] at h
  | cons v vs ih =>
    have step : e ∈ run d (k + 1) vs → k ≤ e.1 ∧ e.1 < k + (v :: vs).length := by
      intro he
      have := ih he
      simp only [List.length_cons]
      omega
    simp only [run] at h
    split at h
    · exact step h
    · simp only [List.mem_cons] at h
      obtain rfl | h := h
      · simp
      · exact step h

theorem get_run {k i : Nat} {vs : List α} (hk : k ≤ i) (hi : i < k + vs.length) : get d (run d k vs) i = vs.getD (i - k) d := by
  induction vs generalizing k with
  | nil => simp at hi; omega
  | cons v vs ih =>
    by_cases h : i = k
    · subst h
      have none : get d (run d (i + 1) vs) i = d := get_of_not_mem fun e he => by have := run_key he; omega
      simp only [run]
      split
      · rw [none]; simp [*]
      · simp [get]
    · have e : i - k = (i - (k + 1)) + 1 := by omega
      have r := ih (k := k + 1) (by omega) (by simp at hi; omega)
      simp only [run]
      split
      · rw [r, e]; simp
      · simp only [get, if_neg (Ne.symm h)]; rw [r, e]; simp

/-- Read after a run of writes: the values written, every other key as before. -/
theorem get_setList (m : Sparse α) (k i : Nat) (vs : List α) :
    get d (setList d m k vs) i = if k ≤ i ∧ i < k + vs.length then vs.getD (i - k) d else get d m i := by
  have low : k ≤ i → ∀ e ∈ m.filter (fun e => decide (e.1 < k)), e.1 ≠ i := by
    rintro hk e he rfl
    simp only [List.mem_filter, decide_eq_true_eq] at he
    omega
  have mid : ¬ (k ≤ i ∧ i < k + vs.length) → ∀ e ∈ run d k vs, e.1 ≠ i := by
    rintro h e he rfl
    exact h (run_key he)
  have high : i < k + vs.length → ∀ e ∈ m.filter (fun e => decide (k + vs.length ≤ e.1)), e.1 ≠ i := by
    rintro hi e he rfl
    simp only [List.mem_filter, decide_eq_true_eq] at he
    omega
  unfold setList
  split
  · rename_i h
    rw [get_append_left (high h.2), get_append_right (low h.1), get_run h.1 h.2]
  · rename_i h
    by_cases hk : i < k
    · rw [get_append_left (high (by omega)), get_append_left (mid h)]
      exact get_filter fun v => by simpa using hk
    · rw [List.append_assoc, get_append_right (low (by omega)), get_append_right (mid h)]
      exact get_filter fun v => by simp; omega

/-- Read after write: the value written at its key, every other key as before. -/
theorem get_set (m : Sparse α) (k i : Nat) (v : α) : get d (set d m k v) i = if i = k then v else get d m i := by
  unfold set
  rw [get_setList]
  by_cases h : i = k
  · subst h; simp
  · rw [if_neg (by simp; omega), if_neg h]

theorem sortedFrom_mono {m : Sparse α} {b c : Nat} (h : sortedFrom d c m = true) (hbc : b ≤ c) : sortedFrom d b m = true := by
  cases m with
  | nil => rfl
  | cons e m =>
    obtain ⟨j, v⟩ := e
    simp only [sortedFrom, Bool.and_eq_true, decide_eq_true_eq] at h ⊢
    exact ⟨⟨by omega, h.1.2⟩, h.2⟩

theorem sortedFrom_append {m n : Sparse α} {b c : Nat} (hm : sortedFrom d b m = true) (hk : ∀ e ∈ m, e.1 < c) (hbc : b ≤ c)
    (hn : sortedFrom d c n = true) : sortedFrom d b (m ++ n) = true := by
  induction m generalizing b with
  | nil => exact sortedFrom_mono hn hbc
  | cons e m ih =>
    obtain ⟨j, v⟩ := e
    simp only [sortedFrom, Bool.and_eq_true, decide_eq_true_eq] at hm
    have hj : j < c := hk (j, v) (by simp)
    simp only [List.cons_append, sortedFrom, Bool.and_eq_true, decide_eq_true_eq]
    exact ⟨hm.1, ih hm.2 (fun e he => hk e (by simp [he])) (by omega)⟩

theorem sortedFrom_run (k : Nat) (vs : List α) : sortedFrom d k (run d k vs) = true := by
  induction vs generalizing k with
  | nil => rfl
  | cons v vs ih =>
    simp only [run]
    split
    · exact sortedFrom_mono (ih _) (by omega)
    · simp [sortedFrom, *]

theorem sortedFrom_filter {m : Sparse α} {b : Nat} (p : Nat × α → Bool) (h : sortedFrom d b m = true) :
    sortedFrom d b (m.filter p) = true := by
  induction m generalizing b with
  | nil => rfl
  | cons e m ih =>
    obtain ⟨j, u⟩ := e
    simp only [sortedFrom, Bool.and_eq_true, decide_eq_true_eq] at h
    simp only [List.filter_cons]
    split
    · simp only [sortedFrom, Bool.and_eq_true, decide_eq_true_eq]
      exact ⟨h.1, ih h.2⟩
    · exact sortedFrom_mono (ih h.2) (by omega)

theorem sortedFrom_above {m : Sparse α} {b c : Nat} (h : sortedFrom d b m = true) :
    sortedFrom d c (m.filter fun e => c ≤ e.1) = true := by
  induction m generalizing b with
  | nil => rfl
  | cons e m ih =>
    obtain ⟨j, u⟩ := e
    simp only [sortedFrom, Bool.and_eq_true, decide_eq_true_eq] at h
    simp only [List.filter_cons]
    split
    · rename_i hc
      simp only [decide_eq_true_eq] at hc
      simp only [sortedFrom, Bool.and_eq_true, decide_eq_true_eq]
      exact ⟨⟨hc, h.1.2⟩, sortedFrom_filter _ h.2⟩
    · exact ih h.2

/-- Writing a run of values keeps the canonical form. -/
theorem wf_setList {m : Sparse α} (k : Nat) (vs : List α) (h : wf d m = true) : wf d (setList d m k vs) = true := by
  unfold wf setList
  refine sortedFrom_append (c := k + vs.length) (sortedFrom_append (c := k) (sortedFrom_filter _ h) ?_ (Nat.zero_le _)
    (sortedFrom_run k vs)) ?_ (Nat.zero_le _) (sortedFrom_above h)
  · intro e he
    simp only [List.mem_filter, decide_eq_true_eq] at he
    exact he.2
  · intro e he
    simp only [List.mem_append] at he
    obtain he | he := he
    · simp only [List.mem_filter, decide_eq_true_eq] at he; omega
    · exact (run_key he).2

/-- Writing keeps the canonical form. -/
theorem wf_set {m : Sparse α} (k : Nat) (v : α) (h : wf d m = true) : wf d (set d m k v) = true := wf_setList k [v] h

/-- Clearing a range keeps the canonical form. -/
theorem wf_clear {m : Sparse α} (lo n : Nat) (h : wf d m = true) : wf d (clear m lo n) = true := sortedFrom_filter _ h

omit [DecidableEq α] in
/-- Reading a run lists the single reads. -/
theorem getList_eq (m : Sparse α) (k n : Nat) : getList d m k n = (List.range n).map fun i => get d m (k + i) := by
  unfold getList
  refine List.map_congr_left fun i hi => ?_
  simp only [List.mem_range] at hi
  exact get_filter fun v => by simp; omega

end Sys2Proof.Table
end

