-- ==== Sys2Proof/Laws/Regs.lean ====
section
/-! SUPPORT. Registers: read after write for lane, uniform and predicate registers, in either mode (R147, R184). -/
namespace Sys2Proof.Machine

theorem mem_lanes (m : Mask) (l : Nat) : l ∈ lanes m ↔ l < 64 ∧ m.getLsbD l = true := by
  simp [lanes, List.mem_filter]

theorem getV_setV (r : Regs) (p : Bool) (d k : Nat) (x : Word) (n l : Nat) (hl : l < 64) (hk : k < 64) :
    (r.setV p d k x).getV p n l = if n = d ∧ l = k then x else r.getV p n l := by
  have key : (n * 64 + l = d * 64 + k) ↔ (n = d ∧ l = k) := by omega
  unfold Regs.setV Regs.getV
  by_cases hd : p = true ∧ 120 ≤ d
  · simp only [hd.1, Bool.true_and, decide_eq_true_eq, hd.2, if_true]
    split
    · rw [Table.get_set]; simp only [key]
    · rw [if_neg]; omega
  · have hd' : (p && decide (120 ≤ d)) = false := by
      cases p <;> simp_all
    simp only [hd', Bool.false_eq_true, if_false]
    split
    · rw [if_neg]
      rintro ⟨rfl, _⟩
      simp_all
    · rw [Table.get_set]; simp only [key]

theorem getV_setV_other (r : Regs) (p : Bool) (d k : Nat) (x : Word) (n l : Nat) (hk : k < 64) (hn : 120 ≤ n) :
    (r.setV p d k x).getV (!p) n l = r.getV (!p) n l := by
  unfold Regs.setV Regs.getV
  cases p
  · simp [hn]
  · by_cases hd : 120 ≤ d
    · simp [hd]
    · simp only [hd, decide_false, Bool.and_false, Bool.false_eq_true, if_false, Bool.not_true, Bool.false_and]
      rw [Table.get_set, if_neg]; omega

theorem setV_rest (r : Regs) (p : Bool) (d k : Nat) (x : Word) :
    r.setV p d k x = { r with v := (r.setV p d k x).v, bank := { r.bank with v := (r.setV p d k x).bank.v } } := by
  unfold Regs.setV; split <;> rfl

theorem getV_putV (r : Regs) (p : Bool) (d : Nat) (f : Nat → Word) (ls : List Nat) (h : ∀ k ∈ ls, k < 64) (n l : Nat) (hl : l < 64) :
    (r.putV p d f ls).getV p n l = if n = d ∧ l ∈ ls then f l else r.getV p n l := by
  induction ls generalizing r with
  | nil => simp [Regs.putV]
  | cons k ks ih =>
    simp only [Regs.putV]
    rw [ih _ fun j hj => h j (by simp [hj]), getV_setV _ _ _ _ _ _ _ hl (h k (by simp))]
    by_cases hn : n = d <;> by_cases hk : l = k <;> by_cases hm : l ∈ ks <;> simp_all

theorem getV_putV_other (r : Regs) (p : Bool) (d : Nat) (f : Nat → Word) (ls : List Nat) (h : ∀ k ∈ ls, k < 64) (n l : Nat)
    (hn : 120 ≤ n) : (r.putV p d f ls).getV (!p) n l = r.getV (!p) n l := by
  induction ls generalizing r with
  | nil => rfl
  | cons k ks ih =>
    simp only [Regs.putV]
    rw [ih _ fun j hj => h j (by simp [hj]), getV_setV_other _ _ _ _ _ _ _ (h k (by simp)) hn]

theorem putV_rest (r : Regs) (p : Bool) (d : Nat) (f : Nat → Word) (ls : List Nat) :
    r.putV p d f ls = { r with v := (r.putV p d f ls).v, bank := { r.bank with v := (r.putV p d f ls).bank.v } } := by
  induction ls generalizing r with
  | nil => rfl
  | cons k ks ih =>
    simp only [Regs.putV]
    rw [ih (r.setV p d k (f k)), setV_rest r p d k (f k)]

/-- A write of a lane register in the lanes of a mask (R286). -/
theorem writesV_putV {s t : State} {d : Nat} {e : Mask} {f : Nat → Word} (h : t.t.r = s.t.r.putV s.t.x.priv d f (lanes e)) :
    WritesV s t d e f := by
  have hk : ∀ k ∈ lanes e, k < 64 := fun k hk => ((mem_lanes e k).mp hk).1
  refine ⟨fun n l hl => ?_, fun n l hn => ?_, ?_⟩
  · rw [h, getV_putV _ _ _ _ _ hk _ _ hl]
    simp only [mem_lanes, hl, true_and]
  · rw [h, getV_putV_other _ _ _ _ _ hk _ _ hn]
  · rw [h]; exact putV_rest _ _ _ _ _

/-- A write of a lane pair (R4, R292). -/
theorem writesVV_putVV {s t : State} {d : Nat} {e : Mask} {f : Nat → Dword}
    (h : t.t.r = (s.t.r.putV s.t.x.priv d (fun l => (f l).extractLsb' 0 32) (lanes e)).putV s.t.x.priv (d + 1)
      (fun l => (f l).extractLsb' 32 32) (lanes e)) : WritesVV s t d e f := by
  have hk : ∀ k ∈ lanes e, k < 64 := fun k hk => ((mem_lanes e k).mp hk).1
  refine ⟨fun n l hl => ?_, fun n l hn => ?_, ?_⟩
  · rw [h, getV_putV _ _ _ _ _ hk _ _ hl, getV_putV _ _ _ _ _ hk _ _ hl]
    simp only [mem_lanes, hl, true_and]
    by_cases h1 : n = d <;> by_cases h2 : n = d + 1 <;> simp [h1, h2]
  · rw [h, getV_putV_other _ _ _ _ _ hk _ _ hn, getV_putV_other _ _ _ _ _ hk _ _ hn]
  · rw [h, putV_rest _ _ (d + 1), putV_rest _ _ d]

theorem getS_setS (r : Regs) (p : Bool) (d : Nat) (x : Dword) (n : Nat) :
    (r.setS p d x).getS p n = if n = d then x else r.getS p n := by
  unfold Regs.setS Regs.getS
  by_cases hd : p = true ∧ 56 ≤ d
  · simp only [hd.1, Bool.true_and, decide_eq_true_eq, hd.2, if_true]
    split
    · rw [Table.get_set]
    · rw [if_neg]; omega
  · have hd' : (p && decide (56 ≤ d)) = false := by cases p <;> simp_all
    simp only [hd', Bool.false_eq_true, if_false]
    split
    · rw [if_neg]
      rintro rfl
      simp_all
    · rw [Table.get_set]

theorem getS_setS_other (r : Regs) (p : Bool) (d : Nat) (x : Dword) (n : Nat) (hn : 56 ≤ n) :
    (r.setS p d x).getS (!p) n = r.getS (!p) n := by
  unfold Regs.setS Regs.getS
  cases p
  · simp [hn]
  · by_cases hd : 56 ≤ d
    · simp [hd]
    · simp only [hd, decide_false, Bool.and_false, Bool.false_eq_true, if_false, Bool.not_true, Bool.false_and]
      rw [Table.get_set, if_neg]; omega

/-- A write of a uniform register (R296). -/
theorem writesS_setS {s t : State} {d : Nat} {on : Bool} {x : Dword}
    (h : t.t.r = if on = true then s.t.r.setS s.t.x.priv d x else s.t.r) : WritesS s t d on x := by
  cases on
  · simp only [Bool.false_eq_true, if_false] at h
    exact ⟨fun n => by simp [h], fun n _ => by rw [h], by rw [h]⟩
  · simp only [if_true] at h
    refine ⟨fun n => by rw [h, getS_setS]; simp, fun n hn => by rw [h, getS_setS_other _ _ _ _ _ hn], ?_⟩
    rw [h]; unfold Regs.setS; split <;> rfl

theorem getP_setP (r : Regs) (p : Bool) (d : Nat) (x e : Mask) (n l : Nat) (hl : l < 64) :
    ((r.setP p d x e).getP p n).getLsbD l =
      if n = d ∧ n ≠ 0 ∧ e.getLsbD l = true then x.getLsbD l else (r.getP p n).getLsbD l := by
  by_cases hd0 : d = 0
  · subst hd0
    simp only [Regs.setP, if_true]
    rw [if_neg]; rintro ⟨h, h', _⟩; exact h' h
  · have bit : ((r.getP p d &&& ~~~e) ||| (x &&& e)).getLsbD l = if e.getLsbD l = true then x.getLsbD l else (r.getP p d).getLsbD l := by
      simp only [BitVec.getLsbD_or, BitVec.getLsbD_and, BitVec.getLsbD_not, hl, decide_true, Bool.true_and]
      cases e.getLsbD l <;> simp
    by_cases hn : n = d
    · subst hn
      have : (r.setP p n x e).getP p n = (r.getP p n &&& ~~~e) ||| (x &&& e) := by
        unfold Regs.setP
        rw [if_neg hd0]
        dsimp only
        split
        · rename_i h; unfold Regs.getP; rw [if_neg hd0, if_pos h, Table.get_set, if_pos rfl]
        · rename_i h; rw [Regs.getP, if_neg hd0, if_neg h, Table.get_set, if_pos rfl]
      rw [this, bit]
      simp [hd0]
    · have : (r.setP p d x e).getP p n = r.getP p n := by
        unfold Regs.setP
        rw [if_neg hd0]
        dsimp only
        split <;> (unfold Regs.getP; dsimp only; rw [Table.get_set, if_neg hn])
      rw [this]
      simp [hn]

theorem getP_setP_other (r : Regs) (p : Bool) (d : Nat) (x e : Mask) (n : Nat) (hn : 120 ≤ n) :
    (r.setP p d x e).getP (!p) n = r.getP (!p) n := by
  unfold Regs.setP
  split
  · rfl
  · dsimp only
    cases p
    · simp [Regs.getP, hn]
    · by_cases hd : 120 ≤ d
      · simp [Regs.getP, hd]
      · simp only [hd, decide_false, Bool.and_false, Bool.false_eq_true, if_false, Bool.not_true]
        unfold Regs.getP
        simp only [Bool.false_and, Bool.false_eq_true, if_false]
        rw [Table.get_set, if_neg (show ¬ n = d by omega)]

/-- A write of a predicate in the lanes of a mask (R147, R301). -/
theorem writesP_setP {s t : State} {d : Nat} {x e : Mask} (h : t.t.r = s.t.r.setP s.t.x.priv d x e) :
    WritesP s t d e fun l => x.getLsbD l := by
  refine ⟨fun n l hl => by rw [h, getP_setP _ _ _ _ _ _ _ hl], fun n hn => by rw [h, getP_setP_other _ _ _ _ _ _ hn], ?_⟩
  rw [h]; unfold Regs.setP; split
  · rfl
  · dsimp only; split <;> rfl

theorem getLsbD_laneBit (i l : Nat) (hl : l < 64) : (laneBit i).getLsbD l = decide (l = i) := by
  simp only [laneBit, BitVec.getLsbD_ofNat, hl, decide_true, Bool.true_and, Nat.testBit_two_pow]
  simp [eq_comm]

theorem getLsbD_maskFrom (ls : List Nat) (f : Nat → Bool) (m : Mask) (l : Nat) (hl : l < 64) :
    (ls.foldl (fun m i => if f i then m ||| laneBit i else m) m).getLsbD l = (m.getLsbD l || (decide (l ∈ ls) && f l)) := by
  induction ls generalizing m with
  | nil => simp
  | cons k ks ih =>
    have step : (if f k then m ||| laneBit k else m).getLsbD l = (m.getLsbD l || (decide (l = k) && f k)) := by
      cases hf : f k
      · simp
      · rw [if_pos rfl, BitVec.getLsbD_or, getLsbD_laneBit _ _ hl, Bool.and_true]
    rw [List.foldl_cons, ih, step]
    by_cases hk : l = k
    · subst hk; cases f l <;> simp
    · simp [hk]

/-- A mask of listed lanes holds those that satisfy the test. -/
theorem getLsbD_maskOf (ls : List Nat) (f : Nat → Bool) (l : Nat) (hl : l < 64) :
    (maskOf ls f).getLsbD l = (decide (l ∈ ls) && f l) := by
  simp [maskOf, getLsbD_maskFrom _ _ _ _ hl]

/-- What a predicate gets matters in the lanes written alone. -/
theorem WritesP.congr {s t : State} {d : Nat} {e : Mask} {f g : Nat → Bool} (h : WritesP s t d e f)
    (hfg : ∀ l, l < 64 → e.getLsbD l = true → f l = g l) : WritesP s t d e g := by
  refine ⟨fun n l hl => ?_, h.2⟩
  rw [h.1 n l hl]
  by_cases he : e.getLsbD l = true
  · rw [hfg l hl he]
  · simp [he]

/-- A compare's predicate (R295). -/
theorem writesP_compare {s t : State} {d : Nat} {e : Mask} {f : Nat → Bool}
    (h : t.t.r = s.t.r.setP s.t.x.priv d (maskOf (lanes e) f) e) : WritesP s t d e f :=
  (writesP_setP h).congr fun l hl he => by
    rw [getLsbD_maskOf _ _ _ hl]; simp [mem_lanes, hl, he]

/-- p0 reads 1 in every lane, whatever has been written (R147). -/
theorem getP_zero (r : Regs) (p : Bool) : r.getP p 0 = BitVec.allOnes 64 := rfl

end Sys2Proof.Machine
end

