-- ==== Sys2Proof/Laws/Words.lean ====
section
/-! SUPPORT. What every word shares, and the operand forms: one lemma each says all that a completing word does. -/
namespace Sys2Proof.Machine

/-- A word that passes its checks has its body's effect. -/
theorem word_next {i : Instr} {privileged : Bool} {needs : List Need} {body : State → State} {s : State} (h : s.Admits i needs)
    (hp : privileged = true → s.t.x.priv = true) : word i privileged needs body s = .next (body s) := by
  obtain ⟨⟨hl, _, hg⟩, hw, hn⟩ := h
  have hn' : (needs.all s.t.inBudget) = true := List.all_eq_true.mpr fun n m => (hn n m).1
  have ha : (needs.any s.t.awaited) = false := List.any_eq_false.mpr fun n m => by simp [(hn n m).2]
  have hq : (privileged && !s.t.x.priv) = false := by cases privileged <;> simp_all
  unfold word
  rw [hl, hw, hn', hq, hg, ha]
  rfl

/-- A single word that goes on at the next word: all but the divergence state stays, one more group has
issued, and a split that stands alone is at that word. -/
theorem conclude_on {s : State} (ends idem yields : Bool) (len : Dword) (hg : s.t.group = none) (hl : s.t.live ≠ 0) :
    ∃ d : Div, d.exited = s.t.d.exited ∧ d.quantum = s.t.d.quantum ∧
      (s.t.Lone → d = { (s.t.setSplit (s.t.split.onward len ends idem)).d with used := s.t.d.used + 1 }) ∧
      s.conclude .on ends idem yields len = { s with t := { s.t with d := d, c := { s.t.c with issued := s.t.c.issued + 1 } } } := by
  obtain ⟨d, he, hx, hq⟩ := finish_on s.t s.t.split.pc (s.t.split.pc + len) ends idem yields 1
  refine ⟨d, hx, hq, ?_⟩
  suffices h : s.conclude .on ends idem yields len = { s with t := { s.t with d := d, c := { s.t.c with issued := s.t.c.issued + 1 } } } from
    ⟨fun hs => congrArg (fun u : State => u.t.d) (h.symm.trans (conclude_lone ends idem yields len hg hl hs)), h⟩
  unfold State.conclude
  rw [hg]
  dsimp only
  unfold State.finish
  have hlive : ({ s.t with d := d, c := { s.t.c with issued := s.t.c.issued + 1 }, group := none } : Train).live = s.t.live := by
    simp only [Train.live, Train.all]; rw [hx]
  have e : s.onT (fun t => t.finish s.t.split.pc (s.t.split.pc + len) .on ends idem yields 1) =
      { s with t := { s.t with d := d, c := { s.t.c with issued := s.t.c.issued + 1 }, group := none } } := by
    simp only [State.onT, he]
  dsimp only
  rw [e, endIfExited_of_live (by rw [hlive]; exact hl)]
  rw [← hg]

theorem sameBytes_of {s t : State} (hm : t.m.mem = s.m.mem) (hp : t.t.priv = s.t.priv) (hd : t.d.teams = s.d.teams) : SameBytes s t := by
  refine ⟨fun ua => by rw [hm], fun l o => by rw [hp], fun g m o => ?_, fun g m o => ?_⟩ <;>
    simp only [State.scratchRead, State.obufRead, State.team, hd]

/-- A word whose whole effect is on registers, and which goes on at the next word. -/
theorem regs_then_on {s : State} (yields : Bool) (len : Dword) (f : Train → Regs) (hg : s.t.group = none) (hl : s.t.live ≠ 0) :
    ∃ t, (s.onT fun u => u.withR (f u)).conclude .on false false yields len = t ∧ t.t.r = f s.t ∧ OnlyRegs s t len := by
  obtain ⟨d, hx, hq, hs, he⟩ := conclude_on (s := s.onT fun u => u.withR (f u)) false false yields len (by simpa using hg)
    (by simpa [Train.live, Train.all] using hl)
  refine ⟨_, he, rfl, rfl, hx, hq, sameBytes_of rfl rfl rfl, fun h => ?_⟩
  have hd := Train.setSplit_d_congr (t := (s.onT fun u => u.withR (f u)).t) (u := s.t) (s.t.split.after len) rfl
  exact (hs h).trans (congrArg (fun d : Div => { d with used := s.t.d.used + 1 }) hd)

/-- `lane` and `laneLit`: vd gets the result in the taking-part lanes, and nothing else changes (R286). -/
theorem lane_completes {s : State} (c : Ctl) (d : Fld) (f : Train → Nat → Word) (len : Dword) (hg : s.t.group = none)
    (hl : s.t.live ≠ 0) :
    ∃ t, (s.onT fun u => u.putV d.toNat (u.act c) (f u)).conclude .on false false false len = t ∧
      WritesV s t d.toNat (s.t.act c) (f s.t) ∧ OnlyRegs s t len := by
  obtain ⟨t, ht, hr, ho⟩ := regs_then_on (s := s) false len
    (fun u => u.r.putV u.x.priv d.toNat (f u) (lanes (u.act c))) hg hl
  exact ⟨t, ht, writesV_putV hr, ho⟩

/-- `lanePair` (R292). -/
theorem lanePair_completes {s : State} (c : Ctl) (d : Fld) (f : Train → Nat → Dword) (hg : s.t.group = none) (hl : s.t.live ≠ 0) :
    ∃ t, lanePair c d f s = t ∧ WritesVV s t d.toNat (s.t.act c) (f s.t) ∧ OnlyRegs s t 4 := by
  obtain ⟨t, ht, hr, ho⟩ := regs_then_on (s := s) false 4
    (fun u => (u.r.putV u.x.priv d.toNat (fun l => (f u l).extractLsb' 0 32) (lanes (u.act c))).putV u.x.priv (d.toNat + 1)
      (fun l => (f u l).extractLsb' 32 32) (lanes (u.act c))) hg hl
  exact ⟨t, ht, writesVV_putVV hr, ho⟩

/-- `compare` (R295). -/
theorem compare_completes {s : State} (c : Ctl) (d : Fld) (f : Train → Nat → Bool) (hg : s.t.group = none) (hl : s.t.live ≠ 0) :
    ∃ t, compare c d f s = t ∧ WritesP s t d.toNat (s.t.act c) (f s.t) ∧ OnlyRegs s t 4 := by
  obtain ⟨t, ht, hr, ho⟩ := regs_then_on (s := s) false 4
    (fun u => u.r.setP u.x.priv d.toNat (maskOf (lanes (u.act c)) (f u)) (u.act c)) hg hl
  exact ⟨t, ht, writesP_compare hr, ho⟩

/-- `predicate` (R301). -/
theorem predicate_completes {s : State} (c : Ctl) (d : Fld) (f : Train → Mask) (hg : s.t.group = none) (hl : s.t.live ≠ 0) :
    ∃ t, predicate c d f s = t ∧ WritesP s t d.toNat (s.t.act c) (fun l => (f s.t).getLsbD l) ∧ OnlyRegs s t 4 := by
  obtain ⟨t, ht, hr, ho⟩ := regs_then_on (s := s) false 4
    (fun u => u.r.setP u.x.priv d.toNat (f u) (u.act c)) hg hl
  exact ⟨t, ht, writesP_setP hr, ho⟩

/-- `uniform` and `uniformLit`: sd gets the result when the guard is true in some lane of SPLIT (R296). -/
theorem uniform_completes {s : State} (c : Ctl) (d : Fld) (f : Train → Dword) (len : Dword) (hg : s.t.group = none)
    (hl : s.t.live ≠ 0) :
    ∃ t, (s.onT fun u => if u.once c then u.putS d.toNat (f u) else u).conclude .on false false false len = t ∧
      WritesS s t d.toNat (s.t.once c) (f s.t) ∧ OnlyRegs s t len := by
  obtain ⟨t, ht, hr, ho⟩ := regs_then_on (s := s) false len
    (fun u => if u.once c then u.r.setS u.x.priv d.toNat (f u) else u.r) hg hl
  refine ⟨t, ?_, writesS_setS (by simpa using hr), ho⟩
  rw [← ht]
  congr 1
  simp only [State.onT]
  congr 1
  by_cases h : s.t.once c = true <;> simp [h, Train.putS, Train.withR]

/-- The flags of lanes that took part are a word's own bits. -/
theorem flagsOver_eq_zero {f : Nat → Flags} {ls : List Nat} (h : ∀ l ∈ ls, (f l).bits = 0) : flagsOver f ls = 0 := by
  induction ls with
  | nil => rfl
  | cons l ls ih => simp [flagsOver, h l (by simp), ih fun k hk => h k (by simp [hk])]

end Sys2Proof.Machine
end

