-- ==== Sys2Proof/Laws/Floats.lean ====
section
/-! SUPPORT. The operand forms of the floating words: one lemma each says all that a completing word does (R304). -/
namespace Sys2Proof.Machine

/-- The flags of the lanes that took part, bit by bit. -/
theorem getLsbD_flagsOver (f : Nat → Flags) (ls : List Nat) (i : Nat) :
    (flagsOver f ls).getLsbD i = ls.any fun l => (f l).bits.getLsbD i := by
  induction ls with
  | nil => simp [flagsOver]
  | cons l ls ih => simp [flagsOver, ih]

/-- A word that writes registers and then raises flags, and goes on at the next word. -/
theorem flags_then_on {s : State} (g : Train → Regs) (w : Train → Word) (hg : s.t.group = none) (hl : s.t.live ≠ 0) (len : Dword) :
    ∃ t, (s.onT fun u => (u.withR (g u)).orFlags (w u)).conclude .on false false false len = t ∧
      t.t.r = { g s.t with fpflags := (g s.t).fpflags ||| w s.t } ∧ OnlyRegs s t len := by
  obtain ⟨t, ht, hr, ho⟩ :=
    regs_then_on (s := s) false len (fun u => { g u with fpflags := (g u).fpflags ||| w u }) hg hl
  refine ⟨t, ?_, hr, ho⟩
  rw [← ht]
  congr 1
  simp only [State.onT, Train.orFlags, Train.withR, hg]

/-- Writing lane registers leaves FPFLAGS. -/
theorem putV_fpflags (r : Regs) (p : Bool) (d : Nat) (f : Nat → Word) (ls : List Nat) : (r.putV p d f ls).fpflags = r.fpflags := by
  rw [putV_rest]

/-- Writing a predicate leaves FPFLAGS. -/
theorem setP_fpflags (r : Regs) (p : Bool) (d : Nat) (x e : Mask) : (r.setP p d x e).fpflags = r.fpflags := by
  unfold Regs.setP
  split
  · rfl
  · dsimp only
    split <;> rfl

/-- FPFLAGS put back to where it stood. -/
theorem butFlags_regs {s t : State} {r : Regs} {w : Word} (h : t.t.r = { r with fpflags := r.fpflags ||| w })
    (hr : r.fpflags = s.t.r.fpflags) : (ButFlags s t).t.r = r := by
  simp only [ButFlags, State.onT, Train.withR, h, ← hr]

/-- What FPFLAGS gains. -/
theorem raisesFlags_of {s t : State} {r : Regs} {e : Mask} {f : Nat → Flags}
    (h : t.t.r = { r with fpflags := r.fpflags ||| flagsOver f (lanes e) }) (hr : r.fpflags = s.t.r.fpflags) : RaisesFlags s t e f := by
  intro i
  rw [h]
  simp [getLsbD_flagsOver, hr]

/-- `laneFloat` (R304). -/
theorem laneFloat_completes {s : State} (c : Ctl) (d : Fld) (f : Train → Nat → Word × Flags) (hg : s.t.group = none)
    (hl : s.t.live ≠ 0) :
    ∃ t, laneFloat c d f s = t ∧ WritesV s (ButFlags s t) d.toNat (s.t.act c) (fun l => (f s.t l).1) ∧
      RaisesFlags s t (s.t.act c) (fun l => (f s.t l).2) ∧ OnlyRegs s t 4 := by
  obtain ⟨t, ht, h1, h2⟩ := flags_then_on (s := s) (fun t => t.r.putV t.x.priv d.toNat (fun l => (f t l).1) (lanes (t.act c)))
    (fun t => flagsOver (fun l => (f t l).2) (lanes (t.act c))) hg hl 4
  have hr := putV_fpflags s.t.r s.t.x.priv d.toNat (fun l => (f s.t l).1) (lanes (s.t.act c))
  exact ⟨t, ht, writesV_putV (butFlags_regs h1 hr), raisesFlags_of h1 hr, h2⟩

/-- `laneFloatPair` (R308). -/
theorem laneFloatPair_completes {s : State} (c : Ctl) (d : Fld) (f : Train → Nat → Dword × Flags) (hg : s.t.group = none)
    (hl : s.t.live ≠ 0) :
    ∃ t, laneFloatPair c d f s = t ∧ WritesVV s (ButFlags s t) d.toNat (s.t.act c) (fun l => (f s.t l).1) ∧
      RaisesFlags s t (s.t.act c) (fun l => (f s.t l).2) ∧ OnlyRegs s t 4 := by
  obtain ⟨t, ht, h1, h2⟩ := flags_then_on (s := s)
    (fun t => (t.r.putV t.x.priv d.toNat (fun l => (f t l).1.extractLsb' 0 32) (lanes (t.act c))).putV t.x.priv (d.toNat + 1)
      (fun l => (f t l).1.extractLsb' 32 32) (lanes (t.act c)))
    (fun t => flagsOver (fun l => (f t l).2) (lanes (t.act c))) hg hl 4
  have hr : ((s.t.r.putV s.t.x.priv d.toNat (fun l => (f s.t l).1.extractLsb' 0 32) (lanes (s.t.act c))).putV s.t.x.priv
      (d.toNat + 1) (fun l => (f s.t l).1.extractLsb' 32 32) (lanes (s.t.act c))).fpflags = s.t.r.fpflags := by
    rw [putV_fpflags, putV_fpflags]
  exact ⟨t, ht, writesVV_putVV (butFlags_regs h1 hr), raisesFlags_of h1 hr, h2⟩

/-- What writing lane registers leaves alone, through two writes. -/
theorem rest_trans {r a b : Regs} (h : a = { r with v := a.v, bank := { r.bank with v := a.bank.v } })
    (k : b = { a with v := b.v, bank := { a.bank with v := b.bank.v } }) :
    b = { r with v := b.v, bank := { r.bank with v := b.bank.v } } := by
  rcases r with ⟨_, _, _, ⟨_, _, _⟩, _, _, _⟩
  rcases a with ⟨_, _, _, ⟨_, _, _⟩, _, _, _⟩
  rcases b with ⟨_, _, _, ⟨_, _, _⟩, _, _, _⟩
  simp only [Regs.mk.injEq, Bank.mk.injEq, true_and] at h k ⊢
  obtain ⟨rfl, rfl, ⟨rfl, rfl⟩, rfl, rfl, rfl⟩ := h
  exact k

/-- A quad written register by register. -/
theorem writesQuad_of {s t : State} {d : Nat} {e : Mask} {f : Nat → Nat → Word}
    (h : t.t.r = (((s.t.r.putV s.t.x.priv (d + 0) (fun l => f l 0) (lanes e)).putV s.t.x.priv (d + 1) (fun l => f l 1)
      (lanes e)).putV s.t.x.priv (d + 2) (fun l => f l 2) (lanes e)).putV s.t.x.priv (d + 3) (fun l => f l 3) (lanes e)) :
    WritesQuad s t d e f := by
  have hk : ∀ k ∈ lanes e, k < 64 := fun k hk => ((mem_lanes _ k).mp hk).1
  refine ⟨fun n l hl => ?_, fun n l hn => ?_, ?_⟩
  · rw [h]
    simp only [getV_putV _ _ _ _ _ hk _ _ hl, mem_lanes, hl, true_and]
    by_cases he : e.getLsbD l = true
    · simp only [he, and_true]
      by_cases h3 : n = d + 3
      · simp [h3]
      by_cases h2 : n = d + 2
      · simp [h2]
      by_cases h1 : n = d + 1
      · simp [h1]
      by_cases h0 : n = d
      · simp [h0]
      simp [h3, h2, h1, h0, show ¬(d ≤ n ∧ n < d + 4) by omega]
    · simp [he]
  · rw [h]
    simp only [getV_putV_other _ _ _ _ _ hk _ _ hn]
  · rw [h]
    exact rest_trans (rest_trans (rest_trans (putV_rest _ _ _ _ _) (putV_rest _ _ _ _ _)) (putV_rest _ _ _ _ _)) (putV_rest _ _ _ _ _)

/-- `laneFloatQuad` (R318). -/
theorem laneFloatQuad_completes {s : State} (c : Ctl) (d : Fld) (f : Train → Nat → Nat → Word × Flags) (hg : s.t.group = none)
    (hl : s.t.live ≠ 0) :
    ∃ t, laneFloatQuad c d f s = t ∧ WritesQuad s (ButFlags s t) d.toNat (s.t.act c) (fun l i => (f s.t l i).1) ∧
      RaisesFlags s t (s.t.act c)
        (fun l => (((f s.t l 0).2.or (f s.t l 1).2).or (f s.t l 2).2).or (f s.t l 3).2) ∧ OnlyRegs s t 4 := by
  obtain ⟨t, ht, h1, h2⟩ := flags_then_on (s := s)
    (fun t => (((t.r.putV t.x.priv (d.toNat + 0) (fun l => (f t l 0).1) (lanes (t.act c))).putV t.x.priv (d.toNat + 1)
      (fun l => (f t l 1).1) (lanes (t.act c))).putV t.x.priv (d.toNat + 2) (fun l => (f t l 2).1) (lanes (t.act c))).putV
      t.x.priv (d.toNat + 3) (fun l => (f t l 3).1) (lanes (t.act c)))
    (fun t => flagsOver (fun l => (List.range 4).foldl (fun g i => g.or (f t l i).2) Flags.none) (lanes (t.act c))) hg hl 4
  have hr : ((((s.t.r.putV s.t.x.priv (d.toNat + 0) (fun l => (f s.t l 0).1) (lanes (s.t.act c))).putV s.t.x.priv (d.toNat + 1)
      (fun l => (f s.t l 1).1) (lanes (s.t.act c))).putV s.t.x.priv (d.toNat + 2) (fun l => (f s.t l 2).1)
      (lanes (s.t.act c))).putV s.t.x.priv (d.toNat + 3) (fun l => (f s.t l 3).1) (lanes (s.t.act c))).fpflags =
      s.t.r.fpflags := by rw [putV_fpflags, putV_fpflags, putV_fpflags, putV_fpflags]
  refine ⟨t, ht, writesQuad_of (f := fun l i => (f s.t l i).1) (butFlags_regs h1 hr), raisesFlags_of (r := _) ?_ hr, h2⟩
  rw [h1]
  simp [List.range_succ, Flags.or, Flags.none]

/-- `compareFloat` (R313). -/
theorem compareFloat_completes {s : State} (c : Ctl) (d : Fld) (f : Train → Nat → Bool × Flags) (hg : s.t.group = none)
    (hl : s.t.live ≠ 0) :
    ∃ t, compareFloat c d f s = t ∧ WritesP s (ButFlags s t) d.toNat (s.t.act c) (fun l => (f s.t l).1) ∧
      RaisesFlags s t (s.t.act c) (fun l => (f s.t l).2) ∧ OnlyRegs s t 4 := by
  obtain ⟨t, ht, h1, h2⟩ := flags_then_on (s := s)
    (fun t => t.r.setP t.x.priv d.toNat (maskOf (lanes (t.act c)) fun l => (f t l).1) (t.act c))
    (fun t => flagsOver (fun l => (f t l).2) (lanes (t.act c))) hg hl 4
  have hr := setP_fpflags s.t.r s.t.x.priv d.toNat (maskOf (lanes (s.t.act c)) fun l => (f s.t l).1) (s.t.act c)
  exact ⟨t, ht, writesP_compare (butFlags_regs h1 hr), raisesFlags_of h1 hr, h2⟩

end Sys2Proof.Machine
end

