-- ==== Sys2Proof/Laws/Local.lean ====
section
/-! SUPPORT. The accesses of the local spaces: what writing a loaded value does to the registers, and what the loads do
(R279, R349). -/
namespace Sys2Proof.Machine

/-- The sizes of an access. -/
theorem accessSize_cases (w : BitVec 3) :
    (accessSize w).1 = 1 ∨ (accessSize w).1 = 2 ∨ (accessSize w).1 = 4 ∨ (accessSize w).1 = 8 ∨ (accessSize w).1 = 16 := by
  revert w
  decide

/-- Bits of a number, cut to a register. -/
theorem ofNat_natBits (v i : Nat) : BitVec.ofNat 32 (natBits v (32 * i) 32) = BitVec.ofNat 32 (v / 2 ^ (32 * i)) := by
  apply BitVec.eq_of_toNat_eq
  simp [natBits]

/-- The registers that a loaded value takes, one after another. -/
theorem getV_words (prv : Bool) (d lane v : Nat) (r : Regs) (m k l : Nat) (hl : l < 64) (hk : lane < 64) :
    ((List.range m).foldl (fun (u : Regs) i => u.setV prv (d + i) lane (BitVec.ofNat 32 (natBits v (32 * i) 32))) r).getV prv k l =
      if d ≤ k ∧ k < d + m ∧ l = lane then BitVec.ofNat 32 (v / 2 ^ (32 * (k - d))) else r.getV prv k l := by
  induction m with
  | zero => rw [if_neg (by omega)]; rfl
  | succ m ih =>
    rw [List.range_succ, List.foldl_append, List.foldl_cons, List.foldl_nil, getV_setV _ _ _ _ _ _ _ hl hk, ih, ofNat_natBits]
    by_cases h : k = d + m
    · subst h
      by_cases e : l = lane <;> simp [e]
    · rw [if_neg (fun e => h e.1)]
      by_cases h2 : d ≤ k ∧ k < d + m ∧ l = lane
      · rw [if_pos h2, if_pos ⟨h2.1, by omega, h2.2.2⟩]
      · rw [if_neg h2, if_neg (fun e => h2 ⟨e.1, by omega, e.2.2⟩)]

/-- Those of the other bank. -/
theorem getV_words_other (prv : Bool) (d lane v : Nat) (r : Regs) (m k l : Nat) (hk : lane < 64) (hn : 120 ≤ k) :
    ((List.range m).foldl (fun (u : Regs) i => u.setV prv (d + i) lane (BitVec.ofNat 32 (natBits v (32 * i) 32))) r).getV (!prv) k l =
      r.getV (!prv) k l := by
  induction m with
  | zero => rfl
  | succ m ih =>
    rw [List.range_succ, List.foldl_append, List.foldl_cons, List.foldl_nil, getV_setV_other _ _ _ _ _ _ _ hk hn, ih]

/-- All but the lane registers stays. -/
theorem words_rest (prv : Bool) (d lane v : Nat) (r : Regs) (m : Nat) :
    let u := (List.range m).foldl (fun (u : Regs) i => u.setV prv (d + i) lane (BitVec.ofNat 32 (natBits v (32 * i) 32))) r
    u = { r with v := u.v, bank := { r.bank with v := u.bank.v } } := by
  induction m with
  | zero => rfl
  | succ m ih =>
    dsimp only
    rw [List.range_succ, List.foldl_append, List.foldl_cons, List.foldl_nil]
    exact rest_trans ih (setV_rest _ _ _ _ _)

/-- A value of `n` bytes: 1, 2, 4, 8 or 16. -/
abbrev AccessBytes (n : Nat) : Prop := n = 1 ∨ n = 2 ∨ n = 4 ∨ n = 8 ∨ n = 16

/-- A loaded value shorter than a register, widened. -/
theorem widen_eq (n : Nat) (signed : Bool) (v : Nat) (hv : v < 2 ^ (8 * n)) (hn : 0 < n) :
    (widen 32 n signed v : Word) = BitVec.ofInt 32 (if signed = true ∧ 2 ^ (8 * n - 1) ≤ v then (v : Int) - 2 ^ (8 * n) else v) := by
  have ht : v.testBit (8 * n - 1) = decide (2 ^ (8 * n - 1) ≤ v) := by
    rw [Nat.testBit_eq_decide_div_mod_eq]
    have : 2 ^ (8 * n) = 2 * 2 ^ (8 * n - 1) := by rw [← Nat.pow_succ']; congr 1; omega
    have hlt : v / 2 ^ (8 * n - 1) < 2 := Nat.div_lt_of_lt_mul (by omega)
    by_cases h : 2 ^ (8 * n - 1) ≤ v
    · have : 1 ≤ v / 2 ^ (8 * n - 1) := (Nat.le_div_iff_mul_le (Nat.two_pow_pos _)).mpr (by omega)
      simp only [h, decide_true, decide_eq_true_eq]
      omega
    · have : v / 2 ^ (8 * n - 1) = 0 := Nat.div_eq_of_lt (by omega)
      simp [h, this]
  unfold widen
  rw [ht]
  by_cases h : signed = true ∧ 2 ^ (8 * n - 1) ≤ v
  · simp [h.1, h.2]
  · have h2 : ¬((signed && decide (2 ^ (8 * n - 1) ≤ v)) = true) := by simpa using h
    rw [if_neg h2, if_neg h]
    rfl

/-- What `putData` writes. -/
theorem getV_putData (r : Regs) (prv : Bool) (d n : Nat) (signed : Bool) (lane v k l : Nat) (hl : l < 64) (hk : lane < 64)
    (hn : AccessBytes n) (hv : v < 2 ^ (8 * n)) :
    (r.putData prv d n signed lane v).getV prv k l =
      if d ≤ k ∧ k ≤ d + extraRegs n ∧ l = lane then loadedWord n signed v (k - d) else r.getV prv k l := by
  unfold Regs.putData extraRegs loadedWord
  by_cases h4 : n ≤ 4
  · rw [if_pos h4, getV_setV _ _ _ _ _ _ _ hl hk, widen_eq n signed v hv (by rcases hn with h | h | h | h | h <;> omega)]
    have e : (k = d ∧ l = lane) ↔ (d ≤ k ∧ k ≤ d + (if n ≤ 4 then 0 else n / 4 - 1) ∧ l = lane) := by simp only [h4, if_true]; omega
    simp only [e, if_pos h4]
  · rw [if_neg h4, getV_words _ _ _ _ _ _ _ _ hl hk]
    have e : (d ≤ k ∧ k < d + n / 4 ∧ l = lane) ↔ (d ≤ k ∧ k ≤ d + (if n ≤ 4 then 0 else n / 4 - 1) ∧ l = lane) := by
      simp only [h4, if_false]
      rcases hn with h | h | h | h | h <;> omega
    simp only [e, if_neg h4]

/-- What it leaves. -/
theorem putData_other (r : Regs) (prv : Bool) (d n : Nat) (signed : Bool) (lane v k l : Nat) (hk : lane < 64) (hn : 120 ≤ k) :
    (r.putData prv d n signed lane v).getV (!prv) k l = r.getV (!prv) k l := by
  unfold Regs.putData
  split
  · exact getV_setV_other _ _ _ _ _ _ _ hk hn
  · exact getV_words_other _ _ _ _ _ _ _ _ hk hn

/-- All but the lane registers stays. -/
theorem putData_rest (r : Regs) (prv : Bool) (d n : Nat) (signed : Bool) (lane v : Nat) :
    r.putData prv d n signed lane v =
      { r with v := (r.putData prv d n signed lane v).v, bank := { r.bank with v := (r.putData prv d n signed lane v).bank.v } } := by
  unfold Regs.putData
  split
  · exact setV_rest _ _ _ _ _
  · exact words_rest _ _ _ _ _ _

/-- The registers after several lanes have been given their values. -/
def putLanes (prv : Bool) (d n : Nat) (signed : Bool) (f : Nat → Nat) (r : Regs) (ls : List Nat) : Regs :=
  ls.foldl (fun u l => u.putData prv d n signed l (f l)) r

theorem getV_putLanes (prv : Bool) (d n : Nat) (signed : Bool) (f : Nat → Nat) (r : Regs) (ls : List Nat) (k l : Nat) (hl : l < 64)
    (hk : ∀ j ∈ ls, j < 64) (hn : AccessBytes n) (hv : ∀ j ∈ ls, f j < 2 ^ (8 * n)) :
    (putLanes prv d n signed f r ls).getV prv k l =
      if d ≤ k ∧ k ≤ d + extraRegs n ∧ l ∈ ls then loadedWord n signed (f l) (k - d) else r.getV prv k l := by
  induction ls generalizing r with
  | nil => simp [putLanes]
  | cons j js ih =>
    unfold putLanes at ih ⊢
    rw [List.foldl_cons, ih _ (fun i hi => hk i (by simp [hi])) (fun i hi => hv i (by simp [hi])),
      getV_putData _ _ _ _ _ _ _ _ _ hl (hk j (by simp)) hn (hv j (by simp))]
    by_cases e : l = j
    · subst e
      by_cases hm : l ∈ js <;> by_cases hd : d ≤ k ∧ k ≤ d + extraRegs n <;> simp [hm, hd]
    · simp [e]

theorem putLanes_other (prv : Bool) (d n : Nat) (signed : Bool) (f : Nat → Nat) (r : Regs) (ls : List Nat) (k l : Nat)
    (hk : ∀ j ∈ ls, j < 64) (hn : 120 ≤ k) : (putLanes prv d n signed f r ls).getV (!prv) k l = r.getV (!prv) k l := by
  induction ls generalizing r with
  | nil => rfl
  | cons j js ih =>
    unfold putLanes at ih ⊢
    rw [List.foldl_cons, ih _ (fun i hi => hk i (by simp [hi])), putData_other _ _ _ _ _ _ _ _ _ (hk j (by simp)) hn]

theorem putLanes_rest (prv : Bool) (d n : Nat) (signed : Bool) (f : Nat → Nat) (r : Regs) (ls : List Nat) :
    putLanes prv d n signed f r ls = { r with v := (putLanes prv d n signed f r ls).v,
                                              bank := { r.bank with v := (putLanes prv d n signed f r ls).bank.v } } := by
  induction ls generalizing r with
  | nil => rfl
  | cons j js ih =>
    unfold putLanes at ih ⊢
    rw [List.foldl_cons]
    exact rest_trans (putData_rest _ _ _ _ _ _ _) (ih _)

/-- Lanes given their values, as the claims say it. -/
theorem writesData_of {s t : State} {d n : Nat} {signed : Bool} {e : Mask} {f : Nat → Nat} (hn : AccessBytes n)
    (hv : ∀ l ∈ lanes e, f l < 2 ^ (8 * n)) (h : t.t.r = putLanes s.t.x.priv d n signed f s.t.r (lanes e)) :
    WritesData s t d n signed e f := by
  have hk : ∀ k ∈ lanes e, k < 64 := fun k hk => ((mem_lanes _ k).mp hk).1
  refine ⟨fun k l hl => ?_, fun k l hn => ?_, ?_⟩
  · rw [h, getV_putLanes _ _ _ _ _ _ _ _ _ hl hk hn hv]
    simp [mem_lanes, hl]
  · rw [h, putLanes_other _ _ _ _ _ _ _ _ _ hk hn]
  · rw [h]
    exact putLanes_rest _ _ _ _ _ _ _

/-- Reading a constant space reads no register, and leaves them. -/
theorem readConst_withR (s : State) (off n : Nat) (r : Regs) :
    (s.onT fun u => u.withR r).readConst off n = ((s.readConst off n).1.onT (fun u => u.withR r), (s.readConst off n).2) := by
  have hv : ∀ va k, (s.onT fun u => u.withR r).readVa s.t.i.part va k =
      ((s.readVa s.t.i.part va k).1.onT (fun u => u.withR r), (s.readVa s.t.i.part va k).2) := by
    intro va k
    unfold State.readVa
    have em : (s.onT fun u => u.withR r).m = s.m := rfl
    rw [em]
    split <;> rfl
  unfold State.readConst
  dsimp only
  have e : (s.onT fun u => u.withR r).recOf (s.onT fun u => u.withR r).t = s.recOf s.t := rfl
  have ep : (s.onT fun u => u.withR r).t.i.part = s.t.i.part := rfl
  rw [e, ep, hv]
  split <;> rfl

/-- Reading a local space reads no register, and leaves them. -/
theorem readLocal_withR (s : State) (space l ea n : Nat) (r : Regs) (b : List Byte) (h : s.readLocal space l ea n = (s, some b)) :
    (s.onT fun u => u.withR r).readLocal space l ea n = (s.onT fun u => u.withR r, some b) := by
  unfold State.readLocal at h ⊢
  split at h
  · obtain ⟨-, h⟩ := Prod.mk.inj h
    rw [← h]
    rfl
  · rw [readConst_withR, h]
  · obtain ⟨-, h⟩ := Prod.mk.inj h
    rw [← h]
    rfl

/-- The lanes of a load, one after another. -/
theorem foldl_loadLane {s : State} {space : Nat} {d a : Fld} {off : BitVec 4} {n : Nat} {signed : Bool} {b : Nat → List Byte}
    (ls : List Nat) (h : ∀ l ∈ ls, s.readLocal space l (s.t.localAddr a off n l) n = (s, some (b l))) (r : Regs) (bad : List Nat) :
    ls.foldl (loadLane s.t space d a off n signed) (s.onT fun u => u.withR r, bad) =
      (s.onT fun u => u.withR (putLanes s.t.x.priv d.toNat n signed (fun l => natOfBytes (b l)) r ls), bad) := by
  induction ls generalizing r with
  | nil => rfl
  | cons l ls ih =>
    rw [List.foldl_cons]
    have e : loadLane s.t space d a off n signed (s.onT fun u => u.withR r, bad) l =
        (s.onT fun u => u.withR (r.putData s.t.x.priv d.toNat n signed l (natOfBytes (b l))), bad) := by
      unfold loadLane
      dsimp only
      rw [readLocal_withR s space l _ n r (b l) (h l (by simp))]
      rfl
    rw [e, ih (fun k hk => h k (by simp [hk]))]
    rfl

end Sys2Proof.Machine
end

