-- ==== Sys2Proof/Laws/Memory.lean ====
section
/-! SUPPORT. Memory stays in its canonical form under every operation on it, and a write is read back. -/
namespace Sys2Proof.Machine

theorem wf_reset : Memory.wf State.reset.m.mem = true := rfl

theorem wf_of_mem_eq {m n : Store} (e : n.mem = m.mem) (h : Memory.wf m.mem = true) : Memory.wf n.mem = true := e ▸ h

/-- A property that each of a list's changes of the store keeps is kept by all of them. -/
theorem foldl_keeps {α : Type} {P : Store → Prop} {f : Store → α → Store} (hf : ∀ m a, P m → P (f m a)) (l : List α) {m : Store}
    (h : P m) : P (l.foldl f m) := by
  induction l generalizing m with
  | nil => exact h
  | cons a l ih => exact ih (hf m a h)

@[simp] theorem mem_onGran (m : Store) (g : Nat) (f : Gran → Gran) : (m.onGran g f).mem = m.mem := rfl
@[simp] theorem mem_advance (m : Store) : m.advance.mem = m.mem := rfl
@[simp] theorem mem_promotionCommit (m : Store) (part g : Nat) : (m.promotionCommit part g).mem = m.mem := rfl
@[simp] theorem mem_demotionCommit (m : Store) (part g : Nat) : (m.demotionCommit part g).mem = m.mem := rfl
@[simp] theorem mem_cancel (m : Store) (g : Nat) : (m.cancel g).mem = m.mem := rfl
@[simp] theorem mem_putPoisoned (m : Store) (ua n : Nat) : (m.putPoisoned ua n).mem = m.mem := rfl
@[simp] theorem mem_addGrans (m : Store) (g : Nat) (gs : List Gran) : (m.addGrans g gs).mem = m.mem := rfl
@[simp] theorem mem_release (m : Store) (part ua len : Nat) : (m.release part ua len).mem = m.mem := rfl

@[simp] theorem mem_promote (m : Store) (g : Nat) : (m.promote g).mem = m.mem := by
  unfold Store.promote; split
  · rfl
  · dsimp only; split <;> rfl

@[simp] theorem mem_demote (m : Store) (g : Nat) : (m.demote g).mem = m.mem := by
  unfold Store.demote; split
  · rfl
  · split <;> rfl

@[simp] theorem mem_unmapRange (m : Store) (part va len : Nat) : (m.unmapRange part va len).mem = m.mem := by
  unfold Store.unmapRange
  dsimp only [mem_advance]
  generalize List.filter _ m.maps = cut
  exact foldl_keeps (P := fun n => n.mem = m.mem)
    (f := fun n (p : Mapping) => n.release part (p.ua + (max va p.va - p.va)) (min (va + len) (p.va + p.len) - max va p.va))
    (fun _ _ h => h) cut rfl

theorem wf_meet {m : Store} (w : Nat) (h : Memory.wf m.mem = true) : Memory.wf (m.meet w).mem = true := by
  unfold Store.meet; split
  · dsimp only; split
    · exact Table.wf_setList _ _ h
    · exact h
  · exact h

theorem wf_meets {m : Store} (l : List Nat) (h : Memory.wf m.mem = true) : Memory.wf (l.foldl Store.meet m).mem = true :=
  foldl_keeps (P := fun m => Memory.wf m.mem = true) (fun _ w => wf_meet w) l h

theorem wf_put {m : Store} (ua : Nat) (b : List Byte) (ws : List Nat) (h : Memory.wf m.mem = true) :
    Memory.wf (m.put ua b ws).mem = true := Table.wf_setList ua b h

theorem wf_read {m : Store} (ua n : Nat) (h : Memory.wf m.mem = true) : Memory.wf (m.read ua n).1.mem = true := by
  unfold Store.read; dsimp only; split <;> exact wf_meets _ h

theorem wf_write {m : Store} (ua : Nat) (b : List Byte) (ws : List Nat) (h : Memory.wf m.mem = true) :
    Memory.wf (m.write ua b ws).1.mem = true := by
  unfold Store.write; dsimp only; split
  · exact wf_meets _ h
  · exact wf_put _ _ _ (wf_meets _ h)

theorem wf_zeroFill {m : Store} (g : Nat) (h : Memory.wf m.mem = true) : Memory.wf (m.zeroFill g).mem = true := Table.wf_clear _ _ h

theorem wf_enliven {m : Store} (ua n : Nat) (h : Memory.wf m.mem = true) : Memory.wf (m.enliven ua n).mem = true :=
  foldl_keeps (P := fun m => Memory.wf m.mem = true) (fun m g hm => by
    split
    · exact wf_zeroFill g hm
    · exact hm) _ h

theorem wf_deviceWrite {m : Store} (part va : Nat) (b : List Byte) (h : Memory.wf m.mem = true) :
    Memory.wf (m.deviceWrite part va b).mem = true := by
  unfold Store.deviceWrite; split
  · exact h
  · exact wf_put _ _ _ (wf_enliven _ _ h)

theorem wf_wipe {m : Store} (ua len : Nat) (h : Memory.wf m.mem = true) : Memory.wf (m.wipe ua len).mem = true := Table.wf_clear _ _ h

theorem wf_deviceWriteRun {m : Store} (part va : Nat) (b : List Byte) (h : Memory.wf m.mem = true) :
    Memory.wf (m.deviceWriteRun part va b).mem = true :=
  foldl_keeps (P := fun m => Memory.wf m.mem = true) (fun m i hm => by
    dsimp only
    split
    · exact hm
    · exact wf_put _ _ _ (wf_enliven _ _ hm)) _ h

theorem wf_deviceImage {m : Store} (part va len : Nat) (cells : Sparse Byte) (h : Memory.wf m.mem = true) :
    Memory.wf (m.deviceImage part va len cells).mem = true := by
  unfold Store.deviceImage; split
  · exact h
  · dsimp only
    rename_i ua _
    generalize cells.filter _ = es
    have hw := wf_wipe ua len h
    generalize (m.wipe ua len).mem = x at hw
    induction es generalizing x with
    | nil => exact hw
    | cons e es ih => exact ih _ (Table.wf_set _ _ hw)

theorem wf_takeUa {m : Store} (len align : Nat) (h : Memory.wf m.mem = true) : Memory.wf (m.takeUa len align).1.mem = true := by
  unfold Store.takeUa; split
  · exact wf_wipe _ _ h
  · exact h

theorem wf_onBench {s : State} (b : List Byte) (h : Memory.wf s.m.mem = true) : Memory.wf (s.onBench b).m.mem = true :=
  Table.wf_setList _ _ h

/-- A write gives its own bytes and leaves every other byte (R57). -/
theorem get_put (m : Store) (ua a : Nat) (b : List Byte) (ws : List Nat) :
    Table.get 0 (m.put ua b ws).mem a = if ua ≤ a ∧ a < ua + b.length then b.getD (a - ua) 0 else Table.get 0 m.mem a :=
  Table.get_setList _ _ _ _

theorem gran_onGran {m : Store} {g : Nat} {e : Gran} (f : Gran → Gran) (h : m.gran g = some e) :
    (m.onGran g f).gran g = some (f e) := by
  unfold Store.gran Store.onGran at *
  dsimp only
  revert h
  induction m.tier with
  | nil => simp
  | cons x xs ih =>
    intro h
    by_cases hx : x.1 = g
    · simp [hx] at h ⊢; rw [h]
    · simp [hx] at h ⊢; simpa using ih (by simpa using h)

end Sys2Proof.Machine
end

