-- ==== Sys2Proof/Laws/PerInstr.lean ====
section
/-! SUPPORT. One lemma a constructor: the words of a well-formed instruction decode to it. -/
namespace Sys2Proof

theorem getLsbD_top (w : Word) : w.getLsbD 31 = (fld w 31 1).getLsbD 0 := by simp [fld]

theorem ctl_eq {w : Word} {c : Ctl} (hk : fld w 31 1 = BitVec.ofBool c.k) (hg : fld w 29 2 = c.g) : ctl w = c := by
  simp only [ctl, getLsbD_top, hk, hg]; simp

theorem bit31_eq {w : Word} {k : Bool} (hk : fld w 31 1 = BitVec.ofBool k) : w.getLsbD 31 = k := by
  simp only [getLsbD_top, hk]; simp

theorem shape_4_1_2_7_4_2_1 (k : BitVec 1) (g : BitVec 2) (op : BitVec 8) (x : BitVec 4) (y : BitVec 1) (z : BitVec 2) (u : BitVec 7) (v : BitVec 4) (t : BitVec 2) (r : BitVec 1)
    {w : Word} (h : w = (k ++ g ++ op ++ x ++ y ++ z ++ u ++ v ++ t ++ r : BitVec 32)) :
    fld w 31 1 = k ∧ fld w 29 2 = g ∧ fld w 21 8 = op ∧ fld w 17 4 = x ∧ fld w 16 1 = y ∧ fld w 14 2 = z ∧ fld w 7 7 = u ∧ fld w 3 4 = v ∧ fld w 1 2 = t ∧ fld w 0 1 = r := by
  subst h
  refine ⟨(?_ : BitVec.extractLsb' 31 1 (k ++ g ++ op ++ x ++ y ++ z ++ u ++ v ++ t ++ r) = k), (?_ : BitVec.extractLsb' 29 2 (k ++ g ++ op ++ x ++ y ++ z ++ u ++ v ++ t ++ r) = g), (?_ : BitVec.extractLsb' 21 8 (k ++ g ++ op ++ x ++ y ++ z ++ u ++ v ++ t ++ r) = op), (?_ : BitVec.extractLsb' 17 4 (k ++ g ++ op ++ x ++ y ++ z ++ u ++ v ++ t ++ r) = x), (?_ : BitVec.extractLsb' 16 1 (k ++ g ++ op ++ x ++ y ++ z ++ u ++ v ++ t ++ r) = y), (?_ : BitVec.extractLsb' 14 2 (k ++ g ++ op ++ x ++ y ++ z ++ u ++ v ++ t ++ r) = z), (?_ : BitVec.extractLsb' 7 7 (k ++ g ++ op ++ x ++ y ++ z ++ u ++ v ++ t ++ r) = u), (?_ : BitVec.extractLsb' 3 4 (k ++ g ++ op ++ x ++ y ++ z ++ u ++ v ++ t ++ r) = v), (?_ : BitVec.extractLsb' 1 2 (k ++ g ++ op ++ x ++ y ++ z ++ u ++ v ++ t ++ r) = t), (?_ : BitVec.extractLsb' 0 1 (k ++ g ++ op ++ x ++ y ++ z ++ u ++ v ++ t ++ r) = r)⟩ <;>
    (repeat first | rw [BitVec.extractLsb'_append_eq_of_le (by decide)] | rw [BitVec.extractLsb'_append_eq_of_add_le (by decide)]) <;>
    exact BitVec.extractLsb'_eq_self

theorem shape_4_3_7_4_2_1 (k : BitVec 1) (g : BitVec 2) (op : BitVec 8) (x : BitVec 4) (y : BitVec 3) (z : BitVec 7) (u : BitVec 4) (v : BitVec 2) (t : BitVec 1)
    {w : Word} (h : w = (k ++ g ++ op ++ x ++ y ++ z ++ u ++ v ++ t : BitVec 32)) :
    fld w 31 1 = k ∧ fld w 29 2 = g ∧ fld w 21 8 = op ∧ fld w 17 4 = x ∧ fld w 14 3 = y ∧ fld w 7 7 = z ∧ fld w 3 4 = u ∧ fld w 1 2 = v ∧ fld w 0 1 = t := by
  subst h
  refine ⟨(?_ : BitVec.extractLsb' 31 1 (k ++ g ++ op ++ x ++ y ++ z ++ u ++ v ++ t) = k), (?_ : BitVec.extractLsb' 29 2 (k ++ g ++ op ++ x ++ y ++ z ++ u ++ v ++ t) = g), (?_ : BitVec.extractLsb' 21 8 (k ++ g ++ op ++ x ++ y ++ z ++ u ++ v ++ t) = op), (?_ : BitVec.extractLsb' 17 4 (k ++ g ++ op ++ x ++ y ++ z ++ u ++ v ++ t) = x), (?_ : BitVec.extractLsb' 14 3 (k ++ g ++ op ++ x ++ y ++ z ++ u ++ v ++ t) = y), (?_ : BitVec.extractLsb' 7 7 (k ++ g ++ op ++ x ++ y ++ z ++ u ++ v ++ t) = z), (?_ : BitVec.extractLsb' 3 4 (k ++ g ++ op ++ x ++ y ++ z ++ u ++ v ++ t) = u), (?_ : BitVec.extractLsb' 1 2 (k ++ g ++ op ++ x ++ y ++ z ++ u ++ v ++ t) = v), (?_ : BitVec.extractLsb' 0 1 (k ++ g ++ op ++ x ++ y ++ z ++ u ++ v ++ t) = t)⟩ <;>
    (repeat first | rw [BitVec.extractLsb'_append_eq_of_le (by decide)] | rw [BitVec.extractLsb'_append_eq_of_add_le (by decide)]) <;>
    exact BitVec.extractLsb'_eq_self

theorem shape_4_3_14 (k : BitVec 1) (g : BitVec 2) (op : BitVec 8) (x : BitVec 4) (y : BitVec 3) (z : BitVec 14)
    {w : Word} (h : w = (k ++ g ++ op ++ x ++ y ++ z : BitVec 32)) :
    fld w 31 1 = k ∧ fld w 29 2 = g ∧ fld w 21 8 = op ∧ fld w 17 4 = x ∧ fld w 14 3 = y ∧ fld w 0 14 = z := by
  subst h
  refine ⟨(?_ : BitVec.extractLsb' 31 1 (k ++ g ++ op ++ x ++ y ++ z) = k), (?_ : BitVec.extractLsb' 29 2 (k ++ g ++ op ++ x ++ y ++ z) = g), (?_ : BitVec.extractLsb' 21 8 (k ++ g ++ op ++ x ++ y ++ z) = op), (?_ : BitVec.extractLsb' 17 4 (k ++ g ++ op ++ x ++ y ++ z) = x), (?_ : BitVec.extractLsb' 14 3 (k ++ g ++ op ++ x ++ y ++ z) = y), (?_ : BitVec.extractLsb' 0 14 (k ++ g ++ op ++ x ++ y ++ z) = z)⟩ <;>
    (repeat first | rw [BitVec.extractLsb'_append_eq_of_le (by decide)] | rw [BitVec.extractLsb'_append_eq_of_add_le (by decide)]) <;>
    exact BitVec.extractLsb'_eq_self

theorem shape_5_2_7_7 (k : BitVec 1) (g : BitVec 2) (op : BitVec 8) (x : BitVec 5) (y : BitVec 2) (z : BitVec 7) (u : BitVec 7)
    {w : Word} (h : w = (k ++ g ++ op ++ x ++ y ++ z ++ u : BitVec 32)) :
    fld w 31 1 = k ∧ fld w 29 2 = g ∧ fld w 21 8 = op ∧ fld w 16 5 = x ∧ fld w 14 2 = y ∧ fld w 7 7 = z ∧ fld w 0 7 = u := by
  subst h
  refine ⟨(?_ : BitVec.extractLsb' 31 1 (k ++ g ++ op ++ x ++ y ++ z ++ u) = k), (?_ : BitVec.extractLsb' 29 2 (k ++ g ++ op ++ x ++ y ++ z ++ u) = g), (?_ : BitVec.extractLsb' 21 8 (k ++ g ++ op ++ x ++ y ++ z ++ u) = op), (?_ : BitVec.extractLsb' 16 5 (k ++ g ++ op ++ x ++ y ++ z ++ u) = x), (?_ : BitVec.extractLsb' 14 2 (k ++ g ++ op ++ x ++ y ++ z ++ u) = y), (?_ : BitVec.extractLsb' 7 7 (k ++ g ++ op ++ x ++ y ++ z ++ u) = z), (?_ : BitVec.extractLsb' 0 7 (k ++ g ++ op ++ x ++ y ++ z ++ u) = u)⟩ <;>
    (repeat first | rw [BitVec.extractLsb'_append_eq_of_le (by decide)] | rw [BitVec.extractLsb'_append_eq_of_add_le (by decide)]) <;>
    exact BitVec.extractLsb'_eq_self

theorem shape_5_2_14 (k : BitVec 1) (g : BitVec 2) (op : BitVec 8) (x : BitVec 5) (y : BitVec 2) (z : BitVec 14)
    {w : Word} (h : w = (k ++ g ++ op ++ x ++ y ++ z : BitVec 32)) :
    fld w 31 1 = k ∧ fld w 29 2 = g ∧ fld w 21 8 = op ∧ fld w 16 5 = x ∧ fld w 14 2 = y ∧ fld w 0 14 = z := by
  subst h
  refine ⟨(?_ : BitVec.extractLsb' 31 1 (k ++ g ++ op ++ x ++ y ++ z) = k), (?_ : BitVec.extractLsb' 29 2 (k ++ g ++ op ++ x ++ y ++ z) = g), (?_ : BitVec.extractLsb' 21 8 (k ++ g ++ op ++ x ++ y ++ z) = op), (?_ : BitVec.extractLsb' 16 5 (k ++ g ++ op ++ x ++ y ++ z) = x), (?_ : BitVec.extractLsb' 14 2 (k ++ g ++ op ++ x ++ y ++ z) = y), (?_ : BitVec.extractLsb' 0 14 (k ++ g ++ op ++ x ++ y ++ z) = z)⟩ <;>
    (repeat first | rw [BitVec.extractLsb'_append_eq_of_le (by decide)] | rw [BitVec.extractLsb'_append_eq_of_add_le (by decide)]) <;>
    exact BitVec.extractLsb'_eq_self

theorem shape_6_1_7_7 (k : BitVec 1) (g : BitVec 2) (op : BitVec 8) (x : BitVec 6) (y : BitVec 1) (z : BitVec 7) (u : BitVec 7)
    {w : Word} (h : w = (k ++ g ++ op ++ x ++ y ++ z ++ u : BitVec 32)) :
    fld w 31 1 = k ∧ fld w 29 2 = g ∧ fld w 21 8 = op ∧ fld w 15 6 = x ∧ fld w 14 1 = y ∧ fld w 7 7 = z ∧ fld w 0 7 = u := by
  subst h
  refine ⟨(?_ : BitVec.extractLsb' 31 1 (k ++ g ++ op ++ x ++ y ++ z ++ u) = k), (?_ : BitVec.extractLsb' 29 2 (k ++ g ++ op ++ x ++ y ++ z ++ u) = g), (?_ : BitVec.extractLsb' 21 8 (k ++ g ++ op ++ x ++ y ++ z ++ u) = op), (?_ : BitVec.extractLsb' 15 6 (k ++ g ++ op ++ x ++ y ++ z ++ u) = x), (?_ : BitVec.extractLsb' 14 1 (k ++ g ++ op ++ x ++ y ++ z ++ u) = y), (?_ : BitVec.extractLsb' 7 7 (k ++ g ++ op ++ x ++ y ++ z ++ u) = z), (?_ : BitVec.extractLsb' 0 7 (k ++ g ++ op ++ x ++ y ++ z ++ u) = u)⟩ <;>
    (repeat first | rw [BitVec.extractLsb'_append_eq_of_le (by decide)] | rw [BitVec.extractLsb'_append_eq_of_add_le (by decide)]) <;>
    exact BitVec.extractLsb'_eq_self

theorem shape_7_2_12 (k : BitVec 1) (g : BitVec 2) (op : BitVec 8) (x : BitVec 7) (y : BitVec 2) (z : BitVec 12)
    {w : Word} (h : w = (k ++ g ++ op ++ x ++ y ++ z : BitVec 32)) :
    fld w 31 1 = k ∧ fld w 29 2 = g ∧ fld w 21 8 = op ∧ fld w 14 7 = x ∧ fld w 12 2 = y ∧ fld w 0 12 = z := by
  subst h
  refine ⟨(?_ : BitVec.extractLsb' 31 1 (k ++ g ++ op ++ x ++ y ++ z) = k), (?_ : BitVec.extractLsb' 29 2 (k ++ g ++ op ++ x ++ y ++ z) = g), (?_ : BitVec.extractLsb' 21 8 (k ++ g ++ op ++ x ++ y ++ z) = op), (?_ : BitVec.extractLsb' 14 7 (k ++ g ++ op ++ x ++ y ++ z) = x), (?_ : BitVec.extractLsb' 12 2 (k ++ g ++ op ++ x ++ y ++ z) = y), (?_ : BitVec.extractLsb' 0 12 (k ++ g ++ op ++ x ++ y ++ z) = z)⟩ <;>
    (repeat first | rw [BitVec.extractLsb'_append_eq_of_le (by decide)] | rw [BitVec.extractLsb'_append_eq_of_add_le (by decide)]) <;>
    exact BitVec.extractLsb'_eq_self

theorem shape_7_5_2_5_2 (k : BitVec 1) (g : BitVec 2) (op : BitVec 8) (x : BitVec 7) (y : BitVec 5) (z : BitVec 2) (u : BitVec 5) (v : BitVec 2)
    {w : Word} (h : w = (k ++ g ++ op ++ x ++ y ++ z ++ u ++ v : BitVec 32)) :
    fld w 31 1 = k ∧ fld w 29 2 = g ∧ fld w 21 8 = op ∧ fld w 14 7 = x ∧ fld w 9 5 = y ∧ fld w 7 2 = z ∧ fld w 2 5 = u ∧ fld w 0 2 = v := by
  subst h
  refine ⟨(?_ : BitVec.extractLsb' 31 1 (k ++ g ++ op ++ x ++ y ++ z ++ u ++ v) = k), (?_ : BitVec.extractLsb' 29 2 (k ++ g ++ op ++ x ++ y ++ z ++ u ++ v) = g), (?_ : BitVec.extractLsb' 21 8 (k ++ g ++ op ++ x ++ y ++ z ++ u ++ v) = op), (?_ : BitVec.extractLsb' 14 7 (k ++ g ++ op ++ x ++ y ++ z ++ u ++ v) = x), (?_ : BitVec.extractLsb' 9 5 (k ++ g ++ op ++ x ++ y ++ z ++ u ++ v) = y), (?_ : BitVec.extractLsb' 7 2 (k ++ g ++ op ++ x ++ y ++ z ++ u ++ v) = z), (?_ : BitVec.extractLsb' 2 5 (k ++ g ++ op ++ x ++ y ++ z ++ u ++ v) = u), (?_ : BitVec.extractLsb' 0 2 (k ++ g ++ op ++ x ++ y ++ z ++ u ++ v) = v)⟩ <;>
    (repeat first | rw [BitVec.extractLsb'_append_eq_of_le (by decide)] | rw [BitVec.extractLsb'_append_eq_of_add_le (by decide)]) <;>
    exact BitVec.extractLsb'_eq_self

theorem shape_7_6_3_2_1_2 (k : BitVec 1) (g : BitVec 2) (op : BitVec 8) (x : BitVec 7) (y : BitVec 6) (z : BitVec 3) (u : BitVec 2) (v : BitVec 1) (t : BitVec 2)
    {w : Word} (h : w = (k ++ g ++ op ++ x ++ y ++ z ++ u ++ v ++ t : BitVec 32)) :
    fld w 31 1 = k ∧ fld w 29 2 = g ∧ fld w 21 8 = op ∧ fld w 14 7 = x ∧ fld w 8 6 = y ∧ fld w 5 3 = z ∧ fld w 3 2 = u ∧ fld w 2 1 = v ∧ fld w 0 2 = t := by
  subst h
  refine ⟨(?_ : BitVec.extractLsb' 31 1 (k ++ g ++ op ++ x ++ y ++ z ++ u ++ v ++ t) = k), (?_ : BitVec.extractLsb' 29 2 (k ++ g ++ op ++ x ++ y ++ z ++ u ++ v ++ t) = g), (?_ : BitVec.extractLsb' 21 8 (k ++ g ++ op ++ x ++ y ++ z ++ u ++ v ++ t) = op), (?_ : BitVec.extractLsb' 14 7 (k ++ g ++ op ++ x ++ y ++ z ++ u ++ v ++ t) = x), (?_ : BitVec.extractLsb' 8 6 (k ++ g ++ op ++ x ++ y ++ z ++ u ++ v ++ t) = y), (?_ : BitVec.extractLsb' 5 3 (k ++ g ++ op ++ x ++ y ++ z ++ u ++ v ++ t) = z), (?_ : BitVec.extractLsb' 3 2 (k ++ g ++ op ++ x ++ y ++ z ++ u ++ v ++ t) = u), (?_ : BitVec.extractLsb' 2 1 (k ++ g ++ op ++ x ++ y ++ z ++ u ++ v ++ t) = v), (?_ : BitVec.extractLsb' 0 2 (k ++ g ++ op ++ x ++ y ++ z ++ u ++ v ++ t) = t)⟩ <;>
    (repeat first | rw [BitVec.extractLsb'_append_eq_of_le (by decide)] | rw [BitVec.extractLsb'_append_eq_of_add_le (by decide)]) <;>
    exact BitVec.extractLsb'_eq_self

theorem shape_7_6_4_2_2 (k : BitVec 1) (g : BitVec 2) (op : BitVec 8) (x : BitVec 7) (y : BitVec 6) (z : BitVec 4) (u : BitVec 2) (v : BitVec 2)
    {w : Word} (h : w = (k ++ g ++ op ++ x ++ y ++ z ++ u ++ v : BitVec 32)) :
    fld w 31 1 = k ∧ fld w 29 2 = g ∧ fld w 21 8 = op ∧ fld w 14 7 = x ∧ fld w 8 6 = y ∧ fld w 4 4 = z ∧ fld w 2 2 = u ∧ fld w 0 2 = v := by
  subst h
  refine ⟨(?_ : BitVec.extractLsb' 31 1 (k ++ g ++ op ++ x ++ y ++ z ++ u ++ v) = k), (?_ : BitVec.extractLsb' 29 2 (k ++ g ++ op ++ x ++ y ++ z ++ u ++ v) = g), (?_ : BitVec.extractLsb' 21 8 (k ++ g ++ op ++ x ++ y ++ z ++ u ++ v) = op), (?_ : BitVec.extractLsb' 14 7 (k ++ g ++ op ++ x ++ y ++ z ++ u ++ v) = x), (?_ : BitVec.extractLsb' 8 6 (k ++ g ++ op ++ x ++ y ++ z ++ u ++ v) = y), (?_ : BitVec.extractLsb' 4 4 (k ++ g ++ op ++ x ++ y ++ z ++ u ++ v) = z), (?_ : BitVec.extractLsb' 2 2 (k ++ g ++ op ++ x ++ y ++ z ++ u ++ v) = u), (?_ : BitVec.extractLsb' 0 2 (k ++ g ++ op ++ x ++ y ++ z ++ u ++ v) = v)⟩ <;>
    (repeat first | rw [BitVec.extractLsb'_append_eq_of_le (by decide)] | rw [BitVec.extractLsb'_append_eq_of_add_le (by decide)]) <;>
    exact BitVec.extractLsb'_eq_self

theorem shape_7_7_1_6 (k : BitVec 1) (g : BitVec 2) (op : BitVec 8) (x : BitVec 7) (y : BitVec 7) (z : BitVec 1) (u : BitVec 6)
    {w : Word} (h : w = (k ++ g ++ op ++ x ++ y ++ z ++ u : BitVec 32)) :
    fld w 31 1 = k ∧ fld w 29 2 = g ∧ fld w 21 8 = op ∧ fld w 14 7 = x ∧ fld w 7 7 = y ∧ fld w 6 1 = z ∧ fld w 0 6 = u := by
  subst h
  refine ⟨(?_ : BitVec.extractLsb' 31 1 (k ++ g ++ op ++ x ++ y ++ z ++ u) = k), (?_ : BitVec.extractLsb' 29 2 (k ++ g ++ op ++ x ++ y ++ z ++ u) = g), (?_ : BitVec.extractLsb' 21 8 (k ++ g ++ op ++ x ++ y ++ z ++ u) = op), (?_ : BitVec.extractLsb' 14 7 (k ++ g ++ op ++ x ++ y ++ z ++ u) = x), (?_ : BitVec.extractLsb' 7 7 (k ++ g ++ op ++ x ++ y ++ z ++ u) = y), (?_ : BitVec.extractLsb' 6 1 (k ++ g ++ op ++ x ++ y ++ z ++ u) = z), (?_ : BitVec.extractLsb' 0 6 (k ++ g ++ op ++ x ++ y ++ z ++ u) = u)⟩ <;>
    (repeat first | rw [BitVec.extractLsb'_append_eq_of_le (by decide)] | rw [BitVec.extractLsb'_append_eq_of_add_le (by decide)]) <;>
    exact BitVec.extractLsb'_eq_self

theorem shape_7_7_2_5 (k : BitVec 1) (g : BitVec 2) (op : BitVec 8) (x : BitVec 7) (y : BitVec 7) (z : BitVec 2) (u : BitVec 5)
    {w : Word} (h : w = (k ++ g ++ op ++ x ++ y ++ z ++ u : BitVec 32)) :
    fld w 31 1 = k ∧ fld w 29 2 = g ∧ fld w 21 8 = op ∧ fld w 14 7 = x ∧ fld w 7 7 = y ∧ fld w 5 2 = z ∧ fld w 0 5 = u := by
  subst h
  refine ⟨(?_ : BitVec.extractLsb' 31 1 (k ++ g ++ op ++ x ++ y ++ z ++ u) = k), (?_ : BitVec.extractLsb' 29 2 (k ++ g ++ op ++ x ++ y ++ z ++ u) = g), (?_ : BitVec.extractLsb' 21 8 (k ++ g ++ op ++ x ++ y ++ z ++ u) = op), (?_ : BitVec.extractLsb' 14 7 (k ++ g ++ op ++ x ++ y ++ z ++ u) = x), (?_ : BitVec.extractLsb' 7 7 (k ++ g ++ op ++ x ++ y ++ z ++ u) = y), (?_ : BitVec.extractLsb' 5 2 (k ++ g ++ op ++ x ++ y ++ z ++ u) = z), (?_ : BitVec.extractLsb' 0 5 (k ++ g ++ op ++ x ++ y ++ z ++ u) = u)⟩ <;>
    (repeat first | rw [BitVec.extractLsb'_append_eq_of_le (by decide)] | rw [BitVec.extractLsb'_append_eq_of_add_le (by decide)]) <;>
    exact BitVec.extractLsb'_eq_self

theorem shape_7_7_3_4 (k : BitVec 1) (g : BitVec 2) (op : BitVec 8) (x : BitVec 7) (y : BitVec 7) (z : BitVec 3) (u : BitVec 4)
    {w : Word} (h : w = (k ++ g ++ op ++ x ++ y ++ z ++ u : BitVec 32)) :
    fld w 31 1 = k ∧ fld w 29 2 = g ∧ fld w 21 8 = op ∧ fld w 14 7 = x ∧ fld w 7 7 = y ∧ fld w 4 3 = z ∧ fld w 0 4 = u := by
  subst h
  refine ⟨(?_ : BitVec.extractLsb' 31 1 (k ++ g ++ op ++ x ++ y ++ z ++ u) = k), (?_ : BitVec.extractLsb' 29 2 (k ++ g ++ op ++ x ++ y ++ z ++ u) = g), (?_ : BitVec.extractLsb' 21 8 (k ++ g ++ op ++ x ++ y ++ z ++ u) = op), (?_ : BitVec.extractLsb' 14 7 (k ++ g ++ op ++ x ++ y ++ z ++ u) = x), (?_ : BitVec.extractLsb' 7 7 (k ++ g ++ op ++ x ++ y ++ z ++ u) = y), (?_ : BitVec.extractLsb' 4 3 (k ++ g ++ op ++ x ++ y ++ z ++ u) = z), (?_ : BitVec.extractLsb' 0 4 (k ++ g ++ op ++ x ++ y ++ z ++ u) = u)⟩ <;>
    (repeat first | rw [BitVec.extractLsb'_append_eq_of_le (by decide)] | rw [BitVec.extractLsb'_append_eq_of_add_le (by decide)]) <;>
    exact BitVec.extractLsb'_eq_self

theorem shape_7_7_4_2_1 (k : BitVec 1) (g : BitVec 2) (op : BitVec 8) (x : BitVec 7) (y : BitVec 7) (z : BitVec 4) (u : BitVec 2) (v : BitVec 1)
    {w : Word} (h : w = (k ++ g ++ op ++ x ++ y ++ z ++ u ++ v : BitVec 32)) :
    fld w 31 1 = k ∧ fld w 29 2 = g ∧ fld w 21 8 = op ∧ fld w 14 7 = x ∧ fld w 7 7 = y ∧ fld w 3 4 = z ∧ fld w 1 2 = u ∧ fld w 0 1 = v := by
  subst h
  refine ⟨(?_ : BitVec.extractLsb' 31 1 (k ++ g ++ op ++ x ++ y ++ z ++ u ++ v) = k), (?_ : BitVec.extractLsb' 29 2 (k ++ g ++ op ++ x ++ y ++ z ++ u ++ v) = g), (?_ : BitVec.extractLsb' 21 8 (k ++ g ++ op ++ x ++ y ++ z ++ u ++ v) = op), (?_ : BitVec.extractLsb' 14 7 (k ++ g ++ op ++ x ++ y ++ z ++ u ++ v) = x), (?_ : BitVec.extractLsb' 7 7 (k ++ g ++ op ++ x ++ y ++ z ++ u ++ v) = y), (?_ : BitVec.extractLsb' 3 4 (k ++ g ++ op ++ x ++ y ++ z ++ u ++ v) = z), (?_ : BitVec.extractLsb' 1 2 (k ++ g ++ op ++ x ++ y ++ z ++ u ++ v) = u), (?_ : BitVec.extractLsb' 0 1 (k ++ g ++ op ++ x ++ y ++ z ++ u ++ v) = v)⟩ <;>
    (repeat first | rw [BitVec.extractLsb'_append_eq_of_le (by decide)] | rw [BitVec.extractLsb'_append_eq_of_add_le (by decide)]) <;>
    exact BitVec.extractLsb'_eq_self

theorem shape_7_7_4_3 (k : BitVec 1) (g : BitVec 2) (op : BitVec 8) (x : BitVec 7) (y : BitVec 7) (z : BitVec 4) (u : BitVec 3)
    {w : Word} (h : w = (k ++ g ++ op ++ x ++ y ++ z ++ u : BitVec 32)) :
    fld w 31 1 = k ∧ fld w 29 2 = g ∧ fld w 21 8 = op ∧ fld w 14 7 = x ∧ fld w 7 7 = y ∧ fld w 3 4 = z ∧ fld w 0 3 = u := by
  subst h
  refine ⟨(?_ : BitVec.extractLsb' 31 1 (k ++ g ++ op ++ x ++ y ++ z ++ u) = k), (?_ : BitVec.extractLsb' 29 2 (k ++ g ++ op ++ x ++ y ++ z ++ u) = g), (?_ : BitVec.extractLsb' 21 8 (k ++ g ++ op ++ x ++ y ++ z ++ u) = op), (?_ : BitVec.extractLsb' 14 7 (k ++ g ++ op ++ x ++ y ++ z ++ u) = x), (?_ : BitVec.extractLsb' 7 7 (k ++ g ++ op ++ x ++ y ++ z ++ u) = y), (?_ : BitVec.extractLsb' 3 4 (k ++ g ++ op ++ x ++ y ++ z ++ u) = z), (?_ : BitVec.extractLsb' 0 3 (k ++ g ++ op ++ x ++ y ++ z ++ u) = u)⟩ <;>
    (repeat first | rw [BitVec.extractLsb'_append_eq_of_le (by decide)] | rw [BitVec.extractLsb'_append_eq_of_add_le (by decide)]) <;>
    exact BitVec.extractLsb'_eq_self

theorem shape_7_7_5_2 (k : BitVec 1) (g : BitVec 2) (op : BitVec 8) (x : BitVec 7) (y : BitVec 7) (z : BitVec 5) (u : BitVec 2)
    {w : Word} (h : w = (k ++ g ++ op ++ x ++ y ++ z ++ u : BitVec 32)) :
    fld w 31 1 = k ∧ fld w 29 2 = g ∧ fld w 21 8 = op ∧ fld w 14 7 = x ∧ fld w 7 7 = y ∧ fld w 2 5 = z ∧ fld w 0 2 = u := by
  subst h
  refine ⟨(?_ : BitVec.extractLsb' 31 1 (k ++ g ++ op ++ x ++ y ++ z ++ u) = k), (?_ : BitVec.extractLsb' 29 2 (k ++ g ++ op ++ x ++ y ++ z ++ u) = g), (?_ : BitVec.extractLsb' 21 8 (k ++ g ++ op ++ x ++ y ++ z ++ u) = op), (?_ : BitVec.extractLsb' 14 7 (k ++ g ++ op ++ x ++ y ++ z ++ u) = x), (?_ : BitVec.extractLsb' 7 7 (k ++ g ++ op ++ x ++ y ++ z ++ u) = y), (?_ : BitVec.extractLsb' 2 5 (k ++ g ++ op ++ x ++ y ++ z ++ u) = z), (?_ : BitVec.extractLsb' 0 2 (k ++ g ++ op ++ x ++ y ++ z ++ u) = u)⟩ <;>
    (repeat first | rw [BitVec.extractLsb'_append_eq_of_le (by decide)] | rw [BitVec.extractLsb'_append_eq_of_add_le (by decide)]) <;>
    exact BitVec.extractLsb'_eq_self

theorem shape_7_7_6_1 (k : BitVec 1) (g : BitVec 2) (op : BitVec 8) (x : BitVec 7) (y : BitVec 7) (z : BitVec 6) (u : BitVec 1)
    {w : Word} (h : w = (k ++ g ++ op ++ x ++ y ++ z ++ u : BitVec 32)) :
    fld w 31 1 = k ∧ fld w 29 2 = g ∧ fld w 21 8 = op ∧ fld w 14 7 = x ∧ fld w 7 7 = y ∧ fld w 1 6 = z ∧ fld w 0 1 = u := by
  subst h
  refine ⟨(?_ : BitVec.extractLsb' 31 1 (k ++ g ++ op ++ x ++ y ++ z ++ u) = k), (?_ : BitVec.extractLsb' 29 2 (k ++ g ++ op ++ x ++ y ++ z ++ u) = g), (?_ : BitVec.extractLsb' 21 8 (k ++ g ++ op ++ x ++ y ++ z ++ u) = op), (?_ : BitVec.extractLsb' 14 7 (k ++ g ++ op ++ x ++ y ++ z ++ u) = x), (?_ : BitVec.extractLsb' 7 7 (k ++ g ++ op ++ x ++ y ++ z ++ u) = y), (?_ : BitVec.extractLsb' 1 6 (k ++ g ++ op ++ x ++ y ++ z ++ u) = z), (?_ : BitVec.extractLsb' 0 1 (k ++ g ++ op ++ x ++ y ++ z ++ u) = u)⟩ <;>
    (repeat first | rw [BitVec.extractLsb'_append_eq_of_le (by decide)] | rw [BitVec.extractLsb'_append_eq_of_add_le (by decide)]) <;>
    exact BitVec.extractLsb'_eq_self

theorem shape_7_7_7 (k : BitVec 1) (g : BitVec 2) (op : BitVec 8) (x : BitVec 7) (y : BitVec 7) (z : BitVec 7)
    {w : Word} (h : w = (k ++ g ++ op ++ x ++ y ++ z : BitVec 32)) :
    fld w 31 1 = k ∧ fld w 29 2 = g ∧ fld w 21 8 = op ∧ fld w 14 7 = x ∧ fld w 7 7 = y ∧ fld w 0 7 = z := by
  subst h
  refine ⟨(?_ : BitVec.extractLsb' 31 1 (k ++ g ++ op ++ x ++ y ++ z) = k), (?_ : BitVec.extractLsb' 29 2 (k ++ g ++ op ++ x ++ y ++ z) = g), (?_ : BitVec.extractLsb' 21 8 (k ++ g ++ op ++ x ++ y ++ z) = op), (?_ : BitVec.extractLsb' 14 7 (k ++ g ++ op ++ x ++ y ++ z) = x), (?_ : BitVec.extractLsb' 7 7 (k ++ g ++ op ++ x ++ y ++ z) = y), (?_ : BitVec.extractLsb' 0 7 (k ++ g ++ op ++ x ++ y ++ z) = z)⟩ <;>
    (repeat first | rw [BitVec.extractLsb'_append_eq_of_le (by decide)] | rw [BitVec.extractLsb'_append_eq_of_add_le (by decide)]) <;>
    exact BitVec.extractLsb'_eq_self

theorem shape_7_13_1 (k : BitVec 1) (g : BitVec 2) (op : BitVec 8) (x : BitVec 7) (y : BitVec 13) (z : BitVec 1)
    {w : Word} (h : w = (k ++ g ++ op ++ x ++ y ++ z : BitVec 32)) :
    fld w 31 1 = k ∧ fld w 29 2 = g ∧ fld w 21 8 = op ∧ fld w 14 7 = x ∧ fld w 1 13 = y ∧ fld w 0 1 = z := by
  subst h
  refine ⟨(?_ : BitVec.extractLsb' 31 1 (k ++ g ++ op ++ x ++ y ++ z) = k), (?_ : BitVec.extractLsb' 29 2 (k ++ g ++ op ++ x ++ y ++ z) = g), (?_ : BitVec.extractLsb' 21 8 (k ++ g ++ op ++ x ++ y ++ z) = op), (?_ : BitVec.extractLsb' 14 7 (k ++ g ++ op ++ x ++ y ++ z) = x), (?_ : BitVec.extractLsb' 1 13 (k ++ g ++ op ++ x ++ y ++ z) = y), (?_ : BitVec.extractLsb' 0 1 (k ++ g ++ op ++ x ++ y ++ z) = z)⟩ <;>
    (repeat first | rw [BitVec.extractLsb'_append_eq_of_le (by decide)] | rw [BitVec.extractLsb'_append_eq_of_add_le (by decide)]) <;>
    exact BitVec.extractLsb'_eq_self

theorem shape_7_14 (k : BitVec 1) (g : BitVec 2) (op : BitVec 8) (x : BitVec 7) (y : BitVec 14)
    {w : Word} (h : w = (k ++ g ++ op ++ x ++ y : BitVec 32)) :
    fld w 31 1 = k ∧ fld w 29 2 = g ∧ fld w 21 8 = op ∧ fld w 14 7 = x ∧ fld w 0 14 = y := by
  subst h
  refine ⟨(?_ : BitVec.extractLsb' 31 1 (k ++ g ++ op ++ x ++ y) = k), (?_ : BitVec.extractLsb' 29 2 (k ++ g ++ op ++ x ++ y) = g), (?_ : BitVec.extractLsb' 21 8 (k ++ g ++ op ++ x ++ y) = op), (?_ : BitVec.extractLsb' 14 7 (k ++ g ++ op ++ x ++ y) = x), (?_ : BitVec.extractLsb' 0 14 (k ++ g ++ op ++ x ++ y) = y)⟩ <;>
    (repeat first | rw [BitVec.extractLsb'_append_eq_of_le (by decide)] | rw [BitVec.extractLsb'_append_eq_of_add_le (by decide)]) <;>
    exact BitVec.extractLsb'_eq_self

theorem shape_9_4_8 (k : BitVec 1) (g : BitVec 2) (op : BitVec 8) (x : BitVec 9) (y : BitVec 4) (z : BitVec 8)
    {w : Word} (h : w = (k ++ g ++ op ++ x ++ y ++ z : BitVec 32)) :
    fld w 31 1 = k ∧ fld w 29 2 = g ∧ fld w 21 8 = op ∧ fld w 12 9 = x ∧ fld w 8 4 = y ∧ fld w 0 8 = z := by
  subst h
  refine ⟨(?_ : BitVec.extractLsb' 31 1 (k ++ g ++ op ++ x ++ y ++ z) = k), (?_ : BitVec.extractLsb' 29 2 (k ++ g ++ op ++ x ++ y ++ z) = g), (?_ : BitVec.extractLsb' 21 8 (k ++ g ++ op ++ x ++ y ++ z) = op), (?_ : BitVec.extractLsb' 12 9 (k ++ g ++ op ++ x ++ y ++ z) = x), (?_ : BitVec.extractLsb' 8 4 (k ++ g ++ op ++ x ++ y ++ z) = y), (?_ : BitVec.extractLsb' 0 8 (k ++ g ++ op ++ x ++ y ++ z) = z)⟩ <;>
    (repeat first | rw [BitVec.extractLsb'_append_eq_of_le (by decide)] | rw [BitVec.extractLsb'_append_eq_of_add_le (by decide)]) <;>
    exact BitVec.extractLsb'_eq_self

theorem shape_14_5_2 (k : BitVec 1) (g : BitVec 2) (op : BitVec 8) (x : BitVec 14) (y : BitVec 5) (z : BitVec 2)
    {w : Word} (h : w = (k ++ g ++ op ++ x ++ y ++ z : BitVec 32)) :
    fld w 31 1 = k ∧ fld w 29 2 = g ∧ fld w 21 8 = op ∧ fld w 7 14 = x ∧ fld w 2 5 = y ∧ fld w 0 2 = z := by
  subst h
  refine ⟨(?_ : BitVec.extractLsb' 31 1 (k ++ g ++ op ++ x ++ y ++ z) = k), (?_ : BitVec.extractLsb' 29 2 (k ++ g ++ op ++ x ++ y ++ z) = g), (?_ : BitVec.extractLsb' 21 8 (k ++ g ++ op ++ x ++ y ++ z) = op), (?_ : BitVec.extractLsb' 7 14 (k ++ g ++ op ++ x ++ y ++ z) = x), (?_ : BitVec.extractLsb' 2 5 (k ++ g ++ op ++ x ++ y ++ z) = y), (?_ : BitVec.extractLsb' 0 2 (k ++ g ++ op ++ x ++ y ++ z) = z)⟩ <;>
    (repeat first | rw [BitVec.extractLsb'_append_eq_of_le (by decide)] | rw [BitVec.extractLsb'_append_eq_of_add_le (by decide)]) <;>
    exact BitVec.extractLsb'_eq_self

theorem shape_18_3 (k : BitVec 1) (g : BitVec 2) (op : BitVec 8) (x : BitVec 18) (y : BitVec 3)
    {w : Word} (h : w = (k ++ g ++ op ++ x ++ y : BitVec 32)) :
    fld w 31 1 = k ∧ fld w 29 2 = g ∧ fld w 21 8 = op ∧ fld w 3 18 = x ∧ fld w 0 3 = y := by
  subst h
  refine ⟨(?_ : BitVec.extractLsb' 31 1 (k ++ g ++ op ++ x ++ y) = k), (?_ : BitVec.extractLsb' 29 2 (k ++ g ++ op ++ x ++ y) = g), (?_ : BitVec.extractLsb' 21 8 (k ++ g ++ op ++ x ++ y) = op), (?_ : BitVec.extractLsb' 3 18 (k ++ g ++ op ++ x ++ y) = x), (?_ : BitVec.extractLsb' 0 3 (k ++ g ++ op ++ x ++ y) = y)⟩ <;>
    (repeat first | rw [BitVec.extractLsb'_append_eq_of_le (by decide)] | rw [BitVec.extractLsb'_append_eq_of_add_le (by decide)]) <;>
    exact BitVec.extractLsb'_eq_self

theorem shape_21 (k : BitVec 1) (g : BitVec 2) (op : BitVec 8) (x : BitVec 21)
    {w : Word} (h : w = (k ++ g ++ op ++ x : BitVec 32)) :
    fld w 31 1 = k ∧ fld w 29 2 = g ∧ fld w 21 8 = op ∧ fld w 0 21 = x := by
  subst h
  refine ⟨(?_ : BitVec.extractLsb' 31 1 (k ++ g ++ op ++ x) = k), (?_ : BitVec.extractLsb' 29 2 (k ++ g ++ op ++ x) = g), (?_ : BitVec.extractLsb' 21 8 (k ++ g ++ op ++ x) = op), (?_ : BitVec.extractLsb' 0 21 (k ++ g ++ op ++ x) = x)⟩ <;>
    (repeat first | rw [BitVec.extractLsb'_append_eq_of_le (by decide)] | rw [BitVec.extractLsb'_append_eq_of_add_le (by decide)]) <;>
    exact BitVec.extractLsb'_eq_self

theorem decodeWords_plain {w : Word} {op : Nat} {i : Instr} (hop : (fld w 21 8).toNat = op) (hl : takesLiteralOp op = false)
    (hd : decodeRaw w 0#32 = some i) (hwf : i.wellFormed = true) : decodeWords [w] = some (i, 1) := by
  simp [decodeWords, hop, hl, decode, hd, hwf]

theorem decodeWords_lit {w lit : Word} {op : Nat} {i : Instr} (hop : (fld w 21 8).toNat = op) (hl : takesLiteralOp op = true)
    (hd : decodeRaw w lit = some i) (hwf : i.wellFormed = true) : decodeWords [w, lit] = some (i, 2) := by
  simp [decodeWords, hop, hl, decode, hd, hwf]

theorem decodeRaw_int {w lit : Word} {op : Nat} (hop : (fld w 21 8).toNat = op) (h : 0 ≤ op ∧ op < 64) :
    decodeRaw w lit = decodeInt op w lit := by
  simp only [decodeRaw, hop]; rw [if_pos (by omega)]

theorem decodeRaw_float {w lit : Word} {op : Nat} (hop : (fld w 21 8).toNat = op) (h : 64 ≤ op ∧ op < 128) :
    decodeRaw w lit = decodeFloat op w := by
  simp only [decodeRaw, hop]; repeat (first | rw [if_pos (by omega)] | rw [if_neg (by omega)])

theorem decodeRaw_uniform {w lit : Word} {op : Nat} (hop : (fld w 21 8).toNat = op) (h : 128 ≤ op ∧ op < 160) :
    decodeRaw w lit = decodeUniform op w lit := by
  simp only [decodeRaw, hop]; repeat (first | rw [if_pos (by omega)] | rw [if_neg (by omega)])

theorem decodeRaw_control {w lit : Word} {op : Nat} (hop : (fld w 21 8).toNat = op) (h : 160 ≤ op ∧ op < 192) :
    decodeRaw w lit = decodeControl op w := by
  simp only [decodeRaw, hop]; repeat (first | rw [if_pos (by omega)] | rw [if_neg (by omega)])

theorem decodeRaw_memory {w lit : Word} {op : Nat} (hop : (fld w 21 8).toNat = op) (h : 192 ≤ op ∧ op < 224) :
    decodeRaw w lit = decodeMemory op w lit := by
  simp only [decodeRaw, hop]; repeat (first | rw [if_pos (by omega)] | rw [if_neg (by omega)])

theorem decodeRaw_engine {w lit : Word} {op : Nat} (hop : (fld w 21 8).toNat = op) (h : 224 ≤ op ∧ op < 240) :
    decodeRaw w lit = decodeEngine op w lit := by
  simp only [decodeRaw, hop]; repeat (first | rw [if_pos (by omega)] | rw [if_neg (by omega)])

theorem decodeRaw_system {w lit : Word} {op : Nat} (hop : (fld w 21 8).toNat = op) (h : 240 ≤ op ∧ op < 256) :
    decodeRaw w lit = decodeSystem op w := by
  simp only [decodeRaw, hop]; repeat (first | rw [if_pos (by omega)] | rw [if_neg (by omega)])

namespace Laws.Encoding

/-- A word that is legal is read back as it was written, with every operand, and takes as many words as it was written in (R265 to
R285). -/
def Statement (i : Instr) : Prop := i.isWord = true → i.wellFormed = true → decodeWords (encode i) = some (i, (encode i).length)

theorem nop (c : Ctl) : Statement (.nop c) := by
  intro _ hwf
  obtain ⟨ek, eg, eop, e0⟩ := shape_21 (w := wordOf (.nop c)) (BitVec.ofBool c.k) c.g 0x0#8 0x0#21 rfl
  have hop : (fld (wordOf (.nop c)) 21 8).toNat = 0 := congrArg BitVec.toNat eop
  refine decodeWords_plain hop rfl ((decodeRaw_int hop (by omega)).trans ?_) hwf
  change (if fld (wordOf (.nop c)) 0 21 == 0x0#21 then some (Instr.nop (ctl (wordOf (.nop c)))) else none) = _
  rw [ctl_eq (c := c) ek eg]
  simp [e0]
theorem mov (c : Ctl) (d : BitVec 7) (a : BitVec 7) : Statement (.mov c d a) := by
  intro _ hwf
  obtain ⟨ek, eg, eop, e0, e1, e2⟩ := shape_7_7_7 (w := wordOf (.mov c d a)) (BitVec.ofBool c.k) c.g 0x1#8 d a 0x0#7 rfl
  have hop : (fld (wordOf (.mov c d a)) 21 8).toNat = 1 := congrArg BitVec.toNat eop
  refine decodeWords_plain hop rfl ((decodeRaw_int hop (by omega)).trans ?_) hwf
  change (if fld (wordOf (.mov c d a)) 0 7 == 0x0#7 then some (Instr.mov (ctl (wordOf (.mov c d a))) (fld (wordOf (.mov c d a)) 14 7) (fld (wordOf (.mov c d a)) 7 7)) else none) = _
  rw [ctl_eq (c := c) ek eg]
  simp [e0, e1, e2]
theorem add (c : Ctl) (d : BitVec 7) (a : BitVec 7) (b : BitVec 7) : Statement (.add c d a b) := by
  intro _ hwf
  obtain ⟨ek, eg, eop, e0, e1, e2⟩ := shape_7_7_7 (w := wordOf (.add c d a b)) (BitVec.ofBool c.k) c.g 0x2#8 d a b rfl
  have hop : (fld (wordOf (.add c d a b)) 21 8).toNat = 2 := congrArg BitVec.toNat eop
  refine decodeWords_plain hop rfl ((decodeRaw_int hop (by omega)).trans ?_) hwf
  change (some (Instr.add (ctl (wordOf (.add c d a b))) (fld (wordOf (.add c d a b)) 14 7) (fld (wordOf (.add c d a b)) 7 7) (fld (wordOf (.add c d a b)) 0 7))) = _
  rw [ctl_eq (c := c) ek eg]
  rw [e0, e1, e2]
theorem addS (c : Ctl) (d : BitVec 7) (a : BitVec 7) (b : BitVec 7) : Statement (.addS c d a b) := by
  intro _ hwf
  obtain ⟨ek, eg, eop, e0, e1, e2⟩ := shape_7_7_7 (w := wordOf (.addS c d a b)) (BitVec.ofBool c.k) c.g 0x3#8 d a b rfl
  have hop : (fld (wordOf (.addS c d a b)) 21 8).toNat = 3 := congrArg BitVec.toNat eop
  refine decodeWords_plain hop rfl ((decodeRaw_int hop (by omega)).trans ?_) hwf
  change (some (Instr.addS (ctl (wordOf (.addS c d a b))) (fld (wordOf (.addS c d a b)) 14 7) (fld (wordOf (.addS c d a b)) 7 7) (fld (wordOf (.addS c d a b)) 0 7))) = _
  rw [ctl_eq (c := c) ek eg]
  rw [e0, e1, e2]
theorem sub (c : Ctl) (d : BitVec 7) (a : BitVec 7) (b : BitVec 7) : Statement (.sub c d a b) := by
  intro _ hwf
  obtain ⟨ek, eg, eop, e0, e1, e2⟩ := shape_7_7_7 (w := wordOf (.sub c d a b)) (BitVec.ofBool c.k) c.g 0x4#8 d a b rfl
  have hop : (fld (wordOf (.sub c d a b)) 21 8).toNat = 4 := congrArg BitVec.toNat eop
  refine decodeWords_plain hop rfl ((decodeRaw_int hop (by omega)).trans ?_) hwf
  change (some (Instr.sub (ctl (wordOf (.sub c d a b))) (fld (wordOf (.sub c d a b)) 14 7) (fld (wordOf (.sub c d a b)) 7 7) (fld (wordOf (.sub c d a b)) 0 7))) = _
  rw [ctl_eq (c := c) ek eg]
  rw [e0, e1, e2]
theorem subS (c : Ctl) (d : BitVec 7) (a : BitVec 7) (b : BitVec 7) : Statement (.subS c d a b) := by
  intro _ hwf
  obtain ⟨ek, eg, eop, e0, e1, e2⟩ := shape_7_7_7 (w := wordOf (.subS c d a b)) (BitVec.ofBool c.k) c.g 0x5#8 d a b rfl
  have hop : (fld (wordOf (.subS c d a b)) 21 8).toNat = 5 := congrArg BitVec.toNat eop
  refine decodeWords_plain hop rfl ((decodeRaw_int hop (by omega)).trans ?_) hwf
  change (some (Instr.subS (ctl (wordOf (.subS c d a b))) (fld (wordOf (.subS c d a b)) 14 7) (fld (wordOf (.subS c d a b)) 7 7) (fld (wordOf (.subS c d a b)) 0 7))) = _
  rw [ctl_eq (c := c) ek eg]
  rw [e0, e1, e2]
theorem addB64 (c : Ctl) (d : BitVec 7) (a : BitVec 7) (b : BitVec 7) : Statement (.addB64 c d a b) := by
  intro _ hwf
  obtain ⟨ek, eg, eop, e0, e1, e2⟩ := shape_7_7_7 (w := wordOf (.addB64 c d a b)) (BitVec.ofBool c.k) c.g 0x6#8 d a b rfl
  have hop : (fld (wordOf (.addB64 c d a b)) 21 8).toNat = 6 := congrArg BitVec.toNat eop
  refine decodeWords_plain hop rfl ((decodeRaw_int hop (by omega)).trans ?_) hwf
  change (some (Instr.addB64 (ctl (wordOf (.addB64 c d a b))) (fld (wordOf (.addB64 c d a b)) 14 7) (fld (wordOf (.addB64 c d a b)) 7 7) (fld (wordOf (.addB64 c d a b)) 0 7))) = _
  rw [ctl_eq (c := c) ek eg]
  rw [e0, e1, e2]
theorem subB64 (c : Ctl) (d : BitVec 7) (a : BitVec 7) (b : BitVec 7) : Statement (.subB64 c d a b) := by
  intro _ hwf
  obtain ⟨ek, eg, eop, e0, e1, e2⟩ := shape_7_7_7 (w := wordOf (.subB64 c d a b)) (BitVec.ofBool c.k) c.g 0x7#8 d a b rfl
  have hop : (fld (wordOf (.subB64 c d a b)) 21 8).toNat = 7 := congrArg BitVec.toNat eop
  refine decodeWords_plain hop rfl ((decodeRaw_int hop (by omega)).trans ?_) hwf
  change (some (Instr.subB64 (ctl (wordOf (.subB64 c d a b))) (fld (wordOf (.subB64 c d a b)) 14 7) (fld (wordOf (.subB64 c d a b)) 7 7) (fld (wordOf (.subB64 c d a b)) 0 7))) = _
  rw [ctl_eq (c := c) ek eg]
  rw [e0, e1, e2]
theorem mul (c : Ctl) (d : BitVec 7) (a : BitVec 7) (b : BitVec 7) : Statement (.mul c d a b) := by
  intro _ hwf
  obtain ⟨ek, eg, eop, e0, e1, e2⟩ := shape_7_7_7 (w := wordOf (.mul c d a b)) (BitVec.ofBool c.k) c.g 0x8#8 d a b rfl
  have hop : (fld (wordOf (.mul c d a b)) 21 8).toNat = 8 := congrArg BitVec.toNat eop
  refine decodeWords_plain hop rfl ((decodeRaw_int hop (by omega)).trans ?_) hwf
  change (some (Instr.mul (ctl (wordOf (.mul c d a b))) (fld (wordOf (.mul c d a b)) 14 7) (fld (wordOf (.mul c d a b)) 7 7) (fld (wordOf (.mul c d a b)) 0 7))) = _
  rw [ctl_eq (c := c) ek eg]
  rw [e0, e1, e2]
theorem mulS (c : Ctl) (d : BitVec 7) (a : BitVec 7) (b : BitVec 7) : Statement (.mulS c d a b) := by
  intro _ hwf
  obtain ⟨ek, eg, eop, e0, e1, e2⟩ := shape_7_7_7 (w := wordOf (.mulS c d a b)) (BitVec.ofBool c.k) c.g 0x9#8 d a b rfl
  have hop : (fld (wordOf (.mulS c d a b)) 21 8).toNat = 9 := congrArg BitVec.toNat eop
  refine decodeWords_plain hop rfl ((decodeRaw_int hop (by omega)).trans ?_) hwf
  change (some (Instr.mulS (ctl (wordOf (.mulS c d a b))) (fld (wordOf (.mulS c d a b)) 14 7) (fld (wordOf (.mulS c d a b)) 7 7) (fld (wordOf (.mulS c d a b)) 0 7))) = _
  rw [ctl_eq (c := c) ek eg]
  rw [e0, e1, e2]
theorem mulhI32 (c : Ctl) (d : BitVec 7) (a : BitVec 7) (b : BitVec 7) : Statement (.mulhI32 c d a b) := by
  intro _ hwf
  obtain ⟨ek, eg, eop, e0, e1, e2⟩ := shape_7_7_7 (w := wordOf (.mulhI32 c d a b)) (BitVec.ofBool c.k) c.g 0xa#8 d a b rfl
  have hop : (fld (wordOf (.mulhI32 c d a b)) 21 8).toNat = 10 := congrArg BitVec.toNat eop
  refine decodeWords_plain hop rfl ((decodeRaw_int hop (by omega)).trans ?_) hwf
  change (some (Instr.mulhI32 (ctl (wordOf (.mulhI32 c d a b))) (fld (wordOf (.mulhI32 c d a b)) 14 7) (fld (wordOf (.mulhI32 c d a b)) 7 7) (fld (wordOf (.mulhI32 c d a b)) 0 7))) = _
  rw [ctl_eq (c := c) ek eg]
  rw [e0, e1, e2]
theorem mulhN32 (c : Ctl) (d : BitVec 7) (a : BitVec 7) (b : BitVec 7) : Statement (.mulhN32 c d a b) := by
  intro _ hwf
  obtain ⟨ek, eg, eop, e0, e1, e2⟩ := shape_7_7_7 (w := wordOf (.mulhN32 c d a b)) (BitVec.ofBool c.k) c.g 0xb#8 d a b rfl
  have hop : (fld (wordOf (.mulhN32 c d a b)) 21 8).toNat = 11 := congrArg BitVec.toNat eop
  refine decodeWords_plain hop rfl ((decodeRaw_int hop (by omega)).trans ?_) hwf
  change (some (Instr.mulhN32 (ctl (wordOf (.mulhN32 c d a b))) (fld (wordOf (.mulhN32 c d a b)) 14 7) (fld (wordOf (.mulhN32 c d a b)) 7 7) (fld (wordOf (.mulhN32 c d a b)) 0 7))) = _
  rw [ctl_eq (c := c) ek eg]
  rw [e0, e1, e2]
theorem mad (c : Ctl) (d : BitVec 7) (a : BitVec 7) (b : BitVec 7) : Statement (.mad c d a b) := by
  intro _ hwf
  obtain ⟨ek, eg, eop, e0, e1, e2⟩ := shape_7_7_7 (w := wordOf (.mad c d a b)) (BitVec.ofBool c.k) c.g 0xc#8 d a b rfl
  have hop : (fld (wordOf (.mad c d a b)) 21 8).toNat = 12 := congrArg BitVec.toNat eop
  refine decodeWords_plain hop rfl ((decodeRaw_int hop (by omega)).trans ?_) hwf
  change (some (Instr.mad (ctl (wordOf (.mad c d a b))) (fld (wordOf (.mad c d a b)) 14 7) (fld (wordOf (.mad c d a b)) 7 7) (fld (wordOf (.mad c d a b)) 0 7))) = _
  rw [ctl_eq (c := c) ek eg]
  rw [e0, e1, e2]
theorem madS (c : Ctl) (d : BitVec 7) (a : BitVec 7) (b : BitVec 7) : Statement (.madS c d a b) := by
  intro _ hwf
  obtain ⟨ek, eg, eop, e0, e1, e2⟩ := shape_7_7_7 (w := wordOf (.madS c d a b)) (BitVec.ofBool c.k) c.g 0xd#8 d a b rfl
  have hop : (fld (wordOf (.madS c d a b)) 21 8).toNat = 13 := congrArg BitVec.toNat eop
  refine decodeWords_plain hop rfl ((decodeRaw_int hop (by omega)).trans ?_) hwf
  change (some (Instr.madS (ctl (wordOf (.madS c d a b))) (fld (wordOf (.madS c d a b)) 14 7) (fld (wordOf (.madS c d a b)) 7 7) (fld (wordOf (.madS c d a b)) 0 7))) = _
  rw [ctl_eq (c := c) ek eg]
  rw [e0, e1, e2]
theorem minI32 (c : Ctl) (d : BitVec 7) (a : BitVec 7) (b : BitVec 7) : Statement (.minI32 c d a b) := by
  intro _ hwf
  obtain ⟨ek, eg, eop, e0, e1, e2⟩ := shape_7_7_7 (w := wordOf (.minI32 c d a b)) (BitVec.ofBool c.k) c.g 0xe#8 d a b rfl
  have hop : (fld (wordOf (.minI32 c d a b)) 21 8).toNat = 14 := congrArg BitVec.toNat eop
  refine decodeWords_plain hop rfl ((decodeRaw_int hop (by omega)).trans ?_) hwf
  change (some (Instr.minI32 (ctl (wordOf (.minI32 c d a b))) (fld (wordOf (.minI32 c d a b)) 14 7) (fld (wordOf (.minI32 c d a b)) 7 7) (fld (wordOf (.minI32 c d a b)) 0 7))) = _
  rw [ctl_eq (c := c) ek eg]
  rw [e0, e1, e2]
theorem minN32 (c : Ctl) (d : BitVec 7) (a : BitVec 7) (b : BitVec 7) : Statement (.minN32 c d a b) := by
  intro _ hwf
  obtain ⟨ek, eg, eop, e0, e1, e2⟩ := shape_7_7_7 (w := wordOf (.minN32 c d a b)) (BitVec.ofBool c.k) c.g 0xf#8 d a b rfl
  have hop : (fld (wordOf (.minN32 c d a b)) 21 8).toNat = 15 := congrArg BitVec.toNat eop
  refine decodeWords_plain hop rfl ((decodeRaw_int hop (by omega)).trans ?_) hwf
  change (some (Instr.minN32 (ctl (wordOf (.minN32 c d a b))) (fld (wordOf (.minN32 c d a b)) 14 7) (fld (wordOf (.minN32 c d a b)) 7 7) (fld (wordOf (.minN32 c d a b)) 0 7))) = _
  rw [ctl_eq (c := c) ek eg]
  rw [e0, e1, e2]
theorem maxI32 (c : Ctl) (d : BitVec 7) (a : BitVec 7) (b : BitVec 7) : Statement (.maxI32 c d a b) := by
  intro _ hwf
  obtain ⟨ek, eg, eop, e0, e1, e2⟩ := shape_7_7_7 (w := wordOf (.maxI32 c d a b)) (BitVec.ofBool c.k) c.g 0x10#8 d a b rfl
  have hop : (fld (wordOf (.maxI32 c d a b)) 21 8).toNat = 16 := congrArg BitVec.toNat eop
  refine decodeWords_plain hop rfl ((decodeRaw_int hop (by omega)).trans ?_) hwf
  change (some (Instr.maxI32 (ctl (wordOf (.maxI32 c d a b))) (fld (wordOf (.maxI32 c d a b)) 14 7) (fld (wordOf (.maxI32 c d a b)) 7 7) (fld (wordOf (.maxI32 c d a b)) 0 7))) = _
  rw [ctl_eq (c := c) ek eg]
  rw [e0, e1, e2]
theorem maxN32 (c : Ctl) (d : BitVec 7) (a : BitVec 7) (b : BitVec 7) : Statement (.maxN32 c d a b) := by
  intro _ hwf
  obtain ⟨ek, eg, eop, e0, e1, e2⟩ := shape_7_7_7 (w := wordOf (.maxN32 c d a b)) (BitVec.ofBool c.k) c.g 0x11#8 d a b rfl
  have hop : (fld (wordOf (.maxN32 c d a b)) 21 8).toNat = 17 := congrArg BitVec.toNat eop
  refine decodeWords_plain hop rfl ((decodeRaw_int hop (by omega)).trans ?_) hwf
  change (some (Instr.maxN32 (ctl (wordOf (.maxN32 c d a b))) (fld (wordOf (.maxN32 c d a b)) 14 7) (fld (wordOf (.maxN32 c d a b)) 7 7) (fld (wordOf (.maxN32 c d a b)) 0 7))) = _
  rw [ctl_eq (c := c) ek eg]
  rw [e0, e1, e2]
theorem and (c : Ctl) (d : BitVec 7) (a : BitVec 7) (b : BitVec 7) : Statement (.and c d a b) := by
  intro _ hwf
  obtain ⟨ek, eg, eop, e0, e1, e2⟩ := shape_7_7_7 (w := wordOf (.and c d a b)) (BitVec.ofBool c.k) c.g 0x12#8 d a b rfl
  have hop : (fld (wordOf (.and c d a b)) 21 8).toNat = 18 := congrArg BitVec.toNat eop
  refine decodeWords_plain hop rfl ((decodeRaw_int hop (by omega)).trans ?_) hwf
  change (some (Instr.and (ctl (wordOf (.and c d a b))) (fld (wordOf (.and c d a b)) 14 7) (fld (wordOf (.and c d a b)) 7 7) (fld (wordOf (.and c d a b)) 0 7))) = _
  rw [ctl_eq (c := c) ek eg]
  rw [e0, e1, e2]
theorem andS (c : Ctl) (d : BitVec 7) (a : BitVec 7) (b : BitVec 7) : Statement (.andS c d a b) := by
  intro _ hwf
  obtain ⟨ek, eg, eop, e0, e1, e2⟩ := shape_7_7_7 (w := wordOf (.andS c d a b)) (BitVec.ofBool c.k) c.g 0x13#8 d a b rfl
  have hop : (fld (wordOf (.andS c d a b)) 21 8).toNat = 19 := congrArg BitVec.toNat eop
  refine decodeWords_plain hop rfl ((decodeRaw_int hop (by omega)).trans ?_) hwf
  change (some (Instr.andS (ctl (wordOf (.andS c d a b))) (fld (wordOf (.andS c d a b)) 14 7) (fld (wordOf (.andS c d a b)) 7 7) (fld (wordOf (.andS c d a b)) 0 7))) = _
  rw [ctl_eq (c := c) ek eg]
  rw [e0, e1, e2]
theorem or (c : Ctl) (d : BitVec 7) (a : BitVec 7) (b : BitVec 7) : Statement (.or c d a b) := by
  intro _ hwf
  obtain ⟨ek, eg, eop, e0, e1, e2⟩ := shape_7_7_7 (w := wordOf (.or c d a b)) (BitVec.ofBool c.k) c.g 0x14#8 d a b rfl
  have hop : (fld (wordOf (.or c d a b)) 21 8).toNat = 20 := congrArg BitVec.toNat eop
  refine decodeWords_plain hop rfl ((decodeRaw_int hop (by omega)).trans ?_) hwf
  change (some (Instr.or (ctl (wordOf (.or c d a b))) (fld (wordOf (.or c d a b)) 14 7) (fld (wordOf (.or c d a b)) 7 7) (fld (wordOf (.or c d a b)) 0 7))) = _
  rw [ctl_eq (c := c) ek eg]
  rw [e0, e1, e2]
theorem orS (c : Ctl) (d : BitVec 7) (a : BitVec 7) (b : BitVec 7) : Statement (.orS c d a b) := by
  intro _ hwf
  obtain ⟨ek, eg, eop, e0, e1, e2⟩ := shape_7_7_7 (w := wordOf (.orS c d a b)) (BitVec.ofBool c.k) c.g 0x15#8 d a b rfl
  have hop : (fld (wordOf (.orS c d a b)) 21 8).toNat = 21 := congrArg BitVec.toNat eop
  refine decodeWords_plain hop rfl ((decodeRaw_int hop (by omega)).trans ?_) hwf
  change (some (Instr.orS (ctl (wordOf (.orS c d a b))) (fld (wordOf (.orS c d a b)) 14 7) (fld (wordOf (.orS c d a b)) 7 7) (fld (wordOf (.orS c d a b)) 0 7))) = _
  rw [ctl_eq (c := c) ek eg]
  rw [e0, e1, e2]
theorem xor (c : Ctl) (d : BitVec 7) (a : BitVec 7) (b : BitVec 7) : Statement (.xor c d a b) := by
  intro _ hwf
  obtain ⟨ek, eg, eop, e0, e1, e2⟩ := shape_7_7_7 (w := wordOf (.xor c d a b)) (BitVec.ofBool c.k) c.g 0x16#8 d a b rfl
  have hop : (fld (wordOf (.xor c d a b)) 21 8).toNat = 22 := congrArg BitVec.toNat eop
  refine decodeWords_plain hop rfl ((decodeRaw_int hop (by omega)).trans ?_) hwf
  change (some (Instr.xor (ctl (wordOf (.xor c d a b))) (fld (wordOf (.xor c d a b)) 14 7) (fld (wordOf (.xor c d a b)) 7 7) (fld (wordOf (.xor c d a b)) 0 7))) = _
  rw [ctl_eq (c := c) ek eg]
  rw [e0, e1, e2]
theorem xorS (c : Ctl) (d : BitVec 7) (a : BitVec 7) (b : BitVec 7) : Statement (.xorS c d a b) := by
  intro _ hwf
  obtain ⟨ek, eg, eop, e0, e1, e2⟩ := shape_7_7_7 (w := wordOf (.xorS c d a b)) (BitVec.ofBool c.k) c.g 0x17#8 d a b rfl
  have hop : (fld (wordOf (.xorS c d a b)) 21 8).toNat = 23 := congrArg BitVec.toNat eop
  refine decodeWords_plain hop rfl ((decodeRaw_int hop (by omega)).trans ?_) hwf
  change (some (Instr.xorS (ctl (wordOf (.xorS c d a b))) (fld (wordOf (.xorS c d a b)) 14 7) (fld (wordOf (.xorS c d a b)) 7 7) (fld (wordOf (.xorS c d a b)) 0 7))) = _
  rw [ctl_eq (c := c) ek eg]
  rw [e0, e1, e2]
theorem andn (c : Ctl) (d : BitVec 7) (a : BitVec 7) (b : BitVec 7) : Statement (.andn c d a b) := by
  intro _ hwf
  obtain ⟨ek, eg, eop, e0, e1, e2⟩ := shape_7_7_7 (w := wordOf (.andn c d a b)) (BitVec.ofBool c.k) c.g 0x18#8 d a b rfl
  have hop : (fld (wordOf (.andn c d a b)) 21 8).toNat = 24 := congrArg BitVec.toNat eop
  refine decodeWords_plain hop rfl ((decodeRaw_int hop (by omega)).trans ?_) hwf
  change (some (Instr.andn (ctl (wordOf (.andn c d a b))) (fld (wordOf (.andn c d a b)) 14 7) (fld (wordOf (.andn c d a b)) 7 7) (fld (wordOf (.andn c d a b)) 0 7))) = _
  rw [ctl_eq (c := c) ek eg]
  rw [e0, e1, e2]
theorem shl (c : Ctl) (d : BitVec 7) (a : BitVec 7) (b : BitVec 7) : Statement (.shl c d a b) := by
  intro _ hwf
  obtain ⟨ek, eg, eop, e0, e1, e2⟩ := shape_7_7_7 (w := wordOf (.shl c d a b)) (BitVec.ofBool c.k) c.g 0x19#8 d a b rfl
  have hop : (fld (wordOf (.shl c d a b)) 21 8).toNat = 25 := congrArg BitVec.toNat eop
  refine decodeWords_plain hop rfl ((decodeRaw_int hop (by omega)).trans ?_) hwf
  change (some (Instr.shl (ctl (wordOf (.shl c d a b))) (fld (wordOf (.shl c d a b)) 14 7) (fld (wordOf (.shl c d a b)) 7 7) (fld (wordOf (.shl c d a b)) 0 7))) = _
  rw [ctl_eq (c := c) ek eg]
  rw [e0, e1, e2]
theorem shr (c : Ctl) (d : BitVec 7) (a : BitVec 7) (b : BitVec 7) : Statement (.shr c d a b) := by
  intro _ hwf
  obtain ⟨ek, eg, eop, e0, e1, e2⟩ := shape_7_7_7 (w := wordOf (.shr c d a b)) (BitVec.ofBool c.k) c.g 0x1a#8 d a b rfl
  have hop : (fld (wordOf (.shr c d a b)) 21 8).toNat = 26 := congrArg BitVec.toNat eop
  refine decodeWords_plain hop rfl ((decodeRaw_int hop (by omega)).trans ?_) hwf
  change (some (Instr.shr (ctl (wordOf (.shr c d a b))) (fld (wordOf (.shr c d a b)) 14 7) (fld (wordOf (.shr c d a b)) 7 7) (fld (wordOf (.shr c d a b)) 0 7))) = _
  rw [ctl_eq (c := c) ek eg]
  rw [e0, e1, e2]
theorem sar (c : Ctl) (d : BitVec 7) (a : BitVec 7) (b : BitVec 7) : Statement (.sar c d a b) := by
  intro _ hwf
  obtain ⟨ek, eg, eop, e0, e1, e2⟩ := shape_7_7_7 (w := wordOf (.sar c d a b)) (BitVec.ofBool c.k) c.g 0x1b#8 d a b rfl
  have hop : (fld (wordOf (.sar c d a b)) 21 8).toNat = 27 := congrArg BitVec.toNat eop
  refine decodeWords_plain hop rfl ((decodeRaw_int hop (by omega)).trans ?_) hwf
  change (some (Instr.sar (ctl (wordOf (.sar c d a b))) (fld (wordOf (.sar c d a b)) 14 7) (fld (wordOf (.sar c d a b)) 7 7) (fld (wordOf (.sar c d a b)) 0 7))) = _
  rw [ctl_eq (c := c) ek eg]
  rw [e0, e1, e2]
theorem rol (c : Ctl) (d : BitVec 7) (a : BitVec 7) (b : BitVec 7) : Statement (.rol c d a b) := by
  intro _ hwf
  obtain ⟨ek, eg, eop, e0, e1, e2⟩ := shape_7_7_7 (w := wordOf (.rol c d a b)) (BitVec.ofBool c.k) c.g 0x1c#8 d a b rfl
  have hop : (fld (wordOf (.rol c d a b)) 21 8).toNat = 28 := congrArg BitVec.toNat eop
  refine decodeWords_plain hop rfl ((decodeRaw_int hop (by omega)).trans ?_) hwf
  change (some (Instr.rol (ctl (wordOf (.rol c d a b))) (fld (wordOf (.rol c d a b)) 14 7) (fld (wordOf (.rol c d a b)) 7 7) (fld (wordOf (.rol c d a b)) 0 7))) = _
  rw [ctl_eq (c := c) ek eg]
  rw [e0, e1, e2]
theorem shli (c : Ctl) (d : BitVec 7) (a : BitVec 7) (n : BitVec 5) : Statement (.shli c d a n) := by
  intro _ hwf
  obtain ⟨ek, eg, eop, e0, e1, e2, e3⟩ := shape_7_7_2_5 (w := wordOf (.shli c d a n)) (BitVec.ofBool c.k) c.g 0x1d#8 d a 0x0#2 n rfl
  have hop : (fld (wordOf (.shli c d a n)) 21 8).toNat = 29 := congrArg BitVec.toNat eop
  refine decodeWords_plain hop rfl ((decodeRaw_int hop (by omega)).trans ?_) hwf
  change (if fld (wordOf (.shli c d a n)) 5 2 == 0x0#2 then some (Instr.shli (ctl (wordOf (.shli c d a n))) (fld (wordOf (.shli c d a n)) 14 7) (fld (wordOf (.shli c d a n)) 7 7) (fld (wordOf (.shli c d a n)) 0 5)) else none) = _
  rw [ctl_eq (c := c) ek eg]
  simp [e0, e1, e2, e3]
theorem shri (c : Ctl) (d : BitVec 7) (a : BitVec 7) (n : BitVec 5) : Statement (.shri c d a n) := by
  intro _ hwf
  obtain ⟨ek, eg, eop, e0, e1, e2, e3⟩ := shape_7_7_2_5 (w := wordOf (.shri c d a n)) (BitVec.ofBool c.k) c.g 0x1e#8 d a 0x0#2 n rfl
  have hop : (fld (wordOf (.shri c d a n)) 21 8).toNat = 30 := congrArg BitVec.toNat eop
  refine decodeWords_plain hop rfl ((decodeRaw_int hop (by omega)).trans ?_) hwf
  change (if fld (wordOf (.shri c d a n)) 5 2 == 0x0#2 then some (Instr.shri (ctl (wordOf (.shri c d a n))) (fld (wordOf (.shri c d a n)) 14 7) (fld (wordOf (.shri c d a n)) 7 7) (fld (wordOf (.shri c d a n)) 0 5)) else none) = _
  rw [ctl_eq (c := c) ek eg]
  simp [e0, e1, e2, e3]
theorem sari (c : Ctl) (d : BitVec 7) (a : BitVec 7) (n : BitVec 5) : Statement (.sari c d a n) := by
  intro _ hwf
  obtain ⟨ek, eg, eop, e0, e1, e2, e3⟩ := shape_7_7_2_5 (w := wordOf (.sari c d a n)) (BitVec.ofBool c.k) c.g 0x1f#8 d a 0x0#2 n rfl
  have hop : (fld (wordOf (.sari c d a n)) 21 8).toNat = 31 := congrArg BitVec.toNat eop
  refine decodeWords_plain hop rfl ((decodeRaw_int hop (by omega)).trans ?_) hwf
  change (if fld (wordOf (.sari c d a n)) 5 2 == 0x0#2 then some (Instr.sari (ctl (wordOf (.sari c d a n))) (fld (wordOf (.sari c d a n)) 14 7) (fld (wordOf (.sari c d a n)) 7 7) (fld (wordOf (.sari c d a n)) 0 5)) else none) = _
  rw [ctl_eq (c := c) ek eg]
  simp [e0, e1, e2, e3]
theorem addi (c : Ctl) (d : BitVec 7) (a : BitVec 7) (n : BitVec 7) : Statement (.addi c d a n) := by
  intro _ hwf
  obtain ⟨ek, eg, eop, e0, e1, e2⟩ := shape_7_7_7 (w := wordOf (.addi c d a n)) (BitVec.ofBool c.k) c.g 0x20#8 d a n rfl
  have hop : (fld (wordOf (.addi c d a n)) 21 8).toNat = 32 := congrArg BitVec.toNat eop
  refine decodeWords_plain hop rfl ((decodeRaw_int hop (by omega)).trans ?_) hwf
  change (some (Instr.addi (ctl (wordOf (.addi c d a n))) (fld (wordOf (.addi c d a n)) 14 7) (fld (wordOf (.addi c d a n)) 7 7) (fld (wordOf (.addi c d a n)) 0 7))) = _
  rw [ctl_eq (c := c) ek eg]
  rw [e0, e1, e2]
theorem andi (c : Ctl) (d : BitVec 7) (a : BitVec 7) (n : BitVec 7) : Statement (.andi c d a n) := by
  intro _ hwf
  obtain ⟨ek, eg, eop, e0, e1, e2⟩ := shape_7_7_7 (w := wordOf (.andi c d a n)) (BitVec.ofBool c.k) c.g 0x21#8 d a n rfl
  have hop : (fld (wordOf (.andi c d a n)) 21 8).toNat = 33 := congrArg BitVec.toNat eop
  refine decodeWords_plain hop rfl ((decodeRaw_int hop (by omega)).trans ?_) hwf
  change (some (Instr.andi (ctl (wordOf (.andi c d a n))) (fld (wordOf (.andi c d a n)) 14 7) (fld (wordOf (.andi c d a n)) 7 7) (fld (wordOf (.andi c d a n)) 0 7))) = _
  rw [ctl_eq (c := c) ek eg]
  rw [e0, e1, e2]
theorem bfx (c : Ctl) (d : BitVec 7) (a : BitVec 7) (b : BitVec 7) : Statement (.bfx c d a b) := by
  intro _ hwf
  obtain ⟨ek, eg, eop, e0, e1, e2⟩ := shape_7_7_7 (w := wordOf (.bfx c d a b)) (BitVec.ofBool c.k) c.g 0x22#8 d a b rfl
  have hop : (fld (wordOf (.bfx c d a b)) 21 8).toNat = 34 := congrArg BitVec.toNat eop
  refine decodeWords_plain hop rfl ((decodeRaw_int hop (by omega)).trans ?_) hwf
  change (some (Instr.bfx (ctl (wordOf (.bfx c d a b))) (fld (wordOf (.bfx c d a b)) 14 7) (fld (wordOf (.bfx c d a b)) 7 7) (fld (wordOf (.bfx c d a b)) 0 7))) = _
  rw [ctl_eq (c := c) ek eg]
  rw [e0, e1, e2]
theorem bfi (c : Ctl) (d : BitVec 7) (a : BitVec 7) (b : BitVec 7) : Statement (.bfi c d a b) := by
  intro _ hwf
  obtain ⟨ek, eg, eop, e0, e1, e2⟩ := shape_7_7_7 (w := wordOf (.bfi c d a b)) (BitVec.ofBool c.k) c.g 0x23#8 d a b rfl
  have hop : (fld (wordOf (.bfi c d a b)) 21 8).toNat = 35 := congrArg BitVec.toNat eop
  refine decodeWords_plain hop rfl ((decodeRaw_int hop (by omega)).trans ?_) hwf
  change (some (Instr.bfi (ctl (wordOf (.bfi c d a b))) (fld (wordOf (.bfi c d a b)) 14 7) (fld (wordOf (.bfi c d a b)) 7 7) (fld (wordOf (.bfi c d a b)) 0 7))) = _
  rw [ctl_eq (c := c) ek eg]
  rw [e0, e1, e2]
theorem abs (c : Ctl) (d : BitVec 7) (a : BitVec 7) : Statement (.abs c d a) := by
  intro _ hwf
  obtain ⟨ek, eg, eop, e0, e1, e2⟩ := shape_7_7_7 (w := wordOf (.abs c d a)) (BitVec.ofBool c.k) c.g 0x24#8 d a 0x0#7 rfl
  have hop : (fld (wordOf (.abs c d a)) 21 8).toNat = 36 := congrArg BitVec.toNat eop
  refine decodeWords_plain hop rfl ((decodeRaw_int hop (by omega)).trans ?_) hwf
  change (if fld (wordOf (.abs c d a)) 0 7 == 0x0#7 then some (Instr.abs (ctl (wordOf (.abs c d a))) (fld (wordOf (.abs c d a)) 14 7) (fld (wordOf (.abs c d a)) 7 7)) else none) = _
  rw [ctl_eq (c := c) ek eg]
  simp [e0, e1, e2]
theorem neg (c : Ctl) (d : BitVec 7) (a : BitVec 7) : Statement (.neg c d a) := by
  intro _ hwf
  obtain ⟨ek, eg, eop, e0, e1, e2⟩ := shape_7_7_7 (w := wordOf (.neg c d a)) (BitVec.ofBool c.k) c.g 0x25#8 d a 0x0#7 rfl
  have hop : (fld (wordOf (.neg c d a)) 21 8).toNat = 37 := congrArg BitVec.toNat eop
  refine decodeWords_plain hop rfl ((decodeRaw_int hop (by omega)).trans ?_) hwf
  change (if fld (wordOf (.neg c d a)) 0 7 == 0x0#7 then some (Instr.neg (ctl (wordOf (.neg c d a))) (fld (wordOf (.neg c d a)) 14 7) (fld (wordOf (.neg c d a)) 7 7)) else none) = _
  rw [ctl_eq (c := c) ek eg]
  simp [e0, e1, e2]
theorem clz (c : Ctl) (d : BitVec 7) (a : BitVec 7) : Statement (.clz c d a) := by
  intro _ hwf
  obtain ⟨ek, eg, eop, e0, e1, e2⟩ := shape_7_7_7 (w := wordOf (.clz c d a)) (BitVec.ofBool c.k) c.g 0x26#8 d a 0x0#7 rfl
  have hop : (fld (wordOf (.clz c d a)) 21 8).toNat = 38 := congrArg BitVec.toNat eop
  refine decodeWords_plain hop rfl ((decodeRaw_int hop (by omega)).trans ?_) hwf
  change (if fld (wordOf (.clz c d a)) 0 7 == 0x0#7 then some (Instr.clz (ctl (wordOf (.clz c d a))) (fld (wordOf (.clz c d a)) 14 7) (fld (wordOf (.clz c d a)) 7 7)) else none) = _
  rw [ctl_eq (c := c) ek eg]
  simp [e0, e1, e2]
theorem popc (c : Ctl) (d : BitVec 7) (a : BitVec 7) : Statement (.popc c d a) := by
  intro _ hwf
  obtain ⟨ek, eg, eop, e0, e1, e2⟩ := shape_7_7_7 (w := wordOf (.popc c d a)) (BitVec.ofBool c.k) c.g 0x27#8 d a 0x0#7 rfl
  have hop : (fld (wordOf (.popc c d a)) 21 8).toNat = 39 := congrArg BitVec.toNat eop
  refine decodeWords_plain hop rfl ((decodeRaw_int hop (by omega)).trans ?_) hwf
  change (if fld (wordOf (.popc c d a)) 0 7 == 0x0#7 then some (Instr.popc (ctl (wordOf (.popc c d a))) (fld (wordOf (.popc c d a)) 14 7) (fld (wordOf (.popc c d a)) 7 7)) else none) = _
  rw [ctl_eq (c := c) ek eg]
  simp [e0, e1, e2]
theorem brev (c : Ctl) (d : BitVec 7) (a : BitVec 7) : Statement (.brev c d a) := by
  intro _ hwf
  obtain ⟨ek, eg, eop, e0, e1, e2⟩ := shape_7_7_7 (w := wordOf (.brev c d a)) (BitVec.ofBool c.k) c.g 0x28#8 d a 0x0#7 rfl
  have hop : (fld (wordOf (.brev c d a)) 21 8).toNat = 40 := congrArg BitVec.toNat eop
  refine decodeWords_plain hop rfl ((decodeRaw_int hop (by omega)).trans ?_) hwf
  change (if fld (wordOf (.brev c d a)) 0 7 == 0x0#7 then some (Instr.brev (ctl (wordOf (.brev c d a))) (fld (wordOf (.brev c d a)) 14 7) (fld (wordOf (.brev c d a)) 7 7)) else none) = _
  rw [ctl_eq (c := c) ek eg]
  simp [e0, e1, e2]
theorem lea (c : Ctl) (d : BitVec 7) (a : BitVec 7) (b : BitVec 7) : Statement (.lea c d a b) := by
  intro _ hwf
  obtain ⟨ek, eg, eop, e0, e1, e2⟩ := shape_7_7_7 (w := wordOf (.lea c d a b)) (BitVec.ofBool c.k) c.g 0x29#8 d a b rfl
  have hop : (fld (wordOf (.lea c d a b)) 21 8).toNat = 41 := congrArg BitVec.toNat eop
  refine decodeWords_plain hop rfl ((decodeRaw_int hop (by omega)).trans ?_) hwf
  change (some (Instr.lea (ctl (wordOf (.lea c d a b))) (fld (wordOf (.lea c d a b)) 14 7) (fld (wordOf (.lea c d a b)) 7 7) (fld (wordOf (.lea c d a b)) 0 7))) = _
  rw [ctl_eq (c := c) ek eg]
  rw [e0, e1, e2]
theorem sel (c : Ctl) (d : BitVec 7) (a : BitVec 7) (b : BitVec 7) : Statement (.sel c d a b) := by
  intro _ hwf
  obtain ⟨ek, eg, eop, e0, e1, e2⟩ := shape_7_7_7 (w := wordOf (.sel c d a b)) (BitVec.ofBool c.k) c.g 0x2a#8 d a b rfl
  have hop : (fld (wordOf (.sel c d a b)) 21 8).toNat = 42 := congrArg BitVec.toNat eop
  refine decodeWords_plain hop rfl ((decodeRaw_int hop (by omega)).trans ?_) hwf
  change (some (Instr.sel (ctl (wordOf (.sel c d a b))) (fld (wordOf (.sel c d a b)) 14 7) (fld (wordOf (.sel c d a b)) 7 7) (fld (wordOf (.sel c d a b)) 0 7))) = _
  rw [ctl_eq (c := c) ek eg]
  rw [e0, e1, e2]
theorem movi (c : Ctl) (d : BitVec 7) (i : BitVec 14) : Statement (.movi c d i) := by
  intro _ hwf
  obtain ⟨ek, eg, eop, e0, e1⟩ := shape_7_14 (w := wordOf (.movi c d i)) (BitVec.ofBool c.k) c.g 0x2b#8 d i rfl
  have hop : (fld (wordOf (.movi c d i)) 21 8).toNat = 43 := congrArg BitVec.toNat eop
  refine decodeWords_plain hop rfl ((decodeRaw_int hop (by omega)).trans ?_) hwf
  change (some (Instr.movi (ctl (wordOf (.movi c d i))) (fld (wordOf (.movi c d i)) 14 7) (fld (wordOf (.movi c d i)) 0 14))) = _
  rw [ctl_eq (c := c) ek eg]
  rw [e0, e1]
theorem movk (c : Ctl) (d : BitVec 7) (lit : Word) : Statement (.movk c d lit) := by
  intro _ hwf
  obtain ⟨ek, eg, eop, e0, e1⟩ := shape_7_14 (w := wordOf (.movk c d lit)) (BitVec.ofBool c.k) c.g 0x2c#8 d 0x0#14 rfl
  have hop : (fld (wordOf (.movk c d lit)) 21 8).toNat = 44 := congrArg BitVec.toNat eop
  refine decodeWords_lit hop rfl ((decodeRaw_int hop (by omega)).trans ?_) hwf
  change (if fld (wordOf (.movk c d lit)) 0 14 == 0x0#14 then some (Instr.movk (ctl (wordOf (.movk c d lit))) (fld (wordOf (.movk c d lit)) 14 7) lit) else none) = _
  rw [ctl_eq (c := c) ek eg]
  simp [e0, e1]
theorem movS (c : Ctl) (d : BitVec 7) (a : BitVec 7) (pair : BitVec 1) : Statement (.movS c d a pair) := by
  intro _ hwf
  obtain ⟨ek, eg, eop, e0, e1, e2, e3⟩ := shape_7_7_6_1 (w := wordOf (.movS c d a pair)) (BitVec.ofBool c.k) c.g 0x2d#8 d a 0x0#6 pair rfl
  have hop : (fld (wordOf (.movS c d a pair)) 21 8).toNat = 45 := congrArg BitVec.toNat eop
  refine decodeWords_plain hop rfl ((decodeRaw_int hop (by omega)).trans ?_) hwf
  change (if fld (wordOf (.movS c d a pair)) 1 6 == 0x0#6 then some (Instr.movS (ctl (wordOf (.movS c d a pair))) (fld (wordOf (.movS c d a pair)) 14 7) (fld (wordOf (.movS c d a pair)) 7 7) (fld (wordOf (.movS c d a pair)) 0 1)) else none) = _
  rw [ctl_eq (c := c) ek eg]
  simp [e0, e1, e2, e3]
theorem cmpEq (c : Ctl) (d : BitVec 7) (a : BitVec 7) (b : BitVec 7) : Statement (.cmpEq c d a b) := by
  intro _ hwf
  obtain ⟨ek, eg, eop, e0, e1, e2⟩ := shape_7_7_7 (w := wordOf (.cmpEq c d a b)) (BitVec.ofBool c.k) c.g 0x30#8 d a b rfl
  have hop : (fld (wordOf (.cmpEq c d a b)) 21 8).toNat = 48 := congrArg BitVec.toNat eop
  refine decodeWords_plain hop rfl ((decodeRaw_int hop (by omega)).trans ?_) hwf
  change (some (Instr.cmpEq (ctl (wordOf (.cmpEq c d a b))) (fld (wordOf (.cmpEq c d a b)) 14 7) (fld (wordOf (.cmpEq c d a b)) 7 7) (fld (wordOf (.cmpEq c d a b)) 0 7))) = _
  rw [ctl_eq (c := c) ek eg]
  rw [e0, e1, e2]
theorem cmpEqS (c : Ctl) (d : BitVec 7) (a : BitVec 7) (b : BitVec 7) : Statement (.cmpEqS c d a b) := by
  intro _ hwf
  obtain ⟨ek, eg, eop, e0, e1, e2⟩ := shape_7_7_7 (w := wordOf (.cmpEqS c d a b)) (BitVec.ofBool c.k) c.g 0x31#8 d a b rfl
  have hop : (fld (wordOf (.cmpEqS c d a b)) 21 8).toNat = 49 := congrArg BitVec.toNat eop
  refine decodeWords_plain hop rfl ((decodeRaw_int hop (by omega)).trans ?_) hwf
  change (some (Instr.cmpEqS (ctl (wordOf (.cmpEqS c d a b))) (fld (wordOf (.cmpEqS c d a b)) 14 7) (fld (wordOf (.cmpEqS c d a b)) 7 7) (fld (wordOf (.cmpEqS c d a b)) 0 7))) = _
  rw [ctl_eq (c := c) ek eg]
  rw [e0, e1, e2]
theorem cmpNe (c : Ctl) (d : BitVec 7) (a : BitVec 7) (b : BitVec 7) : Statement (.cmpNe c d a b) := by
  intro _ hwf
  obtain ⟨ek, eg, eop, e0, e1, e2⟩ := shape_7_7_7 (w := wordOf (.cmpNe c d a b)) (BitVec.ofBool c.k) c.g 0x32#8 d a b rfl
  have hop : (fld (wordOf (.cmpNe c d a b)) 21 8).toNat = 50 := congrArg BitVec.toNat eop
  refine decodeWords_plain hop rfl ((decodeRaw_int hop (by omega)).trans ?_) hwf
  change (some (Instr.cmpNe (ctl (wordOf (.cmpNe c d a b))) (fld (wordOf (.cmpNe c d a b)) 14 7) (fld (wordOf (.cmpNe c d a b)) 7 7) (fld (wordOf (.cmpNe c d a b)) 0 7))) = _
  rw [ctl_eq (c := c) ek eg]
  rw [e0, e1, e2]
theorem cmpNeS (c : Ctl) (d : BitVec 7) (a : BitVec 7) (b : BitVec 7) : Statement (.cmpNeS c d a b) := by
  intro _ hwf
  obtain ⟨ek, eg, eop, e0, e1, e2⟩ := shape_7_7_7 (w := wordOf (.cmpNeS c d a b)) (BitVec.ofBool c.k) c.g 0x33#8 d a b rfl
  have hop : (fld (wordOf (.cmpNeS c d a b)) 21 8).toNat = 51 := congrArg BitVec.toNat eop
  refine decodeWords_plain hop rfl ((decodeRaw_int hop (by omega)).trans ?_) hwf
  change (some (Instr.cmpNeS (ctl (wordOf (.cmpNeS c d a b))) (fld (wordOf (.cmpNeS c d a b)) 14 7) (fld (wordOf (.cmpNeS c d a b)) 7 7) (fld (wordOf (.cmpNeS c d a b)) 0 7))) = _
  rw [ctl_eq (c := c) ek eg]
  rw [e0, e1, e2]
theorem cmpLtI32 (c : Ctl) (d : BitVec 7) (a : BitVec 7) (b : BitVec 7) : Statement (.cmpLtI32 c d a b) := by
  intro _ hwf
  obtain ⟨ek, eg, eop, e0, e1, e2⟩ := shape_7_7_7 (w := wordOf (.cmpLtI32 c d a b)) (BitVec.ofBool c.k) c.g 0x34#8 d a b rfl
  have hop : (fld (wordOf (.cmpLtI32 c d a b)) 21 8).toNat = 52 := congrArg BitVec.toNat eop
  refine decodeWords_plain hop rfl ((decodeRaw_int hop (by omega)).trans ?_) hwf
  change (some (Instr.cmpLtI32 (ctl (wordOf (.cmpLtI32 c d a b))) (fld (wordOf (.cmpLtI32 c d a b)) 14 7) (fld (wordOf (.cmpLtI32 c d a b)) 7 7) (fld (wordOf (.cmpLtI32 c d a b)) 0 7))) = _
  rw [ctl_eq (c := c) ek eg]
  rw [e0, e1, e2]
theorem cmpLtI32S (c : Ctl) (d : BitVec 7) (a : BitVec 7) (b : BitVec 7) : Statement (.cmpLtI32S c d a b) := by
  intro _ hwf
  obtain ⟨ek, eg, eop, e0, e1, e2⟩ := shape_7_7_7 (w := wordOf (.cmpLtI32S c d a b)) (BitVec.ofBool c.k) c.g 0x35#8 d a b rfl
  have hop : (fld (wordOf (.cmpLtI32S c d a b)) 21 8).toNat = 53 := congrArg BitVec.toNat eop
  refine decodeWords_plain hop rfl ((decodeRaw_int hop (by omega)).trans ?_) hwf
  change (some (Instr.cmpLtI32S (ctl (wordOf (.cmpLtI32S c d a b))) (fld (wordOf (.cmpLtI32S c d a b)) 14 7) (fld (wordOf (.cmpLtI32S c d a b)) 7 7) (fld (wordOf (.cmpLtI32S c d a b)) 0 7))) = _
  rw [ctl_eq (c := c) ek eg]
  rw [e0, e1, e2]
theorem cmpLeI32 (c : Ctl) (d : BitVec 7) (a : BitVec 7) (b : BitVec 7) : Statement (.cmpLeI32 c d a b) := by
  intro _ hwf
  obtain ⟨ek, eg, eop, e0, e1, e2⟩ := shape_7_7_7 (w := wordOf (.cmpLeI32 c d a b)) (BitVec.ofBool c.k) c.g 0x36#8 d a b rfl
  have hop : (fld (wordOf (.cmpLeI32 c d a b)) 21 8).toNat = 54 := congrArg BitVec.toNat eop
  refine decodeWords_plain hop rfl ((decodeRaw_int hop (by omega)).trans ?_) hwf
  change (some (Instr.cmpLeI32 (ctl (wordOf (.cmpLeI32 c d a b))) (fld (wordOf (.cmpLeI32 c d a b)) 14 7) (fld (wordOf (.cmpLeI32 c d a b)) 7 7) (fld (wordOf (.cmpLeI32 c d a b)) 0 7))) = _
  rw [ctl_eq (c := c) ek eg]
  rw [e0, e1, e2]
theorem cmpLeI32S (c : Ctl) (d : BitVec 7) (a : BitVec 7) (b : BitVec 7) : Statement (.cmpLeI32S c d a b) := by
  intro _ hwf
  obtain ⟨ek, eg, eop, e0, e1, e2⟩ := shape_7_7_7 (w := wordOf (.cmpLeI32S c d a b)) (BitVec.ofBool c.k) c.g 0x37#8 d a b rfl
  have hop : (fld (wordOf (.cmpLeI32S c d a b)) 21 8).toNat = 55 := congrArg BitVec.toNat eop
  refine decodeWords_plain hop rfl ((decodeRaw_int hop (by omega)).trans ?_) hwf
  change (some (Instr.cmpLeI32S (ctl (wordOf (.cmpLeI32S c d a b))) (fld (wordOf (.cmpLeI32S c d a b)) 14 7) (fld (wordOf (.cmpLeI32S c d a b)) 7 7) (fld (wordOf (.cmpLeI32S c d a b)) 0 7))) = _
  rw [ctl_eq (c := c) ek eg]
  rw [e0, e1, e2]
theorem cmpLtN32 (c : Ctl) (d : BitVec 7) (a : BitVec 7) (b : BitVec 7) : Statement (.cmpLtN32 c d a b) := by
  intro _ hwf
  obtain ⟨ek, eg, eop, e0, e1, e2⟩ := shape_7_7_7 (w := wordOf (.cmpLtN32 c d a b)) (BitVec.ofBool c.k) c.g 0x38#8 d a b rfl
  have hop : (fld (wordOf (.cmpLtN32 c d a b)) 21 8).toNat = 56 := congrArg BitVec.toNat eop
  refine decodeWords_plain hop rfl ((decodeRaw_int hop (by omega)).trans ?_) hwf
  change (some (Instr.cmpLtN32 (ctl (wordOf (.cmpLtN32 c d a b))) (fld (wordOf (.cmpLtN32 c d a b)) 14 7) (fld (wordOf (.cmpLtN32 c d a b)) 7 7) (fld (wordOf (.cmpLtN32 c d a b)) 0 7))) = _
  rw [ctl_eq (c := c) ek eg]
  rw [e0, e1, e2]
theorem cmpLtN32S (c : Ctl) (d : BitVec 7) (a : BitVec 7) (b : BitVec 7) : Statement (.cmpLtN32S c d a b) := by
  intro _ hwf
  obtain ⟨ek, eg, eop, e0, e1, e2⟩ := shape_7_7_7 (w := wordOf (.cmpLtN32S c d a b)) (BitVec.ofBool c.k) c.g 0x39#8 d a b rfl
  have hop : (fld (wordOf (.cmpLtN32S c d a b)) 21 8).toNat = 57 := congrArg BitVec.toNat eop
  refine decodeWords_plain hop rfl ((decodeRaw_int hop (by omega)).trans ?_) hwf
  change (some (Instr.cmpLtN32S (ctl (wordOf (.cmpLtN32S c d a b))) (fld (wordOf (.cmpLtN32S c d a b)) 14 7) (fld (wordOf (.cmpLtN32S c d a b)) 7 7) (fld (wordOf (.cmpLtN32S c d a b)) 0 7))) = _
  rw [ctl_eq (c := c) ek eg]
  rw [e0, e1, e2]
theorem cmpLeN32 (c : Ctl) (d : BitVec 7) (a : BitVec 7) (b : BitVec 7) : Statement (.cmpLeN32 c d a b) := by
  intro _ hwf
  obtain ⟨ek, eg, eop, e0, e1, e2⟩ := shape_7_7_7 (w := wordOf (.cmpLeN32 c d a b)) (BitVec.ofBool c.k) c.g 0x3a#8 d a b rfl
  have hop : (fld (wordOf (.cmpLeN32 c d a b)) 21 8).toNat = 58 := congrArg BitVec.toNat eop
  refine decodeWords_plain hop rfl ((decodeRaw_int hop (by omega)).trans ?_) hwf
  change (some (Instr.cmpLeN32 (ctl (wordOf (.cmpLeN32 c d a b))) (fld (wordOf (.cmpLeN32 c d a b)) 14 7) (fld (wordOf (.cmpLeN32 c d a b)) 7 7) (fld (wordOf (.cmpLeN32 c d a b)) 0 7))) = _
  rw [ctl_eq (c := c) ek eg]
  rw [e0, e1, e2]
theorem cmpLeN32S (c : Ctl) (d : BitVec 7) (a : BitVec 7) (b : BitVec 7) : Statement (.cmpLeN32S c d a b) := by
  intro _ hwf
  obtain ⟨ek, eg, eop, e0, e1, e2⟩ := shape_7_7_7 (w := wordOf (.cmpLeN32S c d a b)) (BitVec.ofBool c.k) c.g 0x3b#8 d a b rfl
  have hop : (fld (wordOf (.cmpLeN32S c d a b)) 21 8).toNat = 59 := congrArg BitVec.toNat eop
  refine decodeWords_plain hop rfl ((decodeRaw_int hop (by omega)).trans ?_) hwf
  change (some (Instr.cmpLeN32S (ctl (wordOf (.cmpLeN32S c d a b))) (fld (wordOf (.cmpLeN32S c d a b)) 14 7) (fld (wordOf (.cmpLeN32S c d a b)) 7 7) (fld (wordOf (.cmpLeN32S c d a b)) 0 7))) = _
  rw [ctl_eq (c := c) ek eg]
  rw [e0, e1, e2]
theorem cmpiEq (c : Ctl) (d : BitVec 7) (a : BitVec 7) (n : BitVec 7) : Statement (.cmpiEq c d a n) := by
  intro _ hwf
  obtain ⟨ek, eg, eop, e0, e1, e2⟩ := shape_7_7_7 (w := wordOf (.cmpiEq c d a n)) (BitVec.ofBool c.k) c.g 0x3c#8 d a n rfl
  have hop : (fld (wordOf (.cmpiEq c d a n)) 21 8).toNat = 60 := congrArg BitVec.toNat eop
  refine decodeWords_plain hop rfl ((decodeRaw_int hop (by omega)).trans ?_) hwf
  change (some (Instr.cmpiEq (ctl (wordOf (.cmpiEq c d a n))) (fld (wordOf (.cmpiEq c d a n)) 14 7) (fld (wordOf (.cmpiEq c d a n)) 7 7) (fld (wordOf (.cmpiEq c d a n)) 0 7))) = _
  rw [ctl_eq (c := c) ek eg]
  rw [e0, e1, e2]
theorem cmpiLtI32 (c : Ctl) (d : BitVec 7) (a : BitVec 7) (n : BitVec 7) : Statement (.cmpiLtI32 c d a n) := by
  intro _ hwf
  obtain ⟨ek, eg, eop, e0, e1, e2⟩ := shape_7_7_7 (w := wordOf (.cmpiLtI32 c d a n)) (BitVec.ofBool c.k) c.g 0x3d#8 d a n rfl
  have hop : (fld (wordOf (.cmpiLtI32 c d a n)) 21 8).toNat = 61 := congrArg BitVec.toNat eop
  refine decodeWords_plain hop rfl ((decodeRaw_int hop (by omega)).trans ?_) hwf
  change (some (Instr.cmpiLtI32 (ctl (wordOf (.cmpiLtI32 c d a n))) (fld (wordOf (.cmpiLtI32 c d a n)) 14 7) (fld (wordOf (.cmpiLtI32 c d a n)) 7 7) (fld (wordOf (.cmpiLtI32 c d a n)) 0 7))) = _
  rw [ctl_eq (c := c) ek eg]
  rw [e0, e1, e2]
theorem cmpiLtN32 (c : Ctl) (d : BitVec 7) (a : BitVec 7) (n : BitVec 7) : Statement (.cmpiLtN32 c d a n) := by
  intro _ hwf
  obtain ⟨ek, eg, eop, e0, e1, e2⟩ := shape_7_7_7 (w := wordOf (.cmpiLtN32 c d a n)) (BitVec.ofBool c.k) c.g 0x3e#8 d a n rfl
  have hop : (fld (wordOf (.cmpiLtN32 c d a n)) 21 8).toNat = 62 := congrArg BitVec.toNat eop
  refine decodeWords_plain hop rfl ((decodeRaw_int hop (by omega)).trans ?_) hwf
  change (some (Instr.cmpiLtN32 (ctl (wordOf (.cmpiLtN32 c d a n))) (fld (wordOf (.cmpiLtN32 c d a n)) 14 7) (fld (wordOf (.cmpiLtN32 c d a n)) 7 7) (fld (wordOf (.cmpiLtN32 c d a n)) 0 7))) = _
  rw [ctl_eq (c := c) ek eg]
  rw [e0, e1, e2]
theorem fadd (c : Ctl) (d : BitVec 7) (a : BitVec 7) (b : BitVec 7) : Statement (.fadd c d a b) := by
  intro _ hwf
  obtain ⟨ek, eg, eop, e0, e1, e2⟩ := shape_7_7_7 (w := wordOf (.fadd c d a b)) (BitVec.ofBool c.k) c.g 0x40#8 d a b rfl
  have hop : (fld (wordOf (.fadd c d a b)) 21 8).toNat = 64 := congrArg BitVec.toNat eop
  refine decodeWords_plain hop rfl ((decodeRaw_float hop (by omega)).trans ?_) hwf
  change (some (Instr.fadd (ctl (wordOf (.fadd c d a b))) (fld (wordOf (.fadd c d a b)) 14 7) (fld (wordOf (.fadd c d a b)) 7 7) (fld (wordOf (.fadd c d a b)) 0 7))) = _
  rw [ctl_eq (c := c) ek eg]
  rw [e0, e1, e2]
theorem faddS (c : Ctl) (d : BitVec 7) (a : BitVec 7) (b : BitVec 7) : Statement (.faddS c d a b) := by
  intro _ hwf
  obtain ⟨ek, eg, eop, e0, e1, e2⟩ := shape_7_7_7 (w := wordOf (.faddS c d a b)) (BitVec.ofBool c.k) c.g 0x41#8 d a b rfl
  have hop : (fld (wordOf (.faddS c d a b)) 21 8).toNat = 65 := congrArg BitVec.toNat eop
  refine decodeWords_plain hop rfl ((decodeRaw_float hop (by omega)).trans ?_) hwf
  change (some (Instr.faddS (ctl (wordOf (.faddS c d a b))) (fld (wordOf (.faddS c d a b)) 14 7) (fld (wordOf (.faddS c d a b)) 7 7) (fld (wordOf (.faddS c d a b)) 0 7))) = _
  rw [ctl_eq (c := c) ek eg]
  rw [e0, e1, e2]
theorem fsub (c : Ctl) (d : BitVec 7) (a : BitVec 7) (b : BitVec 7) : Statement (.fsub c d a b) := by
  intro _ hwf
  obtain ⟨ek, eg, eop, e0, e1, e2⟩ := shape_7_7_7 (w := wordOf (.fsub c d a b)) (BitVec.ofBool c.k) c.g 0x42#8 d a b rfl
  have hop : (fld (wordOf (.fsub c d a b)) 21 8).toNat = 66 := congrArg BitVec.toNat eop
  refine decodeWords_plain hop rfl ((decodeRaw_float hop (by omega)).trans ?_) hwf
  change (some (Instr.fsub (ctl (wordOf (.fsub c d a b))) (fld (wordOf (.fsub c d a b)) 14 7) (fld (wordOf (.fsub c d a b)) 7 7) (fld (wordOf (.fsub c d a b)) 0 7))) = _
  rw [ctl_eq (c := c) ek eg]
  rw [e0, e1, e2]
theorem fsubS (c : Ctl) (d : BitVec 7) (a : BitVec 7) (b : BitVec 7) : Statement (.fsubS c d a b) := by
  intro _ hwf
  obtain ⟨ek, eg, eop, e0, e1, e2⟩ := shape_7_7_7 (w := wordOf (.fsubS c d a b)) (BitVec.ofBool c.k) c.g 0x43#8 d a b rfl
  have hop : (fld (wordOf (.fsubS c d a b)) 21 8).toNat = 67 := congrArg BitVec.toNat eop
  refine decodeWords_plain hop rfl ((decodeRaw_float hop (by omega)).trans ?_) hwf
  change (some (Instr.fsubS (ctl (wordOf (.fsubS c d a b))) (fld (wordOf (.fsubS c d a b)) 14 7) (fld (wordOf (.fsubS c d a b)) 7 7) (fld (wordOf (.fsubS c d a b)) 0 7))) = _
  rw [ctl_eq (c := c) ek eg]
  rw [e0, e1, e2]
theorem fmul (c : Ctl) (d : BitVec 7) (a : BitVec 7) (b : BitVec 7) : Statement (.fmul c d a b) := by
  intro _ hwf
  obtain ⟨ek, eg, eop, e0, e1, e2⟩ := shape_7_7_7 (w := wordOf (.fmul c d a b)) (BitVec.ofBool c.k) c.g 0x44#8 d a b rfl
  have hop : (fld (wordOf (.fmul c d a b)) 21 8).toNat = 68 := congrArg BitVec.toNat eop
  refine decodeWords_plain hop rfl ((decodeRaw_float hop (by omega)).trans ?_) hwf
  change (some (Instr.fmul (ctl (wordOf (.fmul c d a b))) (fld (wordOf (.fmul c d a b)) 14 7) (fld (wordOf (.fmul c d a b)) 7 7) (fld (wordOf (.fmul c d a b)) 0 7))) = _
  rw [ctl_eq (c := c) ek eg]
  rw [e0, e1, e2]
theorem fmulS (c : Ctl) (d : BitVec 7) (a : BitVec 7) (b : BitVec 7) : Statement (.fmulS c d a b) := by
  intro _ hwf
  obtain ⟨ek, eg, eop, e0, e1, e2⟩ := shape_7_7_7 (w := wordOf (.fmulS c d a b)) (BitVec.ofBool c.k) c.g 0x45#8 d a b rfl
  have hop : (fld (wordOf (.fmulS c d a b)) 21 8).toNat = 69 := congrArg BitVec.toNat eop
  refine decodeWords_plain hop rfl ((decodeRaw_float hop (by omega)).trans ?_) hwf
  change (some (Instr.fmulS (ctl (wordOf (.fmulS c d a b))) (fld (wordOf (.fmulS c d a b)) 14 7) (fld (wordOf (.fmulS c d a b)) 7 7) (fld (wordOf (.fmulS c d a b)) 0 7))) = _
  rw [ctl_eq (c := c) ek eg]
  rw [e0, e1, e2]
theorem ffma (c : Ctl) (d : BitVec 7) (a : BitVec 7) (b : BitVec 7) : Statement (.ffma c d a b) := by
  intro _ hwf
  obtain ⟨ek, eg, eop, e0, e1, e2⟩ := shape_7_7_7 (w := wordOf (.ffma c d a b)) (BitVec.ofBool c.k) c.g 0x46#8 d a b rfl
  have hop : (fld (wordOf (.ffma c d a b)) 21 8).toNat = 70 := congrArg BitVec.toNat eop
  refine decodeWords_plain hop rfl ((decodeRaw_float hop (by omega)).trans ?_) hwf
  change (some (Instr.ffma (ctl (wordOf (.ffma c d a b))) (fld (wordOf (.ffma c d a b)) 14 7) (fld (wordOf (.ffma c d a b)) 7 7) (fld (wordOf (.ffma c d a b)) 0 7))) = _
  rw [ctl_eq (c := c) ek eg]
  rw [e0, e1, e2]
theorem ffmaS (c : Ctl) (d : BitVec 7) (a : BitVec 7) (b : BitVec 7) : Statement (.ffmaS c d a b) := by
  intro _ hwf
  obtain ⟨ek, eg, eop, e0, e1, e2⟩ := shape_7_7_7 (w := wordOf (.ffmaS c d a b)) (BitVec.ofBool c.k) c.g 0x47#8 d a b rfl
  have hop : (fld (wordOf (.ffmaS c d a b)) 21 8).toNat = 71 := congrArg BitVec.toNat eop
  refine decodeWords_plain hop rfl ((decodeRaw_float hop (by omega)).trans ?_) hwf
  change (some (Instr.ffmaS (ctl (wordOf (.ffmaS c d a b))) (fld (wordOf (.ffmaS c d a b)) 14 7) (fld (wordOf (.ffmaS c d a b)) 7 7) (fld (wordOf (.ffmaS c d a b)) 0 7))) = _
  rw [ctl_eq (c := c) ek eg]
  rw [e0, e1, e2]
theorem fmin (c : Ctl) (d : BitVec 7) (a : BitVec 7) (b : BitVec 7) : Statement (.fmin c d a b) := by
  intro _ hwf
  obtain ⟨ek, eg, eop, e0, e1, e2⟩ := shape_7_7_7 (w := wordOf (.fmin c d a b)) (BitVec.ofBool c.k) c.g 0x48#8 d a b rfl
  have hop : (fld (wordOf (.fmin c d a b)) 21 8).toNat = 72 := congrArg BitVec.toNat eop
  refine decodeWords_plain hop rfl ((decodeRaw_float hop (by omega)).trans ?_) hwf
  change (some (Instr.fmin (ctl (wordOf (.fmin c d a b))) (fld (wordOf (.fmin c d a b)) 14 7) (fld (wordOf (.fmin c d a b)) 7 7) (fld (wordOf (.fmin c d a b)) 0 7))) = _
  rw [ctl_eq (c := c) ek eg]
  rw [e0, e1, e2]
theorem fmax (c : Ctl) (d : BitVec 7) (a : BitVec 7) (b : BitVec 7) : Statement (.fmax c d a b) := by
  intro _ hwf
  obtain ⟨ek, eg, eop, e0, e1, e2⟩ := shape_7_7_7 (w := wordOf (.fmax c d a b)) (BitVec.ofBool c.k) c.g 0x49#8 d a b rfl
  have hop : (fld (wordOf (.fmax c d a b)) 21 8).toNat = 73 := congrArg BitVec.toNat eop
  refine decodeWords_plain hop rfl ((decodeRaw_float hop (by omega)).trans ?_) hwf
  change (some (Instr.fmax (ctl (wordOf (.fmax c d a b))) (fld (wordOf (.fmax c d a b)) 14 7) (fld (wordOf (.fmax c d a b)) 7 7) (fld (wordOf (.fmax c d a b)) 0 7))) = _
  rw [ctl_eq (c := c) ek eg]
  rw [e0, e1, e2]
theorem fabs (c : Ctl) (d : BitVec 7) (a : BitVec 7) : Statement (.fabs c d a) := by
  intro _ hwf
  obtain ⟨ek, eg, eop, e0, e1, e2⟩ := shape_7_7_7 (w := wordOf (.fabs c d a)) (BitVec.ofBool c.k) c.g 0x4a#8 d a 0x0#7 rfl
  have hop : (fld (wordOf (.fabs c d a)) 21 8).toNat = 74 := congrArg BitVec.toNat eop
  refine decodeWords_plain hop rfl ((decodeRaw_float hop (by omega)).trans ?_) hwf
  change (if fld (wordOf (.fabs c d a)) 0 7 == 0x0#7 then some (Instr.fabs (ctl (wordOf (.fabs c d a))) (fld (wordOf (.fabs c d a)) 14 7) (fld (wordOf (.fabs c d a)) 7 7)) else none) = _
  rw [ctl_eq (c := c) ek eg]
  simp [e0, e1, e2]
theorem fneg (c : Ctl) (d : BitVec 7) (a : BitVec 7) : Statement (.fneg c d a) := by
  intro _ hwf
  obtain ⟨ek, eg, eop, e0, e1, e2⟩ := shape_7_7_7 (w := wordOf (.fneg c d a)) (BitVec.ofBool c.k) c.g 0x4b#8 d a 0x0#7 rfl
  have hop : (fld (wordOf (.fneg c d a)) 21 8).toNat = 75 := congrArg BitVec.toNat eop
  refine decodeWords_plain hop rfl ((decodeRaw_float hop (by omega)).trans ?_) hwf
  change (if fld (wordOf (.fneg c d a)) 0 7 == 0x0#7 then some (Instr.fneg (ctl (wordOf (.fneg c d a))) (fld (wordOf (.fneg c d a)) 14 7) (fld (wordOf (.fneg c d a)) 7 7)) else none) = _
  rw [ctl_eq (c := c) ek eg]
  simp [e0, e1, e2]
theorem faddF64 (c : Ctl) (d : BitVec 7) (a : BitVec 7) (b : BitVec 7) : Statement (.faddF64 c d a b) := by
  intro _ hwf
  obtain ⟨ek, eg, eop, e0, e1, e2⟩ := shape_7_7_7 (w := wordOf (.faddF64 c d a b)) (BitVec.ofBool c.k) c.g 0x4c#8 d a b rfl
  have hop : (fld (wordOf (.faddF64 c d a b)) 21 8).toNat = 76 := congrArg BitVec.toNat eop
  refine decodeWords_plain hop rfl ((decodeRaw_float hop (by omega)).trans ?_) hwf
  change (some (Instr.faddF64 (ctl (wordOf (.faddF64 c d a b))) (fld (wordOf (.faddF64 c d a b)) 14 7) (fld (wordOf (.faddF64 c d a b)) 7 7) (fld (wordOf (.faddF64 c d a b)) 0 7))) = _
  rw [ctl_eq (c := c) ek eg]
  rw [e0, e1, e2]
theorem fmulF64 (c : Ctl) (d : BitVec 7) (a : BitVec 7) (b : BitVec 7) : Statement (.fmulF64 c d a b) := by
  intro _ hwf
  obtain ⟨ek, eg, eop, e0, e1, e2⟩ := shape_7_7_7 (w := wordOf (.fmulF64 c d a b)) (BitVec.ofBool c.k) c.g 0x4d#8 d a b rfl
  have hop : (fld (wordOf (.fmulF64 c d a b)) 21 8).toNat = 77 := congrArg BitVec.toNat eop
  refine decodeWords_plain hop rfl ((decodeRaw_float hop (by omega)).trans ?_) hwf
  change (some (Instr.fmulF64 (ctl (wordOf (.fmulF64 c d a b))) (fld (wordOf (.fmulF64 c d a b)) 14 7) (fld (wordOf (.fmulF64 c d a b)) 7 7) (fld (wordOf (.fmulF64 c d a b)) 0 7))) = _
  rw [ctl_eq (c := c) ek eg]
  rw [e0, e1, e2]
theorem ffmaF64 (c : Ctl) (d : BitVec 7) (a : BitVec 7) (b : BitVec 7) : Statement (.ffmaF64 c d a b) := by
  intro _ hwf
  obtain ⟨ek, eg, eop, e0, e1, e2⟩ := shape_7_7_7 (w := wordOf (.ffmaF64 c d a b)) (BitVec.ofBool c.k) c.g 0x4e#8 d a b rfl
  have hop : (fld (wordOf (.ffmaF64 c d a b)) 21 8).toNat = 78 := congrArg BitVec.toNat eop
  refine decodeWords_plain hop rfl ((decodeRaw_float hop (by omega)).trans ?_) hwf
  change (some (Instr.ffmaF64 (ctl (wordOf (.ffmaF64 c d a b))) (fld (wordOf (.ffmaF64 c d a b)) 14 7) (fld (wordOf (.ffmaF64 c d a b)) 7 7) (fld (wordOf (.ffmaF64 c d a b)) 0 7))) = _
  rw [ctl_eq (c := c) ek eg]
  rw [e0, e1, e2]
theorem fsubF64 (c : Ctl) (d : BitVec 7) (a : BitVec 7) (b : BitVec 7) : Statement (.fsubF64 c d a b) := by
  intro _ hwf
  obtain ⟨ek, eg, eop, e0, e1, e2⟩ := shape_7_7_7 (w := wordOf (.fsubF64 c d a b)) (BitVec.ofBool c.k) c.g 0x4f#8 d a b rfl
  have hop : (fld (wordOf (.fsubF64 c d a b)) 21 8).toNat = 79 := congrArg BitVec.toNat eop
  refine decodeWords_plain hop rfl ((decodeRaw_float hop (by omega)).trans ?_) hwf
  change (some (Instr.fsubF64 (ctl (wordOf (.fsubF64 c d a b))) (fld (wordOf (.fsubF64 c d a b)) 14 7) (fld (wordOf (.fsubF64 c d a b)) 7 7) (fld (wordOf (.fsubF64 c d a b)) 0 7))) = _
  rw [ctl_eq (c := c) ek eg]
  rw [e0, e1, e2]
theorem faddH16x2 (c : Ctl) (d : BitVec 7) (a : BitVec 7) (b : BitVec 7) : Statement (.faddH16x2 c d a b) := by
  intro _ hwf
  obtain ⟨ek, eg, eop, e0, e1, e2⟩ := shape_7_7_7 (w := wordOf (.faddH16x2 c d a b)) (BitVec.ofBool c.k) c.g 0x50#8 d a b rfl
  have hop : (fld (wordOf (.faddH16x2 c d a b)) 21 8).toNat = 80 := congrArg BitVec.toNat eop
  refine decodeWords_plain hop rfl ((decodeRaw_float hop (by omega)).trans ?_) hwf
  change (some (Instr.faddH16x2 (ctl (wordOf (.faddH16x2 c d a b))) (fld (wordOf (.faddH16x2 c d a b)) 14 7) (fld (wordOf (.faddH16x2 c d a b)) 7 7) (fld (wordOf (.faddH16x2 c d a b)) 0 7))) = _
  rw [ctl_eq (c := c) ek eg]
  rw [e0, e1, e2]
theorem fmulH16x2 (c : Ctl) (d : BitVec 7) (a : BitVec 7) (b : BitVec 7) : Statement (.fmulH16x2 c d a b) := by
  intro _ hwf
  obtain ⟨ek, eg, eop, e0, e1, e2⟩ := shape_7_7_7 (w := wordOf (.fmulH16x2 c d a b)) (BitVec.ofBool c.k) c.g 0x51#8 d a b rfl
  have hop : (fld (wordOf (.fmulH16x2 c d a b)) 21 8).toNat = 81 := congrArg BitVec.toNat eop
  refine decodeWords_plain hop rfl ((decodeRaw_float hop (by omega)).trans ?_) hwf
  change (some (Instr.fmulH16x2 (ctl (wordOf (.fmulH16x2 c d a b))) (fld (wordOf (.fmulH16x2 c d a b)) 14 7) (fld (wordOf (.fmulH16x2 c d a b)) 7 7) (fld (wordOf (.fmulH16x2 c d a b)) 0 7))) = _
  rw [ctl_eq (c := c) ek eg]
  rw [e0, e1, e2]
theorem ffmaH16x2 (c : Ctl) (d : BitVec 7) (a : BitVec 7) (b : BitVec 7) : Statement (.ffmaH16x2 c d a b) := by
  intro _ hwf
  obtain ⟨ek, eg, eop, e0, e1, e2⟩ := shape_7_7_7 (w := wordOf (.ffmaH16x2 c d a b)) (BitVec.ofBool c.k) c.g 0x52#8 d a b rfl
  have hop : (fld (wordOf (.ffmaH16x2 c d a b)) 21 8).toNat = 82 := congrArg BitVec.toNat eop
  refine decodeWords_plain hop rfl ((decodeRaw_float hop (by omega)).trans ?_) hwf
  change (some (Instr.ffmaH16x2 (ctl (wordOf (.ffmaH16x2 c d a b))) (fld (wordOf (.ffmaH16x2 c d a b)) 14 7) (fld (wordOf (.ffmaH16x2 c d a b)) 7 7) (fld (wordOf (.ffmaH16x2 c d a b)) 0 7))) = _
  rw [ctl_eq (c := c) ek eg]
  rw [e0, e1, e2]
theorem faddBf16x2 (c : Ctl) (d : BitVec 7) (a : BitVec 7) (b : BitVec 7) : Statement (.faddBf16x2 c d a b) := by
  intro _ hwf
  obtain ⟨ek, eg, eop, e0, e1, e2⟩ := shape_7_7_7 (w := wordOf (.faddBf16x2 c d a b)) (BitVec.ofBool c.k) c.g 0x53#8 d a b rfl
  have hop : (fld (wordOf (.faddBf16x2 c d a b)) 21 8).toNat = 83 := congrArg BitVec.toNat eop
  refine decodeWords_plain hop rfl ((decodeRaw_float hop (by omega)).trans ?_) hwf
  change (some (Instr.faddBf16x2 (ctl (wordOf (.faddBf16x2 c d a b))) (fld (wordOf (.faddBf16x2 c d a b)) 14 7) (fld (wordOf (.faddBf16x2 c d a b)) 7 7) (fld (wordOf (.faddBf16x2 c d a b)) 0 7))) = _
  rw [ctl_eq (c := c) ek eg]
  rw [e0, e1, e2]
theorem fmulBf16x2 (c : Ctl) (d : BitVec 7) (a : BitVec 7) (b : BitVec 7) : Statement (.fmulBf16x2 c d a b) := by
  intro _ hwf
  obtain ⟨ek, eg, eop, e0, e1, e2⟩ := shape_7_7_7 (w := wordOf (.fmulBf16x2 c d a b)) (BitVec.ofBool c.k) c.g 0x54#8 d a b rfl
  have hop : (fld (wordOf (.fmulBf16x2 c d a b)) 21 8).toNat = 84 := congrArg BitVec.toNat eop
  refine decodeWords_plain hop rfl ((decodeRaw_float hop (by omega)).trans ?_) hwf
  change (some (Instr.fmulBf16x2 (ctl (wordOf (.fmulBf16x2 c d a b))) (fld (wordOf (.fmulBf16x2 c d a b)) 14 7) (fld (wordOf (.fmulBf16x2 c d a b)) 7 7) (fld (wordOf (.fmulBf16x2 c d a b)) 0 7))) = _
  rw [ctl_eq (c := c) ek eg]
  rw [e0, e1, e2]
theorem ffmaBf16x2 (c : Ctl) (d : BitVec 7) (a : BitVec 7) (b : BitVec 7) : Statement (.ffmaBf16x2 c d a b) := by
  intro _ hwf
  obtain ⟨ek, eg, eop, e0, e1, e2⟩ := shape_7_7_7 (w := wordOf (.ffmaBf16x2 c d a b)) (BitVec.ofBool c.k) c.g 0x55#8 d a b rfl
  have hop : (fld (wordOf (.ffmaBf16x2 c d a b)) 21 8).toNat = 85 := congrArg BitVec.toNat eop
  refine decodeWords_plain hop rfl ((decodeRaw_float hop (by omega)).trans ?_) hwf
  change (some (Instr.ffmaBf16x2 (ctl (wordOf (.ffmaBf16x2 c d a b))) (fld (wordOf (.ffmaBf16x2 c d a b)) 14 7) (fld (wordOf (.ffmaBf16x2 c d a b)) 7 7) (fld (wordOf (.ffmaBf16x2 c d a b)) 0 7))) = _
  rw [ctl_eq (c := c) ek eg]
  rw [e0, e1, e2]
theorem fdot2Bf16 (c : Ctl) (d : BitVec 7) (a : BitVec 7) (b : BitVec 7) : Statement (.fdot2Bf16 c d a b) := by
  intro _ hwf
  obtain ⟨ek, eg, eop, e0, e1, e2⟩ := shape_7_7_7 (w := wordOf (.fdot2Bf16 c d a b)) (BitVec.ofBool c.k) c.g 0x56#8 d a b rfl
  have hop : (fld (wordOf (.fdot2Bf16 c d a b)) 21 8).toNat = 86 := congrArg BitVec.toNat eop
  refine decodeWords_plain hop rfl ((decodeRaw_float hop (by omega)).trans ?_) hwf
  change (some (Instr.fdot2Bf16 (ctl (wordOf (.fdot2Bf16 c d a b))) (fld (wordOf (.fdot2Bf16 c d a b)) 14 7) (fld (wordOf (.fdot2Bf16 c d a b)) 7 7) (fld (wordOf (.fdot2Bf16 c d a b)) 0 7))) = _
  rw [ctl_eq (c := c) ek eg]
  rw [e0, e1, e2]
theorem fscale (c : Ctl) (d : BitVec 7) (a : BitVec 7) (b : BitVec 7) : Statement (.fscale c d a b) := by
  intro _ hwf
  obtain ⟨ek, eg, eop, e0, e1, e2⟩ := shape_7_7_7 (w := wordOf (.fscale c d a b)) (BitVec.ofBool c.k) c.g 0x57#8 d a b rfl
  have hop : (fld (wordOf (.fscale c d a b)) 21 8).toNat = 87 := congrArg BitVec.toNat eop
  refine decodeWords_plain hop rfl ((decodeRaw_float hop (by omega)).trans ?_) hwf
  change (some (Instr.fscale (ctl (wordOf (.fscale c d a b))) (fld (wordOf (.fscale c d a b)) 14 7) (fld (wordOf (.fscale c d a b)) 7 7) (fld (wordOf (.fscale c d a b)) 0 7))) = _
  rw [ctl_eq (c := c) ek eg]
  rw [e0, e1, e2]
theorem fcmpEqF32 (c : Ctl) (d : BitVec 7) (a : BitVec 7) (b : BitVec 7) : Statement (.fcmpEqF32 c d a b) := by
  intro _ hwf
  obtain ⟨ek, eg, eop, e0, e1, e2⟩ := shape_7_7_7 (w := wordOf (.fcmpEqF32 c d a b)) (BitVec.ofBool c.k) c.g 0x58#8 d a b rfl
  have hop : (fld (wordOf (.fcmpEqF32 c d a b)) 21 8).toNat = 88 := congrArg BitVec.toNat eop
  refine decodeWords_plain hop rfl ((decodeRaw_float hop (by omega)).trans ?_) hwf
  change (some (Instr.fcmpEqF32 (ctl (wordOf (.fcmpEqF32 c d a b))) (fld (wordOf (.fcmpEqF32 c d a b)) 14 7) (fld (wordOf (.fcmpEqF32 c d a b)) 7 7) (fld (wordOf (.fcmpEqF32 c d a b)) 0 7))) = _
  rw [ctl_eq (c := c) ek eg]
  rw [e0, e1, e2]
theorem fcmpNeF32 (c : Ctl) (d : BitVec 7) (a : BitVec 7) (b : BitVec 7) : Statement (.fcmpNeF32 c d a b) := by
  intro _ hwf
  obtain ⟨ek, eg, eop, e0, e1, e2⟩ := shape_7_7_7 (w := wordOf (.fcmpNeF32 c d a b)) (BitVec.ofBool c.k) c.g 0x59#8 d a b rfl
  have hop : (fld (wordOf (.fcmpNeF32 c d a b)) 21 8).toNat = 89 := congrArg BitVec.toNat eop
  refine decodeWords_plain hop rfl ((decodeRaw_float hop (by omega)).trans ?_) hwf
  change (some (Instr.fcmpNeF32 (ctl (wordOf (.fcmpNeF32 c d a b))) (fld (wordOf (.fcmpNeF32 c d a b)) 14 7) (fld (wordOf (.fcmpNeF32 c d a b)) 7 7) (fld (wordOf (.fcmpNeF32 c d a b)) 0 7))) = _
  rw [ctl_eq (c := c) ek eg]
  rw [e0, e1, e2]
theorem fcmpLtF32 (c : Ctl) (d : BitVec 7) (a : BitVec 7) (b : BitVec 7) : Statement (.fcmpLtF32 c d a b) := by
  intro _ hwf
  obtain ⟨ek, eg, eop, e0, e1, e2⟩ := shape_7_7_7 (w := wordOf (.fcmpLtF32 c d a b)) (BitVec.ofBool c.k) c.g 0x5a#8 d a b rfl
  have hop : (fld (wordOf (.fcmpLtF32 c d a b)) 21 8).toNat = 90 := congrArg BitVec.toNat eop
  refine decodeWords_plain hop rfl ((decodeRaw_float hop (by omega)).trans ?_) hwf
  change (some (Instr.fcmpLtF32 (ctl (wordOf (.fcmpLtF32 c d a b))) (fld (wordOf (.fcmpLtF32 c d a b)) 14 7) (fld (wordOf (.fcmpLtF32 c d a b)) 7 7) (fld (wordOf (.fcmpLtF32 c d a b)) 0 7))) = _
  rw [ctl_eq (c := c) ek eg]
  rw [e0, e1, e2]
theorem fcmpLeF32 (c : Ctl) (d : BitVec 7) (a : BitVec 7) (b : BitVec 7) : Statement (.fcmpLeF32 c d a b) := by
  intro _ hwf
  obtain ⟨ek, eg, eop, e0, e1, e2⟩ := shape_7_7_7 (w := wordOf (.fcmpLeF32 c d a b)) (BitVec.ofBool c.k) c.g 0x5b#8 d a b rfl
  have hop : (fld (wordOf (.fcmpLeF32 c d a b)) 21 8).toNat = 91 := congrArg BitVec.toNat eop
  refine decodeWords_plain hop rfl ((decodeRaw_float hop (by omega)).trans ?_) hwf
  change (some (Instr.fcmpLeF32 (ctl (wordOf (.fcmpLeF32 c d a b))) (fld (wordOf (.fcmpLeF32 c d a b)) 14 7) (fld (wordOf (.fcmpLeF32 c d a b)) 7 7) (fld (wordOf (.fcmpLeF32 c d a b)) 0 7))) = _
  rw [ctl_eq (c := c) ek eg]
  rw [e0, e1, e2]
theorem fcmpUnF32 (c : Ctl) (d : BitVec 7) (a : BitVec 7) (b : BitVec 7) : Statement (.fcmpUnF32 c d a b) := by
  intro _ hwf
  obtain ⟨ek, eg, eop, e0, e1, e2⟩ := shape_7_7_7 (w := wordOf (.fcmpUnF32 c d a b)) (BitVec.ofBool c.k) c.g 0x5c#8 d a b rfl
  have hop : (fld (wordOf (.fcmpUnF32 c d a b)) 21 8).toNat = 92 := congrArg BitVec.toNat eop
  refine decodeWords_plain hop rfl ((decodeRaw_float hop (by omega)).trans ?_) hwf
  change (some (Instr.fcmpUnF32 (ctl (wordOf (.fcmpUnF32 c d a b))) (fld (wordOf (.fcmpUnF32 c d a b)) 14 7) (fld (wordOf (.fcmpUnF32 c d a b)) 7 7) (fld (wordOf (.fcmpUnF32 c d a b)) 0 7))) = _
  rw [ctl_eq (c := c) ek eg]
  rw [e0, e1, e2]
theorem fcmpEqF64 (c : Ctl) (d : BitVec 7) (a : BitVec 7) (b : BitVec 7) : Statement (.fcmpEqF64 c d a b) := by
  intro _ hwf
  obtain ⟨ek, eg, eop, e0, e1, e2⟩ := shape_7_7_7 (w := wordOf (.fcmpEqF64 c d a b)) (BitVec.ofBool c.k) c.g 0x5d#8 d a b rfl
  have hop : (fld (wordOf (.fcmpEqF64 c d a b)) 21 8).toNat = 93 := congrArg BitVec.toNat eop
  refine decodeWords_plain hop rfl ((decodeRaw_float hop (by omega)).trans ?_) hwf
  change (some (Instr.fcmpEqF64 (ctl (wordOf (.fcmpEqF64 c d a b))) (fld (wordOf (.fcmpEqF64 c d a b)) 14 7) (fld (wordOf (.fcmpEqF64 c d a b)) 7 7) (fld (wordOf (.fcmpEqF64 c d a b)) 0 7))) = _
  rw [ctl_eq (c := c) ek eg]
  rw [e0, e1, e2]
theorem fcmpLtF64 (c : Ctl) (d : BitVec 7) (a : BitVec 7) (b : BitVec 7) : Statement (.fcmpLtF64 c d a b) := by
  intro _ hwf
  obtain ⟨ek, eg, eop, e0, e1, e2⟩ := shape_7_7_7 (w := wordOf (.fcmpLtF64 c d a b)) (BitVec.ofBool c.k) c.g 0x5e#8 d a b rfl
  have hop : (fld (wordOf (.fcmpLtF64 c d a b)) 21 8).toNat = 94 := congrArg BitVec.toNat eop
  refine decodeWords_plain hop rfl ((decodeRaw_float hop (by omega)).trans ?_) hwf
  change (some (Instr.fcmpLtF64 (ctl (wordOf (.fcmpLtF64 c d a b))) (fld (wordOf (.fcmpLtF64 c d a b)) 14 7) (fld (wordOf (.fcmpLtF64 c d a b)) 7 7) (fld (wordOf (.fcmpLtF64 c d a b)) 0 7))) = _
  rw [ctl_eq (c := c) ek eg]
  rw [e0, e1, e2]
theorem fcmpLeF64 (c : Ctl) (d : BitVec 7) (a : BitVec 7) (b : BitVec 7) : Statement (.fcmpLeF64 c d a b) := by
  intro _ hwf
  obtain ⟨ek, eg, eop, e0, e1, e2⟩ := shape_7_7_7 (w := wordOf (.fcmpLeF64 c d a b)) (BitVec.ofBool c.k) c.g 0x5f#8 d a b rfl
  have hop : (fld (wordOf (.fcmpLeF64 c d a b)) 21 8).toNat = 95 := congrArg BitVec.toNat eop
  refine decodeWords_plain hop rfl ((decodeRaw_float hop (by omega)).trans ?_) hwf
  change (some (Instr.fcmpLeF64 (ctl (wordOf (.fcmpLeF64 c d a b))) (fld (wordOf (.fcmpLeF64 c d a b)) 14 7) (fld (wordOf (.fcmpLeF64 c d a b)) 7 7) (fld (wordOf (.fcmpLeF64 c d a b)) 0 7))) = _
  rw [ctl_eq (c := c) ek eg]
  rw [e0, e1, e2]
theorem fclass (c : Ctl) (d : BitVec 7) (a : BitVec 7) : Statement (.fclass c d a) := by
  intro _ hwf
  obtain ⟨ek, eg, eop, e0, e1, e2⟩ := shape_7_7_7 (w := wordOf (.fclass c d a)) (BitVec.ofBool c.k) c.g 0x60#8 d a 0x0#7 rfl
  have hop : (fld (wordOf (.fclass c d a)) 21 8).toNat = 96 := congrArg BitVec.toNat eop
  refine decodeWords_plain hop rfl ((decodeRaw_float hop (by omega)).trans ?_) hwf
  change (if fld (wordOf (.fclass c d a)) 0 7 == 0x0#7 then some (Instr.fclass (ctl (wordOf (.fclass c d a))) (fld (wordOf (.fclass c d a)) 14 7) (fld (wordOf (.fclass c d a)) 7 7)) else none) = _
  rw [ctl_eq (c := c) ek eg]
  simp [e0, e1, e2]
theorem frnd (c : Ctl) (d : BitVec 7) (a : BitVec 7) (mode : BitVec 2) : Statement (.frnd c d a mode) := by
  intro _ hwf
  obtain ⟨ek, eg, eop, e0, e1, e2, e3⟩ := shape_7_7_5_2 (w := wordOf (.frnd c d a mode)) (BitVec.ofBool c.k) c.g 0x61#8 d a 0x0#5 mode rfl
  have hop : (fld (wordOf (.frnd c d a mode)) 21 8).toNat = 97 := congrArg BitVec.toNat eop
  refine decodeWords_plain hop rfl ((decodeRaw_float hop (by omega)).trans ?_) hwf
  change (if fld (wordOf (.frnd c d a mode)) 2 5 == 0x0#5 then some (Instr.frnd (ctl (wordOf (.frnd c d a mode))) (fld (wordOf (.frnd c d a mode)) 14 7) (fld (wordOf (.frnd c d a mode)) 7 7) (fld (wordOf (.frnd c d a mode)) 0 2)) else none) = _
  rw [ctl_eq (c := c) ek eg]
  simp [e0, e1, e2, e3]
theorem fcvt (c : Ctl) (d : BitVec 7) (a : BitVec 7) (mode : BitVec 2) (pair : BitVec 5) : Statement (.fcvt c d a mode pair) := by
  intro _ hwf
  obtain ⟨ek, eg, eop, e0, e1, e2, e3⟩ := shape_7_7_2_5 (w := wordOf (.fcvt c d a mode pair)) (BitVec.ofBool c.k) c.g 0x62#8 d a mode pair rfl
  have hop : (fld (wordOf (.fcvt c d a mode pair)) 21 8).toNat = 98 := congrArg BitVec.toNat eop
  refine decodeWords_plain hop rfl ((decodeRaw_float hop (by omega)).trans ?_) hwf
  change (some (Instr.fcvt (ctl (wordOf (.fcvt c d a mode pair))) (fld (wordOf (.fcvt c d a mode pair)) 14 7) (fld (wordOf (.fcvt c d a mode pair)) 7 7) (fld (wordOf (.fcvt c d a mode pair)) 5 2) (fld (wordOf (.fcvt c d a mode pair)) 0 5))) = _
  rw [ctl_eq (c := c) ek eg]
  rw [e0, e1, e2, e3]
theorem fcvtPk (c : Ctl) (d : BitVec 7) (a : BitVec 7) (mode : BitVec 2) (pair : BitVec 5) : Statement (.fcvtPk c d a mode pair) := by
  intro _ hwf
  obtain ⟨ek, eg, eop, e0, e1, e2, e3⟩ := shape_7_7_2_5 (w := wordOf (.fcvtPk c d a mode pair)) (BitVec.ofBool c.k) c.g 0x63#8 d a mode pair rfl
  have hop : (fld (wordOf (.fcvtPk c d a mode pair)) 21 8).toNat = 99 := congrArg BitVec.toNat eop
  refine decodeWords_plain hop rfl ((decodeRaw_float hop (by omega)).trans ?_) hwf
  change (some (Instr.fcvtPk (ctl (wordOf (.fcvtPk c d a mode pair))) (fld (wordOf (.fcvtPk c d a mode pair)) 14 7) (fld (wordOf (.fcvtPk c d a mode pair)) 7 7) (fld (wordOf (.fcvtPk c d a mode pair)) 5 2) (fld (wordOf (.fcvtPk c d a mode pair)) 0 5))) = _
  rw [ctl_eq (c := c) ek eg]
  rw [e0, e1, e2, e3]
theorem frcp (c : Ctl) (d : BitVec 7) (a : BitVec 7) : Statement (.frcp c d a) := by
  intro _ hwf
  obtain ⟨ek, eg, eop, e0, e1, e2⟩ := shape_7_7_7 (w := wordOf (.frcp c d a)) (BitVec.ofBool c.k) c.g 0x64#8 d a 0x0#7 rfl
  have hop : (fld (wordOf (.frcp c d a)) 21 8).toNat = 100 := congrArg BitVec.toNat eop
  refine decodeWords_plain hop rfl ((decodeRaw_float hop (by omega)).trans ?_) hwf
  change (if fld (wordOf (.frcp c d a)) 0 7 == 0x0#7 then some (Instr.frcp (ctl (wordOf (.frcp c d a))) (fld (wordOf (.frcp c d a)) 14 7) (fld (wordOf (.frcp c d a)) 7 7)) else none) = _
  rw [ctl_eq (c := c) ek eg]
  simp [e0, e1, e2]
theorem frsq (c : Ctl) (d : BitVec 7) (a : BitVec 7) : Statement (.frsq c d a) := by
  intro _ hwf
  obtain ⟨ek, eg, eop, e0, e1, e2⟩ := shape_7_7_7 (w := wordOf (.frsq c d a)) (BitVec.ofBool c.k) c.g 0x65#8 d a 0x0#7 rfl
  have hop : (fld (wordOf (.frsq c d a)) 21 8).toNat = 101 := congrArg BitVec.toNat eop
  refine decodeWords_plain hop rfl ((decodeRaw_float hop (by omega)).trans ?_) hwf
  change (if fld (wordOf (.frsq c d a)) 0 7 == 0x0#7 then some (Instr.frsq (ctl (wordOf (.frsq c d a))) (fld (wordOf (.frsq c d a)) 14 7) (fld (wordOf (.frsq c d a)) 7 7)) else none) = _
  rw [ctl_eq (c := c) ek eg]
  simp [e0, e1, e2]
theorem fsqrt (c : Ctl) (d : BitVec 7) (a : BitVec 7) : Statement (.fsqrt c d a) := by
  intro _ hwf
  obtain ⟨ek, eg, eop, e0, e1, e2⟩ := shape_7_7_7 (w := wordOf (.fsqrt c d a)) (BitVec.ofBool c.k) c.g 0x66#8 d a 0x0#7 rfl
  have hop : (fld (wordOf (.fsqrt c d a)) 21 8).toNat = 102 := congrArg BitVec.toNat eop
  refine decodeWords_plain hop rfl ((decodeRaw_float hop (by omega)).trans ?_) hwf
  change (if fld (wordOf (.fsqrt c d a)) 0 7 == 0x0#7 then some (Instr.fsqrt (ctl (wordOf (.fsqrt c d a))) (fld (wordOf (.fsqrt c d a)) 14 7) (fld (wordOf (.fsqrt c d a)) 7 7)) else none) = _
  rw [ctl_eq (c := c) ek eg]
  simp [e0, e1, e2]
theorem fexp2 (c : Ctl) (d : BitVec 7) (a : BitVec 7) : Statement (.fexp2 c d a) := by
  intro _ hwf
  obtain ⟨ek, eg, eop, e0, e1, e2⟩ := shape_7_7_7 (w := wordOf (.fexp2 c d a)) (BitVec.ofBool c.k) c.g 0x67#8 d a 0x0#7 rfl
  have hop : (fld (wordOf (.fexp2 c d a)) 21 8).toNat = 103 := congrArg BitVec.toNat eop
  refine decodeWords_plain hop rfl ((decodeRaw_float hop (by omega)).trans ?_) hwf
  change (if fld (wordOf (.fexp2 c d a)) 0 7 == 0x0#7 then some (Instr.fexp2 (ctl (wordOf (.fexp2 c d a))) (fld (wordOf (.fexp2 c d a)) 14 7) (fld (wordOf (.fexp2 c d a)) 7 7)) else none) = _
  rw [ctl_eq (c := c) ek eg]
  simp [e0, e1, e2]
theorem flog2 (c : Ctl) (d : BitVec 7) (a : BitVec 7) : Statement (.flog2 c d a) := by
  intro _ hwf
  obtain ⟨ek, eg, eop, e0, e1, e2⟩ := shape_7_7_7 (w := wordOf (.flog2 c d a)) (BitVec.ofBool c.k) c.g 0x68#8 d a 0x0#7 rfl
  have hop : (fld (wordOf (.flog2 c d a)) 21 8).toNat = 104 := congrArg BitVec.toNat eop
  refine decodeWords_plain hop rfl ((decodeRaw_float hop (by omega)).trans ?_) hwf
  change (if fld (wordOf (.flog2 c d a)) 0 7 == 0x0#7 then some (Instr.flog2 (ctl (wordOf (.flog2 c d a))) (fld (wordOf (.flog2 c d a)) 14 7) (fld (wordOf (.flog2 c d a)) 7 7)) else none) = _
  rw [ctl_eq (c := c) ek eg]
  simp [e0, e1, e2]
theorem fsinpi (c : Ctl) (d : BitVec 7) (a : BitVec 7) : Statement (.fsinpi c d a) := by
  intro _ hwf
  obtain ⟨ek, eg, eop, e0, e1, e2⟩ := shape_7_7_7 (w := wordOf (.fsinpi c d a)) (BitVec.ofBool c.k) c.g 0x69#8 d a 0x0#7 rfl
  have hop : (fld (wordOf (.fsinpi c d a)) 21 8).toNat = 105 := congrArg BitVec.toNat eop
  refine decodeWords_plain hop rfl ((decodeRaw_float hop (by omega)).trans ?_) hwf
  change (if fld (wordOf (.fsinpi c d a)) 0 7 == 0x0#7 then some (Instr.fsinpi (ctl (wordOf (.fsinpi c d a))) (fld (wordOf (.fsinpi c d a)) 14 7) (fld (wordOf (.fsinpi c d a)) 7 7)) else none) = _
  rw [ctl_eq (c := c) ek eg]
  simp [e0, e1, e2]
theorem fcospi (c : Ctl) (d : BitVec 7) (a : BitVec 7) : Statement (.fcospi c d a) := by
  intro _ hwf
  obtain ⟨ek, eg, eop, e0, e1, e2⟩ := shape_7_7_7 (w := wordOf (.fcospi c d a)) (BitVec.ofBool c.k) c.g 0x6a#8 d a 0x0#7 rfl
  have hop : (fld (wordOf (.fcospi c d a)) 21 8).toNat = 106 := congrArg BitVec.toNat eop
  refine decodeWords_plain hop rfl ((decodeRaw_float hop (by omega)).trans ?_) hwf
  change (if fld (wordOf (.fcospi c d a)) 0 7 == 0x0#7 then some (Instr.fcospi (ctl (wordOf (.fcospi c d a))) (fld (wordOf (.fcospi c d a)) 14 7) (fld (wordOf (.fcospi c d a)) 7 7)) else none) = _
  rw [ctl_eq (c := c) ek eg]
  simp [e0, e1, e2]
theorem ftanh (c : Ctl) (d : BitVec 7) (a : BitVec 7) : Statement (.ftanh c d a) := by
  intro _ hwf
  obtain ⟨ek, eg, eop, e0, e1, e2⟩ := shape_7_7_7 (w := wordOf (.ftanh c d a)) (BitVec.ofBool c.k) c.g 0x6b#8 d a 0x0#7 rfl
  have hop : (fld (wordOf (.ftanh c d a)) 21 8).toNat = 107 := congrArg BitVec.toNat eop
  refine decodeWords_plain hop rfl ((decodeRaw_float hop (by omega)).trans ?_) hwf
  change (if fld (wordOf (.ftanh c d a)) 0 7 == 0x0#7 then some (Instr.ftanh (ctl (wordOf (.ftanh c d a))) (fld (wordOf (.ftanh c d a)) 14 7) (fld (wordOf (.ftanh c d a)) 7 7)) else none) = _
  rw [ctl_eq (c := c) ek eg]
  simp [e0, e1, e2]
theorem fdiv (c : Ctl) (d : BitVec 7) (a : BitVec 7) (b : BitVec 7) : Statement (.fdiv c d a b) := by
  intro _ hwf
  obtain ⟨ek, eg, eop, e0, e1, e2⟩ := shape_7_7_7 (w := wordOf (.fdiv c d a b)) (BitVec.ofBool c.k) c.g 0x6c#8 d a b rfl
  have hop : (fld (wordOf (.fdiv c d a b)) 21 8).toNat = 108 := congrArg BitVec.toNat eop
  refine decodeWords_plain hop rfl ((decodeRaw_float hop (by omega)).trans ?_) hwf
  change (some (Instr.fdiv (ctl (wordOf (.fdiv c d a b))) (fld (wordOf (.fdiv c d a b)) 14 7) (fld (wordOf (.fdiv c d a b)) 7 7) (fld (wordOf (.fdiv c d a b)) 0 7))) = _
  rw [ctl_eq (c := c) ek eg]
  rw [e0, e1, e2]
theorem smov (c : Ctl) (d : BitVec 7) (a : BitVec 7) : Statement (.smov c d a) := by
  intro _ hwf
  obtain ⟨ek, eg, eop, e0, e1, e2⟩ := shape_7_7_7 (w := wordOf (.smov c d a)) (BitVec.ofBool c.k) c.g 0x80#8 d a 0x0#7 rfl
  have hop : (fld (wordOf (.smov c d a)) 21 8).toNat = 128 := congrArg BitVec.toNat eop
  refine decodeWords_plain hop rfl ((decodeRaw_uniform hop (by omega)).trans ?_) hwf
  change (if fld (wordOf (.smov c d a)) 0 7 == 0x0#7 then some (Instr.smov (ctl (wordOf (.smov c d a))) (fld (wordOf (.smov c d a)) 14 7) (fld (wordOf (.smov c d a)) 7 7)) else none) = _
  rw [ctl_eq (c := c) ek eg]
  simp [e0, e1, e2]
theorem smovi (c : Ctl) (d : BitVec 7) (i : BitVec 14) : Statement (.smovi c d i) := by
  intro _ hwf
  obtain ⟨ek, eg, eop, e0, e1⟩ := shape_7_14 (w := wordOf (.smovi c d i)) (BitVec.ofBool c.k) c.g 0x81#8 d i rfl
  have hop : (fld (wordOf (.smovi c d i)) 21 8).toNat = 129 := congrArg BitVec.toNat eop
  refine decodeWords_plain hop rfl ((decodeRaw_uniform hop (by omega)).trans ?_) hwf
  change (some (Instr.smovi (ctl (wordOf (.smovi c d i))) (fld (wordOf (.smovi c d i)) 14 7) (fld (wordOf (.smovi c d i)) 0 14))) = _
  rw [ctl_eq (c := c) ek eg]
  rw [e0, e1]
theorem smovk (c : Ctl) (d : BitVec 7) (lit : Word) : Statement (.smovk c d lit) := by
  intro _ hwf
  obtain ⟨ek, eg, eop, e0, e1⟩ := shape_7_14 (w := wordOf (.smovk c d lit)) (BitVec.ofBool c.k) c.g 0x82#8 d 0x0#14 rfl
  have hop : (fld (wordOf (.smovk c d lit)) 21 8).toNat = 130 := congrArg BitVec.toNat eop
  refine decodeWords_lit hop rfl ((decodeRaw_uniform hop (by omega)).trans ?_) hwf
  change (if fld (wordOf (.smovk c d lit)) 0 14 == 0x0#14 then some (Instr.smovk (ctl (wordOf (.smovk c d lit))) (fld (wordOf (.smovk c d lit)) 14 7) lit) else none) = _
  rw [ctl_eq (c := c) ek eg]
  simp [e0, e1]
theorem sadd (c : Ctl) (d : BitVec 7) (a : BitVec 7) (b : BitVec 7) : Statement (.sadd c d a b) := by
  intro _ hwf
  obtain ⟨ek, eg, eop, e0, e1, e2⟩ := shape_7_7_7 (w := wordOf (.sadd c d a b)) (BitVec.ofBool c.k) c.g 0x83#8 d a b rfl
  have hop : (fld (wordOf (.sadd c d a b)) 21 8).toNat = 131 := congrArg BitVec.toNat eop
  refine decodeWords_plain hop rfl ((decodeRaw_uniform hop (by omega)).trans ?_) hwf
  change (some (Instr.sadd (ctl (wordOf (.sadd c d a b))) (fld (wordOf (.sadd c d a b)) 14 7) (fld (wordOf (.sadd c d a b)) 7 7) (fld (wordOf (.sadd c d a b)) 0 7))) = _
  rw [ctl_eq (c := c) ek eg]
  rw [e0, e1, e2]
theorem ssub (c : Ctl) (d : BitVec 7) (a : BitVec 7) (b : BitVec 7) : Statement (.ssub c d a b) := by
  intro _ hwf
  obtain ⟨ek, eg, eop, e0, e1, e2⟩ := shape_7_7_7 (w := wordOf (.ssub c d a b)) (BitVec.ofBool c.k) c.g 0x84#8 d a b rfl
  have hop : (fld (wordOf (.ssub c d a b)) 21 8).toNat = 132 := congrArg BitVec.toNat eop
  refine decodeWords_plain hop rfl ((decodeRaw_uniform hop (by omega)).trans ?_) hwf
  change (some (Instr.ssub (ctl (wordOf (.ssub c d a b))) (fld (wordOf (.ssub c d a b)) 14 7) (fld (wordOf (.ssub c d a b)) 7 7) (fld (wordOf (.ssub c d a b)) 0 7))) = _
  rw [ctl_eq (c := c) ek eg]
  rw [e0, e1, e2]
theorem smul (c : Ctl) (d : BitVec 7) (a : BitVec 7) (b : BitVec 7) : Statement (.smul c d a b) := by
  intro _ hwf
  obtain ⟨ek, eg, eop, e0, e1, e2⟩ := shape_7_7_7 (w := wordOf (.smul c d a b)) (BitVec.ofBool c.k) c.g 0x85#8 d a b rfl
  have hop : (fld (wordOf (.smul c d a b)) 21 8).toNat = 133 := congrArg BitVec.toNat eop
  refine decodeWords_plain hop rfl ((decodeRaw_uniform hop (by omega)).trans ?_) hwf
  change (some (Instr.smul (ctl (wordOf (.smul c d a b))) (fld (wordOf (.smul c d a b)) 14 7) (fld (wordOf (.smul c d a b)) 7 7) (fld (wordOf (.smul c d a b)) 0 7))) = _
  rw [ctl_eq (c := c) ek eg]
  rw [e0, e1, e2]
theorem sand (c : Ctl) (d : BitVec 7) (a : BitVec 7) (b : BitVec 7) : Statement (.sand c d a b) := by
  intro _ hwf
  obtain ⟨ek, eg, eop, e0, e1, e2⟩ := shape_7_7_7 (w := wordOf (.sand c d a b)) (BitVec.ofBool c.k) c.g 0x86#8 d a b rfl
  have hop : (fld (wordOf (.sand c d a b)) 21 8).toNat = 134 := congrArg BitVec.toNat eop
  refine decodeWords_plain hop rfl ((decodeRaw_uniform hop (by omega)).trans ?_) hwf
  change (some (Instr.sand (ctl (wordOf (.sand c d a b))) (fld (wordOf (.sand c d a b)) 14 7) (fld (wordOf (.sand c d a b)) 7 7) (fld (wordOf (.sand c d a b)) 0 7))) = _
  rw [ctl_eq (c := c) ek eg]
  rw [e0, e1, e2]
theorem sor (c : Ctl) (d : BitVec 7) (a : BitVec 7) (b : BitVec 7) : Statement (.sor c d a b) := by
  intro _ hwf
  obtain ⟨ek, eg, eop, e0, e1, e2⟩ := shape_7_7_7 (w := wordOf (.sor c d a b)) (BitVec.ofBool c.k) c.g 0x87#8 d a b rfl
  have hop : (fld (wordOf (.sor c d a b)) 21 8).toNat = 135 := congrArg BitVec.toNat eop
  refine decodeWords_plain hop rfl ((decodeRaw_uniform hop (by omega)).trans ?_) hwf
  change (some (Instr.sor (ctl (wordOf (.sor c d a b))) (fld (wordOf (.sor c d a b)) 14 7) (fld (wordOf (.sor c d a b)) 7 7) (fld (wordOf (.sor c d a b)) 0 7))) = _
  rw [ctl_eq (c := c) ek eg]
  rw [e0, e1, e2]
theorem sxor (c : Ctl) (d : BitVec 7) (a : BitVec 7) (b : BitVec 7) : Statement (.sxor c d a b) := by
  intro _ hwf
  obtain ⟨ek, eg, eop, e0, e1, e2⟩ := shape_7_7_7 (w := wordOf (.sxor c d a b)) (BitVec.ofBool c.k) c.g 0x88#8 d a b rfl
  have hop : (fld (wordOf (.sxor c d a b)) 21 8).toNat = 136 := congrArg BitVec.toNat eop
  refine decodeWords_plain hop rfl ((decodeRaw_uniform hop (by omega)).trans ?_) hwf
  change (some (Instr.sxor (ctl (wordOf (.sxor c d a b))) (fld (wordOf (.sxor c d a b)) 14 7) (fld (wordOf (.sxor c d a b)) 7 7) (fld (wordOf (.sxor c d a b)) 0 7))) = _
  rw [ctl_eq (c := c) ek eg]
  rw [e0, e1, e2]
theorem sshl (c : Ctl) (d : BitVec 7) (a : BitVec 7) (b : BitVec 7) : Statement (.sshl c d a b) := by
  intro _ hwf
  obtain ⟨ek, eg, eop, e0, e1, e2⟩ := shape_7_7_7 (w := wordOf (.sshl c d a b)) (BitVec.ofBool c.k) c.g 0x89#8 d a b rfl
  have hop : (fld (wordOf (.sshl c d a b)) 21 8).toNat = 137 := congrArg BitVec.toNat eop
  refine decodeWords_plain hop rfl ((decodeRaw_uniform hop (by omega)).trans ?_) hwf
  change (some (Instr.sshl (ctl (wordOf (.sshl c d a b))) (fld (wordOf (.sshl c d a b)) 14 7) (fld (wordOf (.sshl c d a b)) 7 7) (fld (wordOf (.sshl c d a b)) 0 7))) = _
  rw [ctl_eq (c := c) ek eg]
  rw [e0, e1, e2]
theorem sshr (c : Ctl) (d : BitVec 7) (a : BitVec 7) (b : BitVec 7) : Statement (.sshr c d a b) := by
  intro _ hwf
  obtain ⟨ek, eg, eop, e0, e1, e2⟩ := shape_7_7_7 (w := wordOf (.sshr c d a b)) (BitVec.ofBool c.k) c.g 0x8a#8 d a b rfl
  have hop : (fld (wordOf (.sshr c d a b)) 21 8).toNat = 138 := congrArg BitVec.toNat eop
  refine decodeWords_plain hop rfl ((decodeRaw_uniform hop (by omega)).trans ?_) hwf
  change (some (Instr.sshr (ctl (wordOf (.sshr c d a b))) (fld (wordOf (.sshr c d a b)) 14 7) (fld (wordOf (.sshr c d a b)) 7 7) (fld (wordOf (.sshr c d a b)) 0 7))) = _
  rw [ctl_eq (c := c) ek eg]
  rw [e0, e1, e2]
theorem saddi (c : Ctl) (d : BitVec 7) (a : BitVec 7) (n : BitVec 7) : Statement (.saddi c d a n) := by
  intro _ hwf
  obtain ⟨ek, eg, eop, e0, e1, e2⟩ := shape_7_7_7 (w := wordOf (.saddi c d a n)) (BitVec.ofBool c.k) c.g 0x8b#8 d a n rfl
  have hop : (fld (wordOf (.saddi c d a n)) 21 8).toNat = 139 := congrArg BitVec.toNat eop
  refine decodeWords_plain hop rfl ((decodeRaw_uniform hop (by omega)).trans ?_) hwf
  change (some (Instr.saddi (ctl (wordOf (.saddi c d a n))) (fld (wordOf (.saddi c d a n)) 14 7) (fld (wordOf (.saddi c d a n)) 7 7) (fld (wordOf (.saddi c d a n)) 0 7))) = _
  rw [ctl_eq (c := c) ek eg]
  rw [e0, e1, e2]
theorem scmpEq (c : Ctl) (d : BitVec 7) (a : BitVec 7) (b : BitVec 7) : Statement (.scmpEq c d a b) := by
  intro _ hwf
  obtain ⟨ek, eg, eop, e0, e1, e2⟩ := shape_7_7_7 (w := wordOf (.scmpEq c d a b)) (BitVec.ofBool c.k) c.g 0x8c#8 d a b rfl
  have hop : (fld (wordOf (.scmpEq c d a b)) 21 8).toNat = 140 := congrArg BitVec.toNat eop
  refine decodeWords_plain hop rfl ((decodeRaw_uniform hop (by omega)).trans ?_) hwf
  change (some (Instr.scmpEq (ctl (wordOf (.scmpEq c d a b))) (fld (wordOf (.scmpEq c d a b)) 14 7) (fld (wordOf (.scmpEq c d a b)) 7 7) (fld (wordOf (.scmpEq c d a b)) 0 7))) = _
  rw [ctl_eq (c := c) ek eg]
  rw [e0, e1, e2]
theorem scmpLtI64 (c : Ctl) (d : BitVec 7) (a : BitVec 7) (b : BitVec 7) : Statement (.scmpLtI64 c d a b) := by
  intro _ hwf
  obtain ⟨ek, eg, eop, e0, e1, e2⟩ := shape_7_7_7 (w := wordOf (.scmpLtI64 c d a b)) (BitVec.ofBool c.k) c.g 0x8d#8 d a b rfl
  have hop : (fld (wordOf (.scmpLtI64 c d a b)) 21 8).toNat = 141 := congrArg BitVec.toNat eop
  refine decodeWords_plain hop rfl ((decodeRaw_uniform hop (by omega)).trans ?_) hwf
  change (some (Instr.scmpLtI64 (ctl (wordOf (.scmpLtI64 c d a b))) (fld (wordOf (.scmpLtI64 c d a b)) 14 7) (fld (wordOf (.scmpLtI64 c d a b)) 7 7) (fld (wordOf (.scmpLtI64 c d a b)) 0 7))) = _
  rw [ctl_eq (c := c) ek eg]
  rw [e0, e1, e2]
theorem scmpLtN64 (c : Ctl) (d : BitVec 7) (a : BitVec 7) (b : BitVec 7) : Statement (.scmpLtN64 c d a b) := by
  intro _ hwf
  obtain ⟨ek, eg, eop, e0, e1, e2⟩ := shape_7_7_7 (w := wordOf (.scmpLtN64 c d a b)) (BitVec.ofBool c.k) c.g 0x8e#8 d a b rfl
  have hop : (fld (wordOf (.scmpLtN64 c d a b)) 21 8).toNat = 142 := congrArg BitVec.toNat eop
  refine decodeWords_plain hop rfl ((decodeRaw_uniform hop (by omega)).trans ?_) hwf
  change (some (Instr.scmpLtN64 (ctl (wordOf (.scmpLtN64 c d a b))) (fld (wordOf (.scmpLtN64 c d a b)) 14 7) (fld (wordOf (.scmpLtN64 c d a b)) 7 7) (fld (wordOf (.scmpLtN64 c d a b)) 0 7))) = _
  rw [ctl_eq (c := c) ek eg]
  rw [e0, e1, e2]
theorem sld (c : Ctl) (d : BitVec 7) (a : BitVec 7) (w : BitVec 3) (off : BitVec 4) : Statement (.sld c d a w off) := by
  intro _ hwf
  obtain ⟨ek, eg, eop, e0, e1, e2, e3⟩ := shape_7_7_3_4 (w := wordOf (.sld c d a w off)) (BitVec.ofBool c.k) c.g 0x8f#8 d a w off rfl
  have hop : (fld (wordOf (.sld c d a w off)) 21 8).toNat = 143 := congrArg BitVec.toNat eop
  refine decodeWords_plain hop rfl ((decodeRaw_uniform hop (by omega)).trans ?_) hwf
  change (some (Instr.sld (ctl (wordOf (.sld c d a w off))) (fld (wordOf (.sld c d a w off)) 14 7) (fld (wordOf (.sld c d a w off)) 7 7) (fld (wordOf (.sld c d a w off)) 4 3) (fld (wordOf (.sld c d a w off)) 0 4))) = _
  rw [ctl_eq (c := c) ek eg]
  rw [e0, e1, e2, e3]
theorem rdln (c : Ctl) (d : BitVec 7) (a : BitVec 7) (lane : BitVec 6) : Statement (.rdln c d a lane) := by
  intro _ hwf
  obtain ⟨ek, eg, eop, e0, e1, e2, e3⟩ := shape_7_7_1_6 (w := wordOf (.rdln c d a lane)) (BitVec.ofBool c.k) c.g 0x90#8 d a 0x0#1 lane rfl
  have hop : (fld (wordOf (.rdln c d a lane)) 21 8).toNat = 144 := congrArg BitVec.toNat eop
  refine decodeWords_plain hop rfl ((decodeRaw_uniform hop (by omega)).trans ?_) hwf
  change (if fld (wordOf (.rdln c d a lane)) 6 1 == 0x0#1 then some (Instr.rdln (ctl (wordOf (.rdln c d a lane))) (fld (wordOf (.rdln c d a lane)) 14 7) (fld (wordOf (.rdln c d a lane)) 7 7) (fld (wordOf (.rdln c d a lane)) 0 6)) else none) = _
  rw [ctl_eq (c := c) ek eg]
  simp [e0, e1, e2, e3]
theorem pand (c : Ctl) (d : BitVec 7) (a : BitVec 7) (b : BitVec 7) : Statement (.pand c d a b) := by
  intro _ hwf
  obtain ⟨ek, eg, eop, e0, e1, e2⟩ := shape_7_7_7 (w := wordOf (.pand c d a b)) (BitVec.ofBool c.k) c.g 0x91#8 d a b rfl
  have hop : (fld (wordOf (.pand c d a b)) 21 8).toNat = 145 := congrArg BitVec.toNat eop
  refine decodeWords_plain hop rfl ((decodeRaw_uniform hop (by omega)).trans ?_) hwf
  change (some (Instr.pand (ctl (wordOf (.pand c d a b))) (fld (wordOf (.pand c d a b)) 14 7) (fld (wordOf (.pand c d a b)) 7 7) (fld (wordOf (.pand c d a b)) 0 7))) = _
  rw [ctl_eq (c := c) ek eg]
  rw [e0, e1, e2]
theorem por (c : Ctl) (d : BitVec 7) (a : BitVec 7) (b : BitVec 7) : Statement (.por c d a b) := by
  intro _ hwf
  obtain ⟨ek, eg, eop, e0, e1, e2⟩ := shape_7_7_7 (w := wordOf (.por c d a b)) (BitVec.ofBool c.k) c.g 0x92#8 d a b rfl
  have hop : (fld (wordOf (.por c d a b)) 21 8).toNat = 146 := congrArg BitVec.toNat eop
  refine decodeWords_plain hop rfl ((decodeRaw_uniform hop (by omega)).trans ?_) hwf
  change (some (Instr.por (ctl (wordOf (.por c d a b))) (fld (wordOf (.por c d a b)) 14 7) (fld (wordOf (.por c d a b)) 7 7) (fld (wordOf (.por c d a b)) 0 7))) = _
  rw [ctl_eq (c := c) ek eg]
  rw [e0, e1, e2]
theorem pxor (c : Ctl) (d : BitVec 7) (a : BitVec 7) (b : BitVec 7) : Statement (.pxor c d a b) := by
  intro _ hwf
  obtain ⟨ek, eg, eop, e0, e1, e2⟩ := shape_7_7_7 (w := wordOf (.pxor c d a b)) (BitVec.ofBool c.k) c.g 0x93#8 d a b rfl
  have hop : (fld (wordOf (.pxor c d a b)) 21 8).toNat = 147 := congrArg BitVec.toNat eop
  refine decodeWords_plain hop rfl ((decodeRaw_uniform hop (by omega)).trans ?_) hwf
  change (some (Instr.pxor (ctl (wordOf (.pxor c d a b))) (fld (wordOf (.pxor c d a b)) 14 7) (fld (wordOf (.pxor c d a b)) 7 7) (fld (wordOf (.pxor c d a b)) 0 7))) = _
  rw [ctl_eq (c := c) ek eg]
  rw [e0, e1, e2]
theorem pandn (c : Ctl) (d : BitVec 7) (a : BitVec 7) (b : BitVec 7) : Statement (.pandn c d a b) := by
  intro _ hwf
  obtain ⟨ek, eg, eop, e0, e1, e2⟩ := shape_7_7_7 (w := wordOf (.pandn c d a b)) (BitVec.ofBool c.k) c.g 0x94#8 d a b rfl
  have hop : (fld (wordOf (.pandn c d a b)) 21 8).toNat = 148 := congrArg BitVec.toNat eop
  refine decodeWords_plain hop rfl ((decodeRaw_uniform hop (by omega)).trans ?_) hwf
  change (some (Instr.pandn (ctl (wordOf (.pandn c d a b))) (fld (wordOf (.pandn c d a b)) 14 7) (fld (wordOf (.pandn c d a b)) 7 7) (fld (wordOf (.pandn c d a b)) 0 7))) = _
  rw [ctl_eq (c := c) ek eg]
  rw [e0, e1, e2]
theorem pmov (c : Ctl) (d : BitVec 7) (a : BitVec 7) : Statement (.pmov c d a) := by
  intro _ hwf
  obtain ⟨ek, eg, eop, e0, e1, e2⟩ := shape_7_7_7 (w := wordOf (.pmov c d a)) (BitVec.ofBool c.k) c.g 0x95#8 d a 0x0#7 rfl
  have hop : (fld (wordOf (.pmov c d a)) 21 8).toNat = 149 := congrArg BitVec.toNat eop
  refine decodeWords_plain hop rfl ((decodeRaw_uniform hop (by omega)).trans ?_) hwf
  change (if fld (wordOf (.pmov c d a)) 0 7 == 0x0#7 then some (Instr.pmov (ctl (wordOf (.pmov c d a))) (fld (wordOf (.pmov c d a)) 14 7) (fld (wordOf (.pmov c d a)) 7 7)) else none) = _
  rw [ctl_eq (c := c) ek eg]
  simp [e0, e1, e2]
theorem pnot (c : Ctl) (d : BitVec 7) (a : BitVec 7) : Statement (.pnot c d a) := by
  intro _ hwf
  obtain ⟨ek, eg, eop, e0, e1, e2⟩ := shape_7_7_7 (w := wordOf (.pnot c d a)) (BitVec.ofBool c.k) c.g 0x96#8 d a 0x0#7 rfl
  have hop : (fld (wordOf (.pnot c d a)) 21 8).toNat = 150 := congrArg BitVec.toNat eop
  refine decodeWords_plain hop rfl ((decodeRaw_uniform hop (by omega)).trans ?_) hwf
  change (if fld (wordOf (.pnot c d a)) 0 7 == 0x0#7 then some (Instr.pnot (ctl (wordOf (.pnot c d a))) (fld (wordOf (.pnot c d a)) 14 7) (fld (wordOf (.pnot c d a)) 7 7)) else none) = _
  rw [ctl_eq (c := c) ek eg]
  simp [e0, e1, e2]
theorem guard (c : Ctl) (latch : BitVec 1) (a : BitVec 7) : Statement (.guard c latch a) := by
  intro _ hwf
  obtain ⟨ek, eg, eop, e0, e1, e2, e3⟩ := shape_6_1_7_7 (w := wordOf (.guard c latch a)) (BitVec.ofBool c.k) c.g 0x97#8 0x0#6 latch a 0x0#7 rfl
  have hop : (fld (wordOf (.guard c latch a)) 21 8).toNat = 151 := congrArg BitVec.toNat eop
  refine decodeWords_plain hop rfl ((decodeRaw_uniform hop (by omega)).trans ?_) hwf
  change (if fld (wordOf (.guard c latch a)) 15 6 == 0x0#6 && fld (wordOf (.guard c latch a)) 0 7 == 0x0#7 then some (Instr.guard (ctl (wordOf (.guard c latch a))) (fld (wordOf (.guard c latch a)) 14 1) (fld (wordOf (.guard c latch a)) 7 7)) else none) = _
  rw [ctl_eq (c := c) ek eg]
  simp [e0, e1, e2, e3]
theorem pset (c : Ctl) (d : BitVec 7) (v : BitVec 1) : Statement (.pset c d v) := by
  intro _ hwf
  obtain ⟨ek, eg, eop, e0, e1, e2⟩ := shape_7_13_1 (w := wordOf (.pset c d v)) (BitVec.ofBool c.k) c.g 0x98#8 d 0x0#13 v rfl
  have hop : (fld (wordOf (.pset c d v)) 21 8).toNat = 152 := congrArg BitVec.toNat eop
  refine decodeWords_plain hop rfl ((decodeRaw_uniform hop (by omega)).trans ?_) hwf
  change (if fld (wordOf (.pset c d v)) 1 13 == 0x0#13 then some (Instr.pset (ctl (wordOf (.pset c d v))) (fld (wordOf (.pset c d v)) 14 7) (fld (wordOf (.pset c d v)) 0 1)) else none) = _
  rw [ctl_eq (c := c) ek eg]
  simp [e0, e1, e2]
theorem shflIdx (c : Ctl) (d : BitVec 7) (a : BitVec 7) (b : BitVec 7) : Statement (.shflIdx c d a b) := by
  intro _ hwf
  obtain ⟨ek, eg, eop, e0, e1, e2⟩ := shape_7_7_7 (w := wordOf (.shflIdx c d a b)) (BitVec.ofBool c.k) c.g 0xa0#8 d a b rfl
  have hop : (fld (wordOf (.shflIdx c d a b)) 21 8).toNat = 160 := congrArg BitVec.toNat eop
  refine decodeWords_plain hop rfl ((decodeRaw_control hop (by omega)).trans ?_) hwf
  change (some (Instr.shflIdx (ctl (wordOf (.shflIdx c d a b))) (fld (wordOf (.shflIdx c d a b)) 14 7) (fld (wordOf (.shflIdx c d a b)) 7 7) (fld (wordOf (.shflIdx c d a b)) 0 7))) = _
  rw [ctl_eq (c := c) ek eg]
  rw [e0, e1, e2]
theorem shflUp (c : Ctl) (d : BitVec 7) (a : BitVec 7) (b : BitVec 7) : Statement (.shflUp c d a b) := by
  intro _ hwf
  obtain ⟨ek, eg, eop, e0, e1, e2⟩ := shape_7_7_7 (w := wordOf (.shflUp c d a b)) (BitVec.ofBool c.k) c.g 0xa1#8 d a b rfl
  have hop : (fld (wordOf (.shflUp c d a b)) 21 8).toNat = 161 := congrArg BitVec.toNat eop
  refine decodeWords_plain hop rfl ((decodeRaw_control hop (by omega)).trans ?_) hwf
  change (some (Instr.shflUp (ctl (wordOf (.shflUp c d a b))) (fld (wordOf (.shflUp c d a b)) 14 7) (fld (wordOf (.shflUp c d a b)) 7 7) (fld (wordOf (.shflUp c d a b)) 0 7))) = _
  rw [ctl_eq (c := c) ek eg]
  rw [e0, e1, e2]
theorem shflDn (c : Ctl) (d : BitVec 7) (a : BitVec 7) (b : BitVec 7) : Statement (.shflDn c d a b) := by
  intro _ hwf
  obtain ⟨ek, eg, eop, e0, e1, e2⟩ := shape_7_7_7 (w := wordOf (.shflDn c d a b)) (BitVec.ofBool c.k) c.g 0xa2#8 d a b rfl
  have hop : (fld (wordOf (.shflDn c d a b)) 21 8).toNat = 162 := congrArg BitVec.toNat eop
  refine decodeWords_plain hop rfl ((decodeRaw_control hop (by omega)).trans ?_) hwf
  change (some (Instr.shflDn (ctl (wordOf (.shflDn c d a b))) (fld (wordOf (.shflDn c d a b)) 14 7) (fld (wordOf (.shflDn c d a b)) 7 7) (fld (wordOf (.shflDn c d a b)) 0 7))) = _
  rw [ctl_eq (c := c) ek eg]
  rw [e0, e1, e2]
theorem shflXor (c : Ctl) (d : BitVec 7) (a : BitVec 7) (b : BitVec 7) : Statement (.shflXor c d a b) := by
  intro _ hwf
  obtain ⟨ek, eg, eop, e0, e1, e2⟩ := shape_7_7_7 (w := wordOf (.shflXor c d a b)) (BitVec.ofBool c.k) c.g 0xa3#8 d a b rfl
  have hop : (fld (wordOf (.shflXor c d a b)) 21 8).toNat = 163 := congrArg BitVec.toNat eop
  refine decodeWords_plain hop rfl ((decodeRaw_control hop (by omega)).trans ?_) hwf
  change (some (Instr.shflXor (ctl (wordOf (.shflXor c d a b))) (fld (wordOf (.shflXor c d a b)) 14 7) (fld (wordOf (.shflXor c d a b)) 7 7) (fld (wordOf (.shflXor c d a b)) 0 7))) = _
  rw [ctl_eq (c := c) ek eg]
  rw [e0, e1, e2]
theorem voteAny (c : Ctl) (d : BitVec 7) (a : BitVec 7) : Statement (.voteAny c d a) := by
  intro _ hwf
  obtain ⟨ek, eg, eop, e0, e1, e2⟩ := shape_7_7_7 (w := wordOf (.voteAny c d a)) (BitVec.ofBool c.k) c.g 0xa4#8 d a 0x0#7 rfl
  have hop : (fld (wordOf (.voteAny c d a)) 21 8).toNat = 164 := congrArg BitVec.toNat eop
  refine decodeWords_plain hop rfl ((decodeRaw_control hop (by omega)).trans ?_) hwf
  change (if fld (wordOf (.voteAny c d a)) 0 7 == 0x0#7 then some (Instr.voteAny (ctl (wordOf (.voteAny c d a))) (fld (wordOf (.voteAny c d a)) 14 7) (fld (wordOf (.voteAny c d a)) 7 7)) else none) = _
  rw [ctl_eq (c := c) ek eg]
  simp [e0, e1, e2]
theorem voteAll (c : Ctl) (d : BitVec 7) (a : BitVec 7) : Statement (.voteAll c d a) := by
  intro _ hwf
  obtain ⟨ek, eg, eop, e0, e1, e2⟩ := shape_7_7_7 (w := wordOf (.voteAll c d a)) (BitVec.ofBool c.k) c.g 0xa5#8 d a 0x0#7 rfl
  have hop : (fld (wordOf (.voteAll c d a)) 21 8).toNat = 165 := congrArg BitVec.toNat eop
  refine decodeWords_plain hop rfl ((decodeRaw_control hop (by omega)).trans ?_) hwf
  change (if fld (wordOf (.voteAll c d a)) 0 7 == 0x0#7 then some (Instr.voteAll (ctl (wordOf (.voteAll c d a))) (fld (wordOf (.voteAll c d a)) 14 7) (fld (wordOf (.voteAll c d a)) 7 7)) else none) = _
  rw [ctl_eq (c := c) ek eg]
  simp [e0, e1, e2]
theorem ballot (c : Ctl) (d : BitVec 7) (a : BitVec 7) : Statement (.ballot c d a) := by
  intro _ hwf
  obtain ⟨ek, eg, eop, e0, e1, e2⟩ := shape_7_7_7 (w := wordOf (.ballot c d a)) (BitVec.ofBool c.k) c.g 0xa6#8 d a 0x0#7 rfl
  have hop : (fld (wordOf (.ballot c d a)) 21 8).toNat = 166 := congrArg BitVec.toNat eop
  refine decodeWords_plain hop rfl ((decodeRaw_control hop (by omega)).trans ?_) hwf
  change (if fld (wordOf (.ballot c d a)) 0 7 == 0x0#7 then some (Instr.ballot (ctl (wordOf (.ballot c d a))) (fld (wordOf (.ballot c d a)) 14 7) (fld (wordOf (.ballot c d a)) 7 7)) else none) = _
  rw [ctl_eq (c := c) ek eg]
  simp [e0, e1, e2]
theorem matchLanes (c : Ctl) (d : BitVec 7) (a : BitVec 7) : Statement (.matchLanes c d a) := by
  intro _ hwf
  obtain ⟨ek, eg, eop, e0, e1, e2⟩ := shape_7_7_7 (w := wordOf (.matchLanes c d a)) (BitVec.ofBool c.k) c.g 0xa7#8 d a 0x0#7 rfl
  have hop : (fld (wordOf (.matchLanes c d a)) 21 8).toNat = 167 := congrArg BitVec.toNat eop
  refine decodeWords_plain hop rfl ((decodeRaw_control hop (by omega)).trans ?_) hwf
  change (if fld (wordOf (.matchLanes c d a)) 0 7 == 0x0#7 then some (Instr.matchLanes (ctl (wordOf (.matchLanes c d a))) (fld (wordOf (.matchLanes c d a)) 14 7) (fld (wordOf (.matchLanes c d a)) 7 7)) else none) = _
  rw [ctl_eq (c := c) ek eg]
  simp [e0, e1, e2]
theorem redux (c : Ctl) (d : BitVec 7) (a : BitVec 7) (op : BitVec 7) : Statement (.redux c d a op) := by
  intro _ hwf
  obtain ⟨ek, eg, eop, e0, e1, e2⟩ := shape_7_7_7 (w := wordOf (.redux c d a op)) (BitVec.ofBool c.k) c.g 0xa8#8 d a op rfl
  have hop : (fld (wordOf (.redux c d a op)) 21 8).toNat = 168 := congrArg BitVec.toNat eop
  refine decodeWords_plain hop rfl ((decodeRaw_control hop (by omega)).trans ?_) hwf
  change (some (Instr.redux (ctl (wordOf (.redux c d a op))) (fld (wordOf (.redux c d a op)) 14 7) (fld (wordOf (.redux c d a op)) 7 7) (fld (wordOf (.redux c d a op)) 0 7))) = _
  rw [ctl_eq (c := c) ek eg]
  rw [e0, e1, e2]
theorem scan (c : Ctl) (d : BitVec 7) (a : BitVec 7) (op : BitVec 7) : Statement (.scan c d a op) := by
  intro _ hwf
  obtain ⟨ek, eg, eop, e0, e1, e2⟩ := shape_7_7_7 (w := wordOf (.scan c d a op)) (BitVec.ofBool c.k) c.g 0xa9#8 d a op rfl
  have hop : (fld (wordOf (.scan c d a op)) 21 8).toNat = 169 := congrArg BitVec.toNat eop
  refine decodeWords_plain hop rfl ((decodeRaw_control hop (by omega)).trans ?_) hwf
  change (some (Instr.scan (ctl (wordOf (.scan c d a op))) (fld (wordOf (.scan c d a op)) 14 7) (fld (wordOf (.scan c d a op)) 7 7) (fld (wordOf (.scan c d a op)) 0 7))) = _
  rw [ctl_eq (c := c) ek eg]
  rw [e0, e1, e2]
theorem wid (c : Ctl) (d : BitVec 7) : Statement (.wid c d) := by
  intro _ hwf
  obtain ⟨ek, eg, eop, e0, e1⟩ := shape_7_14 (w := wordOf (.wid c d)) (BitVec.ofBool c.k) c.g 0xaa#8 d 0x0#14 rfl
  have hop : (fld (wordOf (.wid c d)) 21 8).toNat = 170 := congrArg BitVec.toNat eop
  refine decodeWords_plain hop rfl ((decodeRaw_control hop (by omega)).trans ?_) hwf
  change (if fld (wordOf (.wid c d)) 0 14 == 0x0#14 then some (Instr.wid (ctl (wordOf (.wid c d))) (fld (wordOf (.wid c d)) 14 7)) else none) = _
  rw [ctl_eq (c := c) ek eg]
  simp [e0, e1]
theorem elect (c : Ctl) (d : BitVec 7) : Statement (.elect c d) := by
  intro _ hwf
  obtain ⟨ek, eg, eop, e0, e1⟩ := shape_7_14 (w := wordOf (.elect c d)) (BitVec.ofBool c.k) c.g 0xab#8 d 0x0#14 rfl
  have hop : (fld (wordOf (.elect c d)) 21 8).toNat = 171 := congrArg BitVec.toNat eop
  refine decodeWords_plain hop rfl ((decodeRaw_control hop (by omega)).trans ?_) hwf
  change (if fld (wordOf (.elect c d)) 0 14 == 0x0#14 then some (Instr.elect (ctl (wordOf (.elect c d))) (fld (wordOf (.elect c d)) 14 7)) else none) = _
  rw [ctl_eq (c := c) ek eg]
  simp [e0, e1]
theorem bra (c : Ctl) (off : BitVec 21) : Statement (.bra c off) := by
  intro _ hwf
  obtain ⟨ek, eg, eop, e0⟩ := shape_21 (w := wordOf (.bra c off)) (BitVec.ofBool c.k) c.g 0xac#8 off rfl
  have hop : (fld (wordOf (.bra c off)) 21 8).toNat = 172 := congrArg BitVec.toNat eop
  refine decodeWords_plain hop rfl ((decodeRaw_control hop (by omega)).trans ?_) hwf
  change (some (Instr.bra (ctl (wordOf (.bra c off))) (fld (wordOf (.bra c off)) 0 21))) = _
  rw [ctl_eq (c := c) ek eg]
  rw [e0]
theorem call (c : Ctl) (off : BitVec 21) : Statement (.call c off) := by
  intro _ hwf
  obtain ⟨ek, eg, eop, e0⟩ := shape_21 (w := wordOf (.call c off)) (BitVec.ofBool c.k) c.g 0xad#8 off rfl
  have hop : (fld (wordOf (.call c off)) 21 8).toNat = 173 := congrArg BitVec.toNat eop
  refine decodeWords_plain hop rfl ((decodeRaw_control hop (by omega)).trans ?_) hwf
  change (some (Instr.call (ctl (wordOf (.call c off))) (fld (wordOf (.call c off)) 0 21))) = _
  rw [ctl_eq (c := c) ek eg]
  rw [e0]
theorem ret (c : Ctl) : Statement (.ret c) := by
  intro _ hwf
  obtain ⟨ek, eg, eop, e0⟩ := shape_21 (w := wordOf (.ret c)) (BitVec.ofBool c.k) c.g 0xae#8 0x0#21 rfl
  have hop : (fld (wordOf (.ret c)) 21 8).toNat = 174 := congrArg BitVec.toNat eop
  refine decodeWords_plain hop rfl ((decodeRaw_control hop (by omega)).trans ?_) hwf
  change (if fld (wordOf (.ret c)) 0 21 == 0x0#21 then some (Instr.ret (ctl (wordOf (.ret c)))) else none) = _
  rw [ctl_eq (c := c) ek eg]
  simp [e0]
theorem jmpi (c : Ctl) (a : BitVec 7) : Statement (.jmpi c a) := by
  intro _ hwf
  obtain ⟨ek, eg, eop, e0, e1, e2⟩ := shape_7_7_7 (w := wordOf (.jmpi c a)) (BitVec.ofBool c.k) c.g 0xaf#8 0x0#7 a 0x0#7 rfl
  have hop : (fld (wordOf (.jmpi c a)) 21 8).toNat = 175 := congrArg BitVec.toNat eop
  refine decodeWords_plain hop rfl ((decodeRaw_control hop (by omega)).trans ?_) hwf
  change (if fld (wordOf (.jmpi c a)) 14 7 == 0x0#7 && fld (wordOf (.jmpi c a)) 0 7 == 0x0#7 then some (Instr.jmpi (ctl (wordOf (.jmpi c a))) (fld (wordOf (.jmpi c a)) 7 7)) else none) = _
  rw [ctl_eq (c := c) ek eg]
  simp [e0, e1, e2]
theorem fork (k : Bool) (off : BitVec 21) : Statement (.fork k off) := by
  intro _ hwf
  obtain ⟨ek, eg, eop, e0⟩ := shape_21 (w := wordOf (.fork k off)) (BitVec.ofBool k) 0x0#2 0xb0#8 off rfl
  have hop : (fld (wordOf (.fork k off)) 21 8).toNat = 176 := congrArg BitVec.toNat eop
  refine decodeWords_plain hop rfl ((decodeRaw_control hop (by omega)).trans ?_) hwf
  change (if fld (wordOf (.fork k off)) 29 2 == 0#2 then some (Instr.fork ((wordOf (.fork k off)).getLsbD 31) (fld (wordOf (.fork k off)) 0 21)) else none) = _
  rw [bit31_eq (k := k) ek]
  simp [eg, e0]
theorem join (k : Bool) : Statement (.join k) := by
  intro _ hwf
  obtain ⟨ek, eg, eop, e0⟩ := shape_21 (w := wordOf (.join k)) (BitVec.ofBool k) 0x0#2 0xb1#8 0x0#21 rfl
  have hop : (fld (wordOf (.join k)) 21 8).toNat = 177 := congrArg BitVec.toNat eop
  refine decodeWords_plain hop rfl ((decodeRaw_control hop (by omega)).trans ?_) hwf
  change (if fld (wordOf (.join k)) 29 2 == 0#2 && fld (wordOf (.join k)) 0 21 == 0x0#21 then some (Instr.join ((wordOf (.join k)).getLsbD 31)) else none) = _
  rw [bit31_eq (k := k) ek]
  simp [eg, e0]
theorem exit (c : Ctl) : Statement (.exit c) := by
  intro _ hwf
  obtain ⟨ek, eg, eop, e0⟩ := shape_21 (w := wordOf (.exit c)) (BitVec.ofBool c.k) c.g 0xb2#8 0x0#21 rfl
  have hop : (fld (wordOf (.exit c)) 21 8).toNat = 178 := congrArg BitVec.toNat eop
  refine decodeWords_plain hop rfl ((decodeRaw_control hop (by omega)).trans ?_) hwf
  change (if fld (wordOf (.exit c)) 0 21 == 0x0#21 then some (Instr.exit (ctl (wordOf (.exit c)))) else none) = _
  rw [ctl_eq (c := c) ek eg]
  simp [e0]
theorem idem (k : Bool) : Statement (.idem k) := by
  intro _ hwf
  obtain ⟨ek, eg, eop, e0⟩ := shape_21 (w := wordOf (.idem k)) (BitVec.ofBool k) 0x0#2 0xb3#8 0x0#21 rfl
  have hop : (fld (wordOf (.idem k)) 21 8).toNat = 179 := congrArg BitVec.toNat eop
  refine decodeWords_plain hop rfl ((decodeRaw_control hop (by omega)).trans ?_) hwf
  change (if fld (wordOf (.idem k)) 29 2 == 0#2 && fld (wordOf (.idem k)) 0 21 == 0x0#21 then some (Instr.idem ((wordOf (.idem k)).getLsbD 31)) else none) = _
  rw [bit31_eq (k := k) ek]
  simp [eg, e0]
theorem trap (c : Ctl) (n : BitVec 14) : Statement (.trap c n) := by
  intro _ hwf
  obtain ⟨ek, eg, eop, e0, e1⟩ := shape_7_14 (w := wordOf (.trap c n)) (BitVec.ofBool c.k) c.g 0xb4#8 0x0#7 n rfl
  have hop : (fld (wordOf (.trap c n)) 21 8).toNat = 180 := congrArg BitVec.toNat eop
  refine decodeWords_plain hop rfl ((decodeRaw_control hop (by omega)).trans ?_) hwf
  change (if fld (wordOf (.trap c n)) 14 7 == 0x0#7 then some (Instr.trap (ctl (wordOf (.trap c n))) (fld (wordOf (.trap c n)) 0 14)) else none) = _
  rw [ctl_eq (c := c) ek eg]
  simp [e0, e1]
theorem brk (c : Ctl) (n : BitVec 14) : Statement (.brk c n) := by
  intro _ hwf
  obtain ⟨ek, eg, eop, e0, e1⟩ := shape_7_14 (w := wordOf (.brk c n)) (BitVec.ofBool c.k) c.g 0xb5#8 0x0#7 n rfl
  have hop : (fld (wordOf (.brk c n)) 21 8).toNat = 181 := congrArg BitVec.toNat eop
  refine decodeWords_plain hop rfl ((decodeRaw_control hop (by omega)).trans ?_) hwf
  change (if fld (wordOf (.brk c n)) 14 7 == 0x0#7 then some (Instr.brk (ctl (wordOf (.brk c n))) (fld (wordOf (.brk c n)) 0 14)) else none) = _
  rw [ctl_eq (c := c) ek eg]
  simp [e0, e1]
theorem barArrive (k : Bool) (pd : BitVec 7) (bar : BitVec 5) : Statement (.barArrive k pd bar) := by
  intro _ hwf
  obtain ⟨ek, eg, eop, e0, e1, e2, e3⟩ := shape_7_7_5_2 (w := wordOf (.barArrive k pd bar)) (BitVec.ofBool k) 0x0#2 0xb6#8 pd 0x0#7 bar 0x0#2 rfl
  have hop : (fld (wordOf (.barArrive k pd bar)) 21 8).toNat = 182 := congrArg BitVec.toNat eop
  refine decodeWords_plain hop rfl ((decodeRaw_control hop (by omega)).trans ?_) hwf
  change (if fld (wordOf (.barArrive k pd bar)) 29 2 == 0#2 && fld (wordOf (.barArrive k pd bar)) 7 7 == 0x0#7 && fld (wordOf (.barArrive k pd bar)) 0 2 == 0x0#2 then some (Instr.barArrive ((wordOf (.barArrive k pd bar)).getLsbD 31) (fld (wordOf (.barArrive k pd bar)) 14 7) (fld (wordOf (.barArrive k pd bar)) 2 5)) else none) = _
  rw [bit31_eq (k := k) ek]
  simp [eg, e0, e1, e2, e3]
theorem barWait (k : Bool) (pa : BitVec 7) (bar : BitVec 5) : Statement (.barWait k pa bar) := by
  intro _ hwf
  obtain ⟨ek, eg, eop, e0, e1, e2, e3⟩ := shape_7_7_5_2 (w := wordOf (.barWait k pa bar)) (BitVec.ofBool k) 0x0#2 0xb7#8 0x0#7 pa bar 0x0#2 rfl
  have hop : (fld (wordOf (.barWait k pa bar)) 21 8).toNat = 183 := congrArg BitVec.toNat eop
  refine decodeWords_plain hop rfl ((decodeRaw_control hop (by omega)).trans ?_) hwf
  change (if fld (wordOf (.barWait k pa bar)) 29 2 == 0#2 && fld (wordOf (.barWait k pa bar)) 14 7 == 0x0#7 && fld (wordOf (.barWait k pa bar)) 0 2 == 0x0#2 then some (Instr.barWait ((wordOf (.barWait k pa bar)).getLsbD 31) (fld (wordOf (.barWait k pa bar)) 7 7) (fld (wordOf (.barWait k pa bar)) 2 5)) else none) = _
  rw [bit31_eq (k := k) ek]
  simp [eg, e0, e1, e2, e3]
theorem barSync (k : Bool) (bar : BitVec 5) : Statement (.barSync k bar) := by
  intro _ hwf
  obtain ⟨ek, eg, eop, e0, e1, e2⟩ := shape_14_5_2 (w := wordOf (.barSync k bar)) (BitVec.ofBool k) 0x0#2 0xb8#8 0x0#14 bar 0x0#2 rfl
  have hop : (fld (wordOf (.barSync k bar)) 21 8).toNat = 184 := congrArg BitVec.toNat eop
  refine decodeWords_plain hop rfl ((decodeRaw_control hop (by omega)).trans ?_) hwf
  change (if fld (wordOf (.barSync k bar)) 29 2 == 0#2 && fld (wordOf (.barSync k bar)) 7 14 == 0x0#14 && fld (wordOf (.barSync k bar)) 0 2 == 0x0#2 then some (Instr.barSync ((wordOf (.barSync k bar)).getLsbD 31) (fld (wordOf (.barSync k bar)) 2 5)) else none) = _
  rw [bit31_eq (k := k) ek]
  simp [eg, e0, e1, e2]
theorem barDrop (k : Bool) (pd : BitVec 7) (bar : BitVec 5) : Statement (.barDrop k pd bar) := by
  intro _ hwf
  obtain ⟨ek, eg, eop, e0, e1, e2, e3⟩ := shape_7_7_5_2 (w := wordOf (.barDrop k pd bar)) (BitVec.ofBool k) 0x0#2 0xb9#8 pd 0x0#7 bar 0x0#2 rfl
  have hop : (fld (wordOf (.barDrop k pd bar)) 21 8).toNat = 185 := congrArg BitVec.toNat eop
  refine decodeWords_plain hop rfl ((decodeRaw_control hop (by omega)).trans ?_) hwf
  change (if fld (wordOf (.barDrop k pd bar)) 29 2 == 0#2 && fld (wordOf (.barDrop k pd bar)) 7 7 == 0x0#7 && fld (wordOf (.barDrop k pd bar)) 0 2 == 0x0#2 then some (Instr.barDrop ((wordOf (.barDrop k pd bar)).getLsbD 31) (fld (wordOf (.barDrop k pd bar)) 14 7) (fld (wordOf (.barDrop k pd bar)) 2 5)) else none) = _
  rw [bit31_eq (k := k) ek]
  simp [eg, e0, e1, e2, e3]
theorem barExpect (k : Bool) (sb : BitVec 7) (bar : BitVec 5) : Statement (.barExpect k sb bar) := by
  intro _ hwf
  obtain ⟨ek, eg, eop, e0, e1, e2, e3⟩ := shape_7_7_5_2 (w := wordOf (.barExpect k sb bar)) (BitVec.ofBool k) 0x0#2 0xba#8 0x0#7 sb bar 0x0#2 rfl
  have hop : (fld (wordOf (.barExpect k sb bar)) 21 8).toNat = 186 := congrArg BitVec.toNat eop
  refine decodeWords_plain hop rfl ((decodeRaw_control hop (by omega)).trans ?_) hwf
  change (if fld (wordOf (.barExpect k sb bar)) 29 2 == 0#2 && fld (wordOf (.barExpect k sb bar)) 14 7 == 0x0#7 && fld (wordOf (.barExpect k sb bar)) 0 2 == 0x0#2 then some (Instr.barExpect ((wordOf (.barExpect k sb bar)).getLsbD 31) (fld (wordOf (.barExpect k sb bar)) 7 7) (fld (wordOf (.barExpect k sb bar)) 2 5)) else none) = _
  rw [bit31_eq (k := k) ek]
  simp [eg, e0, e1, e2, e3]
theorem barTry (k : Bool) (pd : BitVec 7) (pa : BitVec 7) (bar : BitVec 5) (sb : BitVec 2) : Statement (.barTry k pd pa bar sb) := by
  intro _ hwf
  obtain ⟨ek, eg, eop, e0, e1, e2, e3⟩ := shape_7_7_5_2 (w := wordOf (.barTry k pd pa bar sb)) (BitVec.ofBool k) 0x0#2 0xbb#8 pd pa bar sb rfl
  have hop : (fld (wordOf (.barTry k pd pa bar sb)) 21 8).toNat = 187 := congrArg BitVec.toNat eop
  refine decodeWords_plain hop rfl ((decodeRaw_control hop (by omega)).trans ?_) hwf
  change (if fld (wordOf (.barTry k pd pa bar sb)) 29 2 == 0#2 then some (Instr.barTry ((wordOf (.barTry k pd pa bar sb)).getLsbD 31) (fld (wordOf (.barTry k pd pa bar sb)) 14 7) (fld (wordOf (.barTry k pd pa bar sb)) 7 7) (fld (wordOf (.barTry k pd pa bar sb)) 2 5) (fld (wordOf (.barTry k pd pa bar sb)) 0 2)) else none) = _
  rw [bit31_eq (k := k) ek]
  simp [eg, e0, e1, e2, e3]
theorem wait (k : Bool) (ac : BitVec 4) (lim : BitVec 8) : Statement (.wait k ac lim) := by
  intro _ hwf
  obtain ⟨ek, eg, eop, e0, e1, e2⟩ := shape_9_4_8 (w := wordOf (.wait k ac lim)) (BitVec.ofBool k) 0x0#2 0xbc#8 0x0#9 ac lim rfl
  have hop : (fld (wordOf (.wait k ac lim)) 21 8).toNat = 188 := congrArg BitVec.toNat eop
  refine decodeWords_plain hop rfl ((decodeRaw_control hop (by omega)).trans ?_) hwf
  change (if fld (wordOf (.wait k ac lim)) 29 2 == 0#2 && fld (wordOf (.wait k ac lim)) 12 9 == 0x0#9 then some (Instr.wait ((wordOf (.wait k ac lim)).getLsbD 31) (fld (wordOf (.wait k ac lim)) 8 4) (fld (wordOf (.wait k ac lim)) 0 8)) else none) = _
  rw [bit31_eq (k := k) ek]
  simp [eg, e0, e1, e2]
theorem fence (c : Ctl) (sc : BitVec 3) : Statement (.fence c sc) := by
  intro _ hwf
  obtain ⟨ek, eg, eop, e0, e1⟩ := shape_18_3 (w := wordOf (.fence c sc)) (BitVec.ofBool c.k) c.g 0xbd#8 0x0#18 sc rfl
  have hop : (fld (wordOf (.fence c sc)) 21 8).toNat = 189 := congrArg BitVec.toNat eop
  refine decodeWords_plain hop rfl ((decodeRaw_control hop (by omega)).trans ?_) hwf
  change (if fld (wordOf (.fence c sc)) 3 18 == 0x0#18 then some (Instr.fence (ctl (wordOf (.fence c sc))) (fld (wordOf (.fence c sc)) 0 3)) else none) = _
  rw [ctl_eq (c := c) ek eg]
  simp [e0, e1]
theorem yield (c : Ctl) : Statement (.yield c) := by
  intro _ hwf
  obtain ⟨ek, eg, eop, e0⟩ := shape_21 (w := wordOf (.yield c)) (BitVec.ofBool c.k) c.g 0xbe#8 0x0#21 rfl
  have hop : (fld (wordOf (.yield c)) 21 8).toNat = 190 := congrArg BitVec.toNat eop
  refine decodeWords_plain hop rfl ((decodeRaw_control hop (by omega)).trans ?_) hwf
  change (if fld (wordOf (.yield c)) 0 21 == 0x0#21 then some (Instr.yield (ctl (wordOf (.yield c)))) else none) = _
  rw [ctl_eq (c := c) ek eg]
  simp [e0]
theorem ldp (c : Ctl) (d : BitVec 7) (a : BitVec 7) (w : BitVec 3) (off : BitVec 4) : Statement (.ldp c d a w off) := by
  intro _ hwf
  obtain ⟨ek, eg, eop, e0, e1, e2, e3⟩ := shape_7_7_3_4 (w := wordOf (.ldp c d a w off)) (BitVec.ofBool c.k) c.g 0xc0#8 d a w off rfl
  have hop : (fld (wordOf (.ldp c d a w off)) 21 8).toNat = 192 := congrArg BitVec.toNat eop
  refine decodeWords_plain hop rfl ((decodeRaw_memory hop (by omega)).trans ?_) hwf
  change (some (Instr.ldp (ctl (wordOf (.ldp c d a w off))) (fld (wordOf (.ldp c d a w off)) 14 7) (fld (wordOf (.ldp c d a w off)) 7 7) (fld (wordOf (.ldp c d a w off)) 4 3) (fld (wordOf (.ldp c d a w off)) 0 4))) = _
  rw [ctl_eq (c := c) ek eg]
  rw [e0, e1, e2, e3]
theorem stp (c : Ctl) (d : BitVec 7) (a : BitVec 7) (w : BitVec 3) (off : BitVec 4) : Statement (.stp c d a w off) := by
  intro _ hwf
  obtain ⟨ek, eg, eop, e0, e1, e2, e3⟩ := shape_7_7_3_4 (w := wordOf (.stp c d a w off)) (BitVec.ofBool c.k) c.g 0xc1#8 d a w off rfl
  have hop : (fld (wordOf (.stp c d a w off)) 21 8).toNat = 193 := congrArg BitVec.toNat eop
  refine decodeWords_plain hop rfl ((decodeRaw_memory hop (by omega)).trans ?_) hwf
  change (some (Instr.stp (ctl (wordOf (.stp c d a w off))) (fld (wordOf (.stp c d a w off)) 14 7) (fld (wordOf (.stp c d a w off)) 7 7) (fld (wordOf (.stp c d a w off)) 4 3) (fld (wordOf (.stp c d a w off)) 0 4))) = _
  rw [ctl_eq (c := c) ek eg]
  rw [e0, e1, e2, e3]
theorem lds (c : Ctl) (d : BitVec 7) (a : BitVec 7) (w : BitVec 3) (off : BitVec 4) : Statement (.lds c d a w off) := by
  intro _ hwf
  obtain ⟨ek, eg, eop, e0, e1, e2, e3⟩ := shape_7_7_3_4 (w := wordOf (.lds c d a w off)) (BitVec.ofBool c.k) c.g 0xc2#8 d a w off rfl
  have hop : (fld (wordOf (.lds c d a w off)) 21 8).toNat = 194 := congrArg BitVec.toNat eop
  refine decodeWords_plain hop rfl ((decodeRaw_memory hop (by omega)).trans ?_) hwf
  change (some (Instr.lds (ctl (wordOf (.lds c d a w off))) (fld (wordOf (.lds c d a w off)) 14 7) (fld (wordOf (.lds c d a w off)) 7 7) (fld (wordOf (.lds c d a w off)) 4 3) (fld (wordOf (.lds c d a w off)) 0 4))) = _
  rw [ctl_eq (c := c) ek eg]
  rw [e0, e1, e2, e3]
theorem sts (c : Ctl) (d : BitVec 7) (a : BitVec 7) (w : BitVec 3) (off : BitVec 4) : Statement (.sts c d a w off) := by
  intro _ hwf
  obtain ⟨ek, eg, eop, e0, e1, e2, e3⟩ := shape_7_7_3_4 (w := wordOf (.sts c d a w off)) (BitVec.ofBool c.k) c.g 0xc3#8 d a w off rfl
  have hop : (fld (wordOf (.sts c d a w off)) 21 8).toNat = 195 := congrArg BitVec.toNat eop
  refine decodeWords_plain hop rfl ((decodeRaw_memory hop (by omega)).trans ?_) hwf
  change (some (Instr.sts (ctl (wordOf (.sts c d a w off))) (fld (wordOf (.sts c d a w off)) 14 7) (fld (wordOf (.sts c d a w off)) 7 7) (fld (wordOf (.sts c d a w off)) 4 3) (fld (wordOf (.sts c d a w off)) 0 4))) = _
  rw [ctl_eq (c := c) ek eg]
  rw [e0, e1, e2, e3]
theorem ldc (c : Ctl) (d : BitVec 7) (a : BitVec 7) (w : BitVec 3) (off : BitVec 4) : Statement (.ldc c d a w off) := by
  intro _ hwf
  obtain ⟨ek, eg, eop, e0, e1, e2, e3⟩ := shape_7_7_3_4 (w := wordOf (.ldc c d a w off)) (BitVec.ofBool c.k) c.g 0xc4#8 d a w off rfl
  have hop : (fld (wordOf (.ldc c d a w off)) 21 8).toNat = 196 := congrArg BitVec.toNat eop
  refine decodeWords_plain hop rfl ((decodeRaw_memory hop (by omega)).trans ?_) hwf
  change (some (Instr.ldc (ctl (wordOf (.ldc c d a w off))) (fld (wordOf (.ldc c d a w off)) 14 7) (fld (wordOf (.ldc c d a w off)) 7 7) (fld (wordOf (.ldc c d a w off)) 4 3) (fld (wordOf (.ldc c d a w off)) 0 4))) = _
  rw [ctl_eq (c := c) ek eg]
  rw [e0, e1, e2, e3]
theorem stc (c : Ctl) (d : BitVec 7) (a : BitVec 7) (w : BitVec 3) (off : BitVec 4) : Statement (.stc c d a w off) := by
  intro _ hwf
  obtain ⟨ek, eg, eop, e0, e1, e2, e3⟩ := shape_7_7_3_4 (w := wordOf (.stc c d a w off)) (BitVec.ofBool c.k) c.g 0xc5#8 d a w off rfl
  have hop : (fld (wordOf (.stc c d a w off)) 21 8).toNat = 197 := congrArg BitVec.toNat eop
  refine decodeWords_plain hop rfl ((decodeRaw_memory hop (by omega)).trans ?_) hwf
  change (some (Instr.stc (ctl (wordOf (.stc c d a w off))) (fld (wordOf (.stc c d a w off)) 14 7) (fld (wordOf (.stc c d a w off)) 7 7) (fld (wordOf (.stc c d a w off)) 4 3) (fld (wordOf (.stc c d a w off)) 0 4))) = _
  rw [ctl_eq (c := c) ek eg]
  rw [e0, e1, e2, e3]
theorem ldg (c : Ctl) (d : BitVec 7) (p : BitVec 6) (off : BitVec 4) (ac : BitVec 2) (sz : BitVec 2) : Statement (.ldg c d p off ac sz) := by
  intro _ hwf
  obtain ⟨ek, eg, eop, e0, e1, e2, e3, e4⟩ := shape_7_6_4_2_2 (w := wordOf (.ldg c d p off ac sz)) (BitVec.ofBool c.k) c.g 0xc6#8 d p off ac sz rfl
  have hop : (fld (wordOf (.ldg c d p off ac sz)) 21 8).toNat = 198 := congrArg BitVec.toNat eop
  refine decodeWords_plain hop rfl ((decodeRaw_memory hop (by omega)).trans ?_) hwf
  change (some (Instr.ldg (ctl (wordOf (.ldg c d p off ac sz))) (fld (wordOf (.ldg c d p off ac sz)) 14 7) (fld (wordOf (.ldg c d p off ac sz)) 8 6) (fld (wordOf (.ldg c d p off ac sz)) 4 4) (fld (wordOf (.ldg c d p off ac sz)) 2 2) (fld (wordOf (.ldg c d p off ac sz)) 0 2))) = _
  rw [ctl_eq (c := c) ek eg]
  rw [e0, e1, e2, e3, e4]
theorem stg (c : Ctl) (d : BitVec 7) (p : BitVec 6) (off : BitVec 4) (ac : BitVec 2) (sz : BitVec 2) : Statement (.stg c d p off ac sz) := by
  intro _ hwf
  obtain ⟨ek, eg, eop, e0, e1, e2, e3, e4⟩ := shape_7_6_4_2_2 (w := wordOf (.stg c d p off ac sz)) (BitVec.ofBool c.k) c.g 0xc7#8 d p off ac sz rfl
  have hop : (fld (wordOf (.stg c d p off ac sz)) 21 8).toNat = 199 := congrArg BitVec.toNat eop
  refine decodeWords_plain hop rfl ((decodeRaw_memory hop (by omega)).trans ?_) hwf
  change (some (Instr.stg (ctl (wordOf (.stg c d p off ac sz))) (fld (wordOf (.stg c d p off ac sz)) 14 7) (fld (wordOf (.stg c d p off ac sz)) 8 6) (fld (wordOf (.stg c d p off ac sz)) 4 4) (fld (wordOf (.stg c d p off ac sz)) 2 2) (fld (wordOf (.stg c d p off ac sz)) 0 2))) = _
  rw [ctl_eq (c := c) ek eg]
  rw [e0, e1, e2, e3, e4]
theorem ldgAcq (c : Ctl) (d : BitVec 7) (p : BitVec 6) (sc : BitVec 3) (sz : BitVec 2) (ac : BitVec 2) : Statement (.ldgAcq c d p sc sz ac) := by
  intro _ hwf
  obtain ⟨ek, eg, eop, e0, e1, e2, e3, e4, e5⟩ := shape_7_6_3_2_1_2 (w := wordOf (.ldgAcq c d p sc sz ac)) (BitVec.ofBool c.k) c.g 0xc8#8 d p sc sz 0x0#1 ac rfl
  have hop : (fld (wordOf (.ldgAcq c d p sc sz ac)) 21 8).toNat = 200 := congrArg BitVec.toNat eop
  refine decodeWords_plain hop rfl ((decodeRaw_memory hop (by omega)).trans ?_) hwf
  change (if fld (wordOf (.ldgAcq c d p sc sz ac)) 2 1 == 0x0#1 then some (Instr.ldgAcq (ctl (wordOf (.ldgAcq c d p sc sz ac))) (fld (wordOf (.ldgAcq c d p sc sz ac)) 14 7) (fld (wordOf (.ldgAcq c d p sc sz ac)) 8 6) (fld (wordOf (.ldgAcq c d p sc sz ac)) 5 3) (fld (wordOf (.ldgAcq c d p sc sz ac)) 3 2) (fld (wordOf (.ldgAcq c d p sc sz ac)) 0 2)) else none) = _
  rw [ctl_eq (c := c) ek eg]
  simp [e0, e1, e2, e3, e4, e5]
theorem stgRel (c : Ctl) (d : BitVec 7) (p : BitVec 6) (sc : BitVec 3) (sz : BitVec 2) (ac : BitVec 2) : Statement (.stgRel c d p sc sz ac) := by
  intro _ hwf
  obtain ⟨ek, eg, eop, e0, e1, e2, e3, e4, e5⟩ := shape_7_6_3_2_1_2 (w := wordOf (.stgRel c d p sc sz ac)) (BitVec.ofBool c.k) c.g 0xc9#8 d p sc sz 0x0#1 ac rfl
  have hop : (fld (wordOf (.stgRel c d p sc sz ac)) 21 8).toNat = 201 := congrArg BitVec.toNat eop
  refine decodeWords_plain hop rfl ((decodeRaw_memory hop (by omega)).trans ?_) hwf
  change (if fld (wordOf (.stgRel c d p sc sz ac)) 2 1 == 0x0#1 then some (Instr.stgRel (ctl (wordOf (.stgRel c d p sc sz ac))) (fld (wordOf (.stgRel c d p sc sz ac)) 14 7) (fld (wordOf (.stgRel c d p sc sz ac)) 8 6) (fld (wordOf (.stgRel c d p sc sz ac)) 5 3) (fld (wordOf (.stgRel c d p sc sz ac)) 3 2) (fld (wordOf (.stgRel c d p sc sz ac)) 0 2)) else none) = _
  rw [ctl_eq (c := c) ek eg]
  simp [e0, e1, e2, e3, e4, e5]
theorem ldk (c : Ctl) (d : BitVec 7) (a : BitVec 7) (w : BitVec 3) (off : BitVec 4) : Statement (.ldk c d a w off) := by
  intro _ hwf
  obtain ⟨ek, eg, eop, e0, e1, e2, e3⟩ := shape_7_7_3_4 (w := wordOf (.ldk c d a w off)) (BitVec.ofBool c.k) c.g 0xca#8 d a w off rfl
  have hop : (fld (wordOf (.ldk c d a w off)) 21 8).toNat = 202 := congrArg BitVec.toNat eop
  refine decodeWords_plain hop rfl ((decodeRaw_memory hop (by omega)).trans ?_) hwf
  change (some (Instr.ldk (ctl (wordOf (.ldk c d a w off))) (fld (wordOf (.ldk c d a w off)) 14 7) (fld (wordOf (.ldk c d a w off)) 7 7) (fld (wordOf (.ldk c d a w off)) 4 3) (fld (wordOf (.ldk c d a w off)) 0 4))) = _
  rw [ctl_eq (c := c) ek eg]
  rw [e0, e1, e2, e3]
theorem ldo (c : Ctl) (d : BitVec 7) (a : BitVec 7) (ac : BitVec 4) : Statement (.ldo c d a ac) := by
  intro _ hwf
  obtain ⟨ek, eg, eop, e0, e1, e2, e3⟩ := shape_7_7_4_3 (w := wordOf (.ldo c d a ac)) (BitVec.ofBool c.k) c.g 0xcb#8 d a ac 0x0#3 rfl
  have hop : (fld (wordOf (.ldo c d a ac)) 21 8).toNat = 203 := congrArg BitVec.toNat eop
  refine decodeWords_plain hop rfl ((decodeRaw_memory hop (by omega)).trans ?_) hwf
  change (if fld (wordOf (.ldo c d a ac)) 0 3 == 0x0#3 then some (Instr.ldo (ctl (wordOf (.ldo c d a ac))) (fld (wordOf (.ldo c d a ac)) 14 7) (fld (wordOf (.ldo c d a ac)) 7 7) (fld (wordOf (.ldo c d a ac)) 3 4)) else none) = _
  rw [ctl_eq (c := c) ek eg]
  simp [e0, e1, e2, e3]
theorem odrop (c : Ctl) (a : BitVec 7) : Statement (.odrop c a) := by
  intro _ hwf
  obtain ⟨ek, eg, eop, e0, e1, e2⟩ := shape_7_7_7 (w := wordOf (.odrop c a)) (BitVec.ofBool c.k) c.g 0xcc#8 0x0#7 a 0x0#7 rfl
  have hop : (fld (wordOf (.odrop c a)) 21 8).toNat = 204 := congrArg BitVec.toNat eop
  refine decodeWords_plain hop rfl ((decodeRaw_memory hop (by omega)).trans ?_) hwf
  change (if fld (wordOf (.odrop c a)) 14 7 == 0x0#7 && fld (wordOf (.odrop c a)) 0 7 == 0x0#7 then some (Instr.odrop (ctl (wordOf (.odrop c a))) (fld (wordOf (.odrop c a)) 7 7)) else none) = _
  rw [ctl_eq (c := c) ek eg]
  simp [e0, e1, e2]
theorem oreqRefine (c : Ctl) (d : BitVec 7) (a : BitVec 7) (ac : BitVec 4) : Statement (.oreqRefine c d a ac) := by
  intro _ hwf
  obtain ⟨ek, eg, eop, e0, e1, e2, e3⟩ := shape_7_7_4_3 (w := wordOf (.oreqRefine c d a ac)) (BitVec.ofBool c.k) c.g 0xcd#8 d a ac 0x0#3 rfl
  have hop : (fld (wordOf (.oreqRefine c d a ac)) 21 8).toNat = 205 := congrArg BitVec.toNat eop
  refine decodeWords_plain hop rfl ((decodeRaw_memory hop (by omega)).trans ?_) hwf
  change (if fld (wordOf (.oreqRefine c d a ac)) 0 3 == 0x0#3 then some (Instr.oreqRefine (ctl (wordOf (.oreqRefine c d a ac))) (fld (wordOf (.oreqRefine c d a ac)) 14 7) (fld (wordOf (.oreqRefine c d a ac)) 7 7) (fld (wordOf (.oreqRefine c d a ac)) 3 4)) else if fld (wordOf (.oreqRefine c d a ac)) 0 3 == 0x1#3 then some (Instr.oreqEvict (ctl (wordOf (.oreqRefine c d a ac))) (fld (wordOf (.oreqRefine c d a ac)) 14 7) (fld (wordOf (.oreqRefine c d a ac)) 7 7) (fld (wordOf (.oreqRefine c d a ac)) 3 4)) else none) = _
  rw [ctl_eq (c := c) ek eg]
  simp [e0, e1, e2, e3]
theorem oreqEvict (c : Ctl) (d : BitVec 7) (a : BitVec 7) (ac : BitVec 4) : Statement (.oreqEvict c d a ac) := by
  intro _ hwf
  obtain ⟨ek, eg, eop, e0, e1, e2, e3⟩ := shape_7_7_4_3 (w := wordOf (.oreqEvict c d a ac)) (BitVec.ofBool c.k) c.g 0xcd#8 d a ac 0x1#3 rfl
  have hop : (fld (wordOf (.oreqEvict c d a ac)) 21 8).toNat = 205 := congrArg BitVec.toNat eop
  refine decodeWords_plain hop rfl ((decodeRaw_memory hop (by omega)).trans ?_) hwf
  change (if fld (wordOf (.oreqEvict c d a ac)) 0 3 == 0x0#3 then some (Instr.oreqRefine (ctl (wordOf (.oreqEvict c d a ac))) (fld (wordOf (.oreqEvict c d a ac)) 14 7) (fld (wordOf (.oreqEvict c d a ac)) 7 7) (fld (wordOf (.oreqEvict c d a ac)) 3 4)) else if fld (wordOf (.oreqEvict c d a ac)) 0 3 == 0x1#3 then some (Instr.oreqEvict (ctl (wordOf (.oreqEvict c d a ac))) (fld (wordOf (.oreqEvict c d a ac)) 14 7) (fld (wordOf (.oreqEvict c d a ac)) 7 7) (fld (wordOf (.oreqEvict c d a ac)) 3 4)) else none) = _
  rw [ctl_eq (c := c) ek eg]
  simp [e0, e1, e2, e3]
theorem pfg (c : Ctl) (a : BitVec 7) : Statement (.pfg c a) := by
  intro _ hwf
  obtain ⟨ek, eg, eop, e0, e1, e2⟩ := shape_7_7_7 (w := wordOf (.pfg c a)) (BitVec.ofBool c.k) c.g 0xce#8 0x0#7 a 0x0#7 rfl
  have hop : (fld (wordOf (.pfg c a)) 21 8).toNat = 206 := congrArg BitVec.toNat eop
  refine decodeWords_plain hop rfl ((decodeRaw_memory hop (by omega)).trans ?_) hwf
  change (if fld (wordOf (.pfg c a)) 14 7 == 0x0#7 && fld (wordOf (.pfg c a)) 0 7 == 0x0#7 then some (Instr.pfg (ctl (wordOf (.pfg c a))) (fld (wordOf (.pfg c a)) 7 7)) else none) = _
  rw [ctl_eq (c := c) ek eg]
  simp [e0, e1, e2]
theorem atom (c : Ctl) (d : BitVec 7) (a : BitVec 7) (b : BitVec 7) (lit : Word) : Statement (.atom c d a b lit) := by
  intro _ hwf
  obtain ⟨ek, eg, eop, e0, e1, e2⟩ := shape_7_7_7 (w := wordOf (.atom c d a b lit)) (BitVec.ofBool c.k) c.g 0xcf#8 d a b rfl
  have hop : (fld (wordOf (.atom c d a b lit)) 21 8).toNat = 207 := congrArg BitVec.toNat eop
  refine decodeWords_lit hop rfl ((decodeRaw_memory hop (by omega)).trans ?_) hwf
  change (some (Instr.atom (ctl (wordOf (.atom c d a b lit))) (fld (wordOf (.atom c d a b lit)) 14 7) (fld (wordOf (.atom c d a b lit)) 7 7) (fld (wordOf (.atom c d a b lit)) 0 7) lit)) = _
  rw [ctl_eq (c := c) ek eg]
  rw [e0, e1, e2]
theorem acas (c : Ctl) (d : BitVec 7) (a : BitVec 7) (b : BitVec 7) (lit : Word) : Statement (.acas c d a b lit) := by
  intro _ hwf
  obtain ⟨ek, eg, eop, e0, e1, e2⟩ := shape_7_7_7 (w := wordOf (.acas c d a b lit)) (BitVec.ofBool c.k) c.g 0xd0#8 d a b rfl
  have hop : (fld (wordOf (.acas c d a b lit)) 21 8).toNat = 208 := congrArg BitVec.toNat eop
  refine decodeWords_lit hop rfl ((decodeRaw_memory hop (by omega)).trans ?_) hwf
  change (some (Instr.acas (ctl (wordOf (.acas c d a b lit))) (fld (wordOf (.acas c d a b lit)) 14 7) (fld (wordOf (.acas c d a b lit)) 7 7) (fld (wordOf (.acas c d a b lit)) 0 7) lit)) = _
  rw [ctl_eq (c := c) ek eg]
  rw [e0, e1, e2]
theorem red (c : Ctl) (a : BitVec 7) (b : BitVec 7) (lit : Word) : Statement (.red c a b lit) := by
  intro _ hwf
  obtain ⟨ek, eg, eop, e0, e1, e2⟩ := shape_7_7_7 (w := wordOf (.red c a b lit)) (BitVec.ofBool c.k) c.g 0xd1#8 0x0#7 a b rfl
  have hop : (fld (wordOf (.red c a b lit)) 21 8).toNat = 209 := congrArg BitVec.toNat eop
  refine decodeWords_lit hop rfl ((decodeRaw_memory hop (by omega)).trans ?_) hwf
  change (if fld (wordOf (.red c a b lit)) 14 7 == 0x0#7 then some (Instr.red (ctl (wordOf (.red c a b lit))) (fld (wordOf (.red c a b lit)) 7 7) (fld (wordOf (.red c a b lit)) 0 7) lit) else none) = _
  rw [ctl_eq (c := c) ek eg]
  simp [e0, e1, e2]
theorem tcopy (c : Ctl) (d : BitVec 7) (a : BitVec 7) (ac : BitVec 4) (rel : BitVec 1) (lit : Word) : Statement (.tcopy c d a ac rel lit) := by
  intro _ hwf
  obtain ⟨ek, eg, eop, e0, e1, e2, e3, e4⟩ := shape_7_7_4_2_1 (w := wordOf (.tcopy c d a ac rel lit)) (BitVec.ofBool c.k) c.g 0xe0#8 d a ac 0x0#2 rel rfl
  have hop : (fld (wordOf (.tcopy c d a ac rel lit)) 21 8).toNat = 224 := congrArg BitVec.toNat eop
  refine decodeWords_lit hop rfl ((decodeRaw_engine hop (by omega)).trans ?_) hwf
  change (if fld (wordOf (.tcopy c d a ac rel lit)) 1 2 == 0x0#2 then some (Instr.tcopy (ctl (wordOf (.tcopy c d a ac rel lit))) (fld (wordOf (.tcopy c d a ac rel lit)) 14 7) (fld (wordOf (.tcopy c d a ac rel lit)) 7 7) (fld (wordOf (.tcopy c d a ac rel lit)) 3 4) (fld (wordOf (.tcopy c d a ac rel lit)) 0 1) lit) else none) = _
  rw [ctl_eq (c := c) ek eg]
  simp [e0, e1, e2, e3, e4]
theorem tgath (c : Ctl) (d : BitVec 7) (a : BitVec 7) (ac : BitVec 4) (rel : BitVec 1) : Statement (.tgath c d a ac rel) := by
  intro _ hwf
  obtain ⟨ek, eg, eop, e0, e1, e2, e3, e4⟩ := shape_7_7_4_2_1 (w := wordOf (.tgath c d a ac rel)) (BitVec.ofBool c.k) c.g 0xe1#8 d a ac 0x0#2 rel rfl
  have hop : (fld (wordOf (.tgath c d a ac rel)) 21 8).toNat = 225 := congrArg BitVec.toNat eop
  refine decodeWords_plain hop rfl ((decodeRaw_engine hop (by omega)).trans ?_) hwf
  change (if fld (wordOf (.tgath c d a ac rel)) 1 2 == 0x0#2 then some (Instr.tgath (ctl (wordOf (.tgath c d a ac rel))) (fld (wordOf (.tgath c d a ac rel)) 14 7) (fld (wordOf (.tgath c d a ac rel)) 7 7) (fld (wordOf (.tgath c d a ac rel)) 3 4) (fld (wordOf (.tgath c d a ac rel)) 0 1)) else none) = _
  rw [ctl_eq (c := c) ek eg]
  simp [e0, e1, e2, e3, e4]
theorem tscat (c : Ctl) (d : BitVec 7) (a : BitVec 7) (ac : BitVec 4) (rel : BitVec 1) : Statement (.tscat c d a ac rel) := by
  intro _ hwf
  obtain ⟨ek, eg, eop, e0, e1, e2, e3, e4⟩ := shape_7_7_4_2_1 (w := wordOf (.tscat c d a ac rel)) (BitVec.ofBool c.k) c.g 0xe2#8 d a ac 0x0#2 rel rfl
  have hop : (fld (wordOf (.tscat c d a ac rel)) 21 8).toNat = 226 := congrArg BitVec.toNat eop
  refine decodeWords_plain hop rfl ((decodeRaw_engine hop (by omega)).trans ?_) hwf
  change (if fld (wordOf (.tscat c d a ac rel)) 1 2 == 0x0#2 then some (Instr.tscat (ctl (wordOf (.tscat c d a ac rel))) (fld (wordOf (.tscat c d a ac rel)) 14 7) (fld (wordOf (.tscat c d a ac rel)) 7 7) (fld (wordOf (.tscat c d a ac rel)) 3 4) (fld (wordOf (.tscat c d a ac rel)) 0 1)) else none) = _
  rw [ctl_eq (c := c) ek eg]
  simp [e0, e1, e2, e3, e4]
theorem obres (c : Ctl) (ob : BitVec 3) (lit : Word) : Statement (.obres c ob lit) := by
  intro _ hwf
  obtain ⟨ek, eg, eop, e0, e1, e2⟩ := shape_4_3_14 (w := wordOf (.obres c ob lit)) (BitVec.ofBool c.k) c.g 0xe3#8 0x0#4 ob 0x0#14 rfl
  have hop : (fld (wordOf (.obres c ob lit)) 21 8).toNat = 227 := congrArg BitVec.toNat eop
  refine decodeWords_lit hop rfl ((decodeRaw_engine hop (by omega)).trans ?_) hwf
  change (if fld (wordOf (.obres c ob lit)) 17 4 == 0x0#4 && fld (wordOf (.obres c ob lit)) 0 14 == 0x0#14 then some (Instr.obres (ctl (wordOf (.obres c ob lit))) (fld (wordOf (.obres c ob lit)) 14 3) lit) else none) = _
  rw [ctl_eq (c := c) ek eg]
  simp [e0, e1, e2]
theorem obld (c : Ctl) (barn : BitVec 4) (ob : BitVec 3) (a : BitVec 7) (ac : BitVec 4) (lvl : BitVec 2) (rel : BitVec 1) : Statement (.obld c barn ob a ac lvl rel) := by
  intro _ hwf
  obtain ⟨ek, eg, eop, e0, e1, e2, e3, e4, e5⟩ := shape_4_3_7_4_2_1 (w := wordOf (.obld c barn ob a ac lvl rel)) (BitVec.ofBool c.k) c.g 0xe4#8 barn ob a ac lvl rel rfl
  have hop : (fld (wordOf (.obld c barn ob a ac lvl rel)) 21 8).toNat = 228 := congrArg BitVec.toNat eop
  refine decodeWords_plain hop rfl ((decodeRaw_engine hop (by omega)).trans ?_) hwf
  change (some (Instr.obld (ctl (wordOf (.obld c barn ob a ac lvl rel))) (fld (wordOf (.obld c barn ob a ac lvl rel)) 17 4) (fld (wordOf (.obld c barn ob a ac lvl rel)) 14 3) (fld (wordOf (.obld c barn ob a ac lvl rel)) 7 7) (fld (wordOf (.obld c barn ob a ac lvl rel)) 3 4) (fld (wordOf (.obld c barn ob a ac lvl rel)) 1 2) (fld (wordOf (.obld c barn ob a ac lvl rel)) 0 1))) = _
  rw [ctl_eq (c := c) ek eg]
  rw [e0, e1, e2, e3, e4, e5]
theorem mma (c : Ctl) (zt : BitVec 2) (a : BitVec 7) (b : BitVec 7) (lit : Word) : Statement (.mma c zt a b lit) := by
  intro _ hwf
  obtain ⟨ek, eg, eop, e0, e1, e2, e3⟩ := shape_5_2_7_7 (w := wordOf (.mma c zt a b lit)) (BitVec.ofBool c.k) c.g 0xe5#8 0x0#5 zt a b rfl
  have hop : (fld (wordOf (.mma c zt a b lit)) 21 8).toNat = 229 := congrArg BitVec.toNat eop
  refine decodeWords_lit hop rfl ((decodeRaw_engine hop (by omega)).trans ?_) hwf
  change (if fld (wordOf (.mma c zt a b lit)) 16 5 == 0x0#5 then some (Instr.mma (ctl (wordOf (.mma c zt a b lit))) (fld (wordOf (.mma c zt a b lit)) 14 2) (fld (wordOf (.mma c zt a b lit)) 7 7) (fld (wordOf (.mma c zt a b lit)) 0 7) lit) else none) = _
  rw [ctl_eq (c := c) ek eg]
  simp [e0, e1, e2, e3]
theorem zclr (c : Ctl) (zt : BitVec 2) : Statement (.zclr c zt) := by
  intro _ hwf
  obtain ⟨ek, eg, eop, e0, e1, e2⟩ := shape_5_2_14 (w := wordOf (.zclr c zt)) (BitVec.ofBool c.k) c.g 0xe6#8 0x0#5 zt 0x0#14 rfl
  have hop : (fld (wordOf (.zclr c zt)) 21 8).toNat = 230 := congrArg BitVec.toNat eop
  refine decodeWords_plain hop rfl ((decodeRaw_engine hop (by omega)).trans ?_) hwf
  change (if fld (wordOf (.zclr c zt)) 16 5 == 0x0#5 && fld (wordOf (.zclr c zt)) 0 14 == 0x0#14 then some (Instr.zclr (ctl (wordOf (.zclr c zt))) (fld (wordOf (.zclr c zt)) 14 2)) else none) = _
  rw [ctl_eq (c := c) ek eg]
  simp [e0, e1, e2]
theorem zmov (c : Ctl) (d : BitVec 7) (zs : BitVec 2) (grp : BitVec 2) : Statement (.zmov c d zs grp) := by
  intro _ hwf
  obtain ⟨ek, eg, eop, e0, e1, e2, e3, e4⟩ := shape_7_5_2_5_2 (w := wordOf (.zmov c d zs grp)) (BitVec.ofBool c.k) c.g 0xe7#8 d 0x0#5 zs 0x0#5 grp rfl
  have hop : (fld (wordOf (.zmov c d zs grp)) 21 8).toNat = 231 := congrArg BitVec.toNat eop
  refine decodeWords_plain hop rfl ((decodeRaw_engine hop (by omega)).trans ?_) hwf
  change (if fld (wordOf (.zmov c d zs grp)) 9 5 == 0x0#5 && fld (wordOf (.zmov c d zs grp)) 2 5 == 0x0#5 then some (Instr.zmov (ctl (wordOf (.zmov c d zs grp))) (fld (wordOf (.zmov c d zs grp)) 14 7) (fld (wordOf (.zmov c d zs grp)) 7 2) (fld (wordOf (.zmov c d zs grp)) 0 2)) else none) = _
  rw [ctl_eq (c := c) ek eg]
  simp [e0, e1, e2, e3, e4]
theorem zst (c : Ctl) (barn : BitVec 4) (zt : BitVec 2) (a : BitVec 7) (ac : BitVec 4) (lvl : BitVec 2) (rel : BitVec 1) : Statement (.zst c barn zt a ac lvl rel) := by
  intro _ hwf
  obtain ⟨ek, eg, eop, e0, e1, e2, e3, e4, e5, e6⟩ := shape_4_1_2_7_4_2_1 (w := wordOf (.zst c barn zt a ac lvl rel)) (BitVec.ofBool c.k) c.g 0xe8#8 barn 0x0#1 zt a ac lvl rel rfl
  have hop : (fld (wordOf (.zst c barn zt a ac lvl rel)) 21 8).toNat = 232 := congrArg BitVec.toNat eop
  refine decodeWords_plain hop rfl ((decodeRaw_engine hop (by omega)).trans ?_) hwf
  change (if fld (wordOf (.zst c barn zt a ac lvl rel)) 16 1 == 0x0#1 then some (Instr.zst (ctl (wordOf (.zst c barn zt a ac lvl rel))) (fld (wordOf (.zst c barn zt a ac lvl rel)) 17 4) (fld (wordOf (.zst c barn zt a ac lvl rel)) 14 2) (fld (wordOf (.zst c barn zt a ac lvl rel)) 7 7) (fld (wordOf (.zst c barn zt a ac lvl rel)) 3 4) (fld (wordOf (.zst c barn zt a ac lvl rel)) 1 2) (fld (wordOf (.zst c barn zt a ac lvl rel)) 0 1)) else none) = _
  rw [ctl_eq (c := c) ek eg]
  simp [e0, e1, e2, e3, e4, e5, e6]
theorem rayq (c : Ctl) (d : BitVec 7) (a : BitVec 7) (ac : BitVec 4) (rel : BitVec 1) : Statement (.rayq c d a ac rel) := by
  intro _ hwf
  obtain ⟨ek, eg, eop, e0, e1, e2, e3, e4⟩ := shape_7_7_4_2_1 (w := wordOf (.rayq c d a ac rel)) (BitVec.ofBool c.k) c.g 0xe9#8 d a ac 0x0#2 rel rfl
  have hop : (fld (wordOf (.rayq c d a ac rel)) 21 8).toNat = 233 := congrArg BitVec.toNat eop
  refine decodeWords_plain hop rfl ((decodeRaw_engine hop (by omega)).trans ?_) hwf
  change (if fld (wordOf (.rayq c d a ac rel)) 1 2 == 0x0#2 then some (Instr.rayq (ctl (wordOf (.rayq c d a ac rel))) (fld (wordOf (.rayq c d a ac rel)) 14 7) (fld (wordOf (.rayq c d a ac rel)) 7 7) (fld (wordOf (.rayq c d a ac rel)) 3 4) (fld (wordOf (.rayq c d a ac rel)) 0 1)) else none) = _
  rw [ctl_eq (c := c) ek eg]
  simp [e0, e1, e2, e3, e4]
theorem cand (c : Ctl) (d : BitVec 7) : Statement (.cand c d) := by
  intro _ hwf
  obtain ⟨ek, eg, eop, e0, e1⟩ := shape_7_14 (w := wordOf (.cand c d)) (BitVec.ofBool c.k) c.g 0xea#8 d 0x0#14 rfl
  have hop : (fld (wordOf (.cand c d)) 21 8).toNat = 234 := congrArg BitVec.toNat eop
  refine decodeWords_plain hop rfl ((decodeRaw_engine hop (by omega)).trans ?_) hwf
  change (if fld (wordOf (.cand c d)) 0 14 == 0x0#14 then some (Instr.cand (ctl (wordOf (.cand c d))) (fld (wordOf (.cand c d)) 14 7)) else none) = _
  rw [ctl_eq (c := c) ek eg]
  simp [e0, e1]
theorem cacc (c : Ctl) (a : BitVec 7) : Statement (.cacc c a) := by
  intro _ hwf
  obtain ⟨ek, eg, eop, e0, e1, e2⟩ := shape_7_7_7 (w := wordOf (.cacc c a)) (BitVec.ofBool c.k) c.g 0xeb#8 0x0#7 a 0x0#7 rfl
  have hop : (fld (wordOf (.cacc c a)) 21 8).toNat = 235 := congrArg BitVec.toNat eop
  refine decodeWords_plain hop rfl ((decodeRaw_engine hop (by omega)).trans ?_) hwf
  change (if fld (wordOf (.cacc c a)) 14 7 == 0x0#7 && fld (wordOf (.cacc c a)) 0 7 == 0x0#7 then some (Instr.cacc (ctl (wordOf (.cacc c a))) (fld (wordOf (.cacc c a)) 7 7)) else none) = _
  rw [ctl_eq (c := c) ek eg]
  simp [e0, e1, e2]
theorem tex (c : Ctl) (d : BitVec 7) (a : BitVec 7) (ac : BitVec 4) (rel : BitVec 1) (lit : Word) : Statement (.tex c d a ac rel lit) := by
  intro _ hwf
  obtain ⟨ek, eg, eop, e0, e1, e2, e3, e4⟩ := shape_7_7_4_2_1 (w := wordOf (.tex c d a ac rel lit)) (BitVec.ofBool c.k) c.g 0xec#8 d a ac 0x0#2 rel rfl
  have hop : (fld (wordOf (.tex c d a ac rel lit)) 21 8).toNat = 236 := congrArg BitVec.toNat eop
  refine decodeWords_lit hop rfl ((decodeRaw_engine hop (by omega)).trans ?_) hwf
  change (if fld (wordOf (.tex c d a ac rel lit)) 1 2 == 0x0#2 then some (Instr.tex (ctl (wordOf (.tex c d a ac rel lit))) (fld (wordOf (.tex c d a ac rel lit)) 14 7) (fld (wordOf (.tex c d a ac rel lit)) 7 7) (fld (wordOf (.tex c d a ac rel lit)) 3 4) (fld (wordOf (.tex c d a ac rel lit)) 0 1) lit) else none) = _
  rw [ctl_eq (c := c) ek eg]
  simp [e0, e1, e2, e3, e4]
theorem texq (c : Ctl) (d : BitVec 7) (a : BitVec 7) (lit : Word) : Statement (.texq c d a lit) := by
  intro _ hwf
  obtain ⟨ek, eg, eop, e0, e1, e2⟩ := shape_7_7_7 (w := wordOf (.texq c d a lit)) (BitVec.ofBool c.k) c.g 0xed#8 d a 0x0#7 rfl
  have hop : (fld (wordOf (.texq c d a lit)) 21 8).toNat = 237 := congrArg BitVec.toNat eop
  refine decodeWords_lit hop rfl ((decodeRaw_engine hop (by omega)).trans ?_) hwf
  change (if fld (wordOf (.texq c d a lit)) 0 7 == 0x0#7 then some (Instr.texq (ctl (wordOf (.texq c d a lit))) (fld (wordOf (.texq c d a lit)) 14 7) (fld (wordOf (.texq c d a lit)) 7 7) lit) else none) = _
  rw [ctl_eq (c := c) ek eg]
  simp [e0, e1, e2]
theorem spawn (c : Ctl) (d : BitVec 7) (a : BitVec 7) (queue : BitVec 4) : Statement (.spawn c d a queue) := by
  intro _ hwf
  obtain ⟨ek, eg, eop, e0, e1, e2, e3⟩ := shape_7_7_3_4 (w := wordOf (.spawn c d a queue)) (BitVec.ofBool c.k) c.g 0xee#8 d a 0x0#3 queue rfl
  have hop : (fld (wordOf (.spawn c d a queue)) 21 8).toNat = 238 := congrArg BitVec.toNat eop
  refine decodeWords_plain hop rfl ((decodeRaw_engine hop (by omega)).trans ?_) hwf
  change (if fld (wordOf (.spawn c d a queue)) 4 3 == 0x0#3 then some (Instr.spawn (ctl (wordOf (.spawn c d a queue))) (fld (wordOf (.spawn c d a queue)) 14 7) (fld (wordOf (.spawn c d a queue)) 7 7) (fld (wordOf (.spawn c d a queue)) 0 4)) else none) = _
  rw [ctl_eq (c := c) ek eg]
  simp [e0, e1, e2, e3]
theorem svc (c : Ctl) (d : BitVec 7) (code : BitVec 14) : Statement (.svc c d code) := by
  intro _ hwf
  obtain ⟨ek, eg, eop, e0, e1⟩ := shape_7_14 (w := wordOf (.svc c d code)) (BitVec.ofBool c.k) c.g 0xef#8 d code rfl
  have hop : (fld (wordOf (.svc c d code)) 21 8).toNat = 239 := congrArg BitVec.toNat eop
  refine decodeWords_plain hop rfl ((decodeRaw_engine hop (by omega)).trans ?_) hwf
  change (some (Instr.svc (ctl (wordOf (.svc c d code))) (fld (wordOf (.svc c d code)) 14 7) (fld (wordOf (.svc c d code)) 0 14))) = _
  rw [ctl_eq (c := c) ek eg]
  rw [e0, e1]
theorem rdst (c : Ctl) (d : BitVec 7) (form : BitVec 2) (reg : BitVec 12) : Statement (.rdst c d form reg) := by
  intro _ hwf
  obtain ⟨ek, eg, eop, e0, e1, e2⟩ := shape_7_2_12 (w := wordOf (.rdst c d form reg)) (BitVec.ofBool c.k) c.g 0xf0#8 d form reg rfl
  have hop : (fld (wordOf (.rdst c d form reg)) 21 8).toNat = 240 := congrArg BitVec.toNat eop
  refine decodeWords_plain hop rfl ((decodeRaw_system hop (by omega)).trans ?_) hwf
  change (some (Instr.rdst (ctl (wordOf (.rdst c d form reg))) (fld (wordOf (.rdst c d form reg)) 14 7) (fld (wordOf (.rdst c d form reg)) 12 2) (fld (wordOf (.rdst c d form reg)) 0 12))) = _
  rw [ctl_eq (c := c) ek eg]
  rw [e0, e1, e2]
theorem wrst (c : Ctl) (d : BitVec 7) (form : BitVec 2) (reg : BitVec 12) : Statement (.wrst c d form reg) := by
  intro _ hwf
  obtain ⟨ek, eg, eop, e0, e1, e2⟩ := shape_7_2_12 (w := wordOf (.wrst c d form reg)) (BitVec.ofBool c.k) c.g 0xf1#8 d form reg rfl
  have hop : (fld (wordOf (.wrst c d form reg)) 21 8).toNat = 241 := congrArg BitVec.toNat eop
  refine decodeWords_plain hop rfl ((decodeRaw_system hop (by omega)).trans ?_) hwf
  change (some (Instr.wrst (ctl (wordOf (.wrst c d form reg))) (fld (wordOf (.wrst c d form reg)) 14 7) (fld (wordOf (.wrst c d form reg)) 12 2) (fld (wordOf (.wrst c d form reg)) 0 12))) = _
  rw [ctl_eq (c := c) ek eg]
  rw [e0, e1, e2]
theorem eret (k : Bool) : Statement (.eret k) := by
  intro _ hwf
  obtain ⟨ek, eg, eop, e0⟩ := shape_21 (w := wordOf (.eret k)) (BitVec.ofBool k) 0x0#2 0xf2#8 0x0#21 rfl
  have hop : (fld (wordOf (.eret k)) 21 8).toNat = 242 := congrArg BitVec.toNat eop
  refine decodeWords_plain hop rfl ((decodeRaw_system hop (by omega)).trans ?_) hwf
  change (if fld (wordOf (.eret k)) 29 2 == 0#2 && fld (wordOf (.eret k)) 0 21 == 0x0#21 then some (Instr.eret ((wordOf (.eret k)).getLsbD 31)) else if fld (wordOf (.eret k)) 29 2 == 0#2 && fld (wordOf (.eret k)) 0 21 == 0x1#21 then some (Instr.eretReplay ((wordOf (.eret k)).getLsbD 31)) else none) = _
  rw [bit31_eq (k := k) ek]
  simp [eg, e0]
theorem eretReplay (k : Bool) : Statement (.eretReplay k) := by
  intro _ hwf
  obtain ⟨ek, eg, eop, e0⟩ := shape_21 (w := wordOf (.eretReplay k)) (BitVec.ofBool k) 0x0#2 0xf2#8 0x1#21 rfl
  have hop : (fld (wordOf (.eretReplay k)) 21 8).toNat = 242 := congrArg BitVec.toNat eop
  refine decodeWords_plain hop rfl ((decodeRaw_system hop (by omega)).trans ?_) hwf
  change (if fld (wordOf (.eretReplay k)) 29 2 == 0#2 && fld (wordOf (.eretReplay k)) 0 21 == 0x0#21 then some (Instr.eret ((wordOf (.eretReplay k)).getLsbD 31)) else if fld (wordOf (.eretReplay k)) 29 2 == 0#2 && fld (wordOf (.eretReplay k)) 0 21 == 0x1#21 then some (Instr.eretReplay ((wordOf (.eretReplay k)).getLsbD 31)) else none) = _
  rw [bit31_eq (k := k) ek]
  simp [eg, e0]
theorem tinv (k : Bool) (a : BitVec 7) (kind : BitVec 2) : Statement (.tinv k a kind) := by
  intro _ hwf
  obtain ⟨ek, eg, eop, e0, e1, e2, e3⟩ := shape_7_7_5_2 (w := wordOf (.tinv k a kind)) (BitVec.ofBool k) 0x0#2 0xf3#8 0x0#7 a 0x0#5 kind rfl
  have hop : (fld (wordOf (.tinv k a kind)) 21 8).toNat = 243 := congrArg BitVec.toNat eop
  refine decodeWords_plain hop rfl ((decodeRaw_system hop (by omega)).trans ?_) hwf
  change (if fld (wordOf (.tinv k a kind)) 29 2 == 0#2 && fld (wordOf (.tinv k a kind)) 14 7 == 0x0#7 && fld (wordOf (.tinv k a kind)) 2 5 == 0x0#5 then some (Instr.tinv ((wordOf (.tinv k a kind)).getLsbD 31) (fld (wordOf (.tinv k a kind)) 7 7) (fld (wordOf (.tinv k a kind)) 0 2)) else none) = _
  rw [bit31_eq (k := k) ek]
  simp [eg, e0, e1, e2, e3]
theorem csave (k : Bool) : Statement (.csave k) := by
  intro _ hwf
  obtain ⟨ek, eg, eop, e0⟩ := shape_21 (w := wordOf (.csave k)) (BitVec.ofBool k) 0x0#2 0xf4#8 0x0#21 rfl
  have hop : (fld (wordOf (.csave k)) 21 8).toNat = 244 := congrArg BitVec.toNat eop
  refine decodeWords_plain hop rfl ((decodeRaw_system hop (by omega)).trans ?_) hwf
  change (if fld (wordOf (.csave k)) 29 2 == 0#2 && fld (wordOf (.csave k)) 0 21 == 0x0#21 then some (Instr.csave ((wordOf (.csave k)).getLsbD 31)) else none) = _
  rw [bit31_eq (k := k) ek]
  simp [eg, e0]
theorem crest (k : Bool) : Statement (.crest k) := by
  intro _ hwf
  obtain ⟨ek, eg, eop, e0⟩ := shape_21 (w := wordOf (.crest k)) (BitVec.ofBool k) 0x0#2 0xf5#8 0x0#21 rfl
  have hop : (fld (wordOf (.crest k)) 21 8).toNat = 245 := congrArg BitVec.toNat eop
  refine decodeWords_plain hop rfl ((decodeRaw_system hop (by omega)).trans ?_) hwf
  change (if fld (wordOf (.crest k)) 29 2 == 0#2 && fld (wordOf (.crest k)) 0 21 == 0x0#21 then some (Instr.crest ((wordOf (.crest k)).getLsbD 31)) else none) = _
  rw [bit31_eq (k := k) ek]
  simp [eg, e0]
theorem zsave (k : Bool) (a : BitVec 7) : Statement (.zsave k a) := by
  intro _ hwf
  obtain ⟨ek, eg, eop, e0, e1, e2⟩ := shape_7_7_7 (w := wordOf (.zsave k a)) (BitVec.ofBool k) 0x0#2 0xf6#8 0x0#7 a 0x0#7 rfl
  have hop : (fld (wordOf (.zsave k a)) 21 8).toNat = 246 := congrArg BitVec.toNat eop
  refine decodeWords_plain hop rfl ((decodeRaw_system hop (by omega)).trans ?_) hwf
  change (if fld (wordOf (.zsave k a)) 29 2 == 0#2 && fld (wordOf (.zsave k a)) 14 7 == 0x0#7 && fld (wordOf (.zsave k a)) 0 7 == 0x0#7 then some (Instr.zsave ((wordOf (.zsave k a)).getLsbD 31) (fld (wordOf (.zsave k a)) 7 7)) else none) = _
  rw [bit31_eq (k := k) ek]
  simp [eg, e0, e1, e2]
theorem zload (k : Bool) (a : BitVec 7) : Statement (.zload k a) := by
  intro _ hwf
  obtain ⟨ek, eg, eop, e0, e1, e2⟩ := shape_7_7_7 (w := wordOf (.zload k a)) (BitVec.ofBool k) 0x0#2 0xf7#8 0x0#7 a 0x0#7 rfl
  have hop : (fld (wordOf (.zload k a)) 21 8).toNat = 247 := congrArg BitVec.toNat eop
  refine decodeWords_plain hop rfl ((decodeRaw_system hop (by omega)).trans ?_) hwf
  change (if fld (wordOf (.zload k a)) 29 2 == 0#2 && fld (wordOf (.zload k a)) 14 7 == 0x0#7 && fld (wordOf (.zload k a)) 0 7 == 0x0#7 then some (Instr.zload ((wordOf (.zload k a)).getLsbD 31) (fld (wordOf (.zload k a)) 7 7)) else none) = _
  rw [bit31_eq (k := k) ek]
  simp [eg, e0, e1, e2]
theorem quies (k : Bool) (d : BitVec 7) : Statement (.quies k d) := by
  intro _ hwf
  obtain ⟨ek, eg, eop, e0, e1⟩ := shape_7_14 (w := wordOf (.quies k d)) (BitVec.ofBool k) 0x0#2 0xf8#8 d 0x0#14 rfl
  have hop : (fld (wordOf (.quies k d)) 21 8).toNat = 248 := congrArg BitVec.toNat eop
  refine decodeWords_plain hop rfl ((decodeRaw_system hop (by omega)).trans ?_) hwf
  change (if fld (wordOf (.quies k d)) 29 2 == 0#2 && fld (wordOf (.quies k d)) 0 14 == 0x0#14 then some (Instr.quies ((wordOf (.quies k d)).getLsbD 31) (fld (wordOf (.quies k d)) 14 7)) else none) = _
  rw [bit31_eq (k := k) ek]
  simp [eg, e0, e1]
theorem loadImage (r : Req) (image : List Byte) : Statement (.loadImage r image) := nofun
theorem map (r : Req) (body : MapBody) : Statement (.map r body) := nofun
theorem unmap (r : Req) (addr : Dword) (len : Dword) : Statement (.unmap r addr len) := nofun
theorem copyIn (r : Req) (addr : Dword) (len : Dword) (after : List Nat) (data : List Byte) : Statement (.copyIn r addr len after data) := nofun
theorem copyOut (r : Req) (addr : Dword) (len : Dword) (after : List Nat) : Statement (.copyOut r addr len after) := nofun
theorem launch (r : Req) (image : Nat) (record : Dword) (queue : Nat) : Statement (.launch r image record queue) := nofun
theorem waitForEvent (r : Req) (seq : Nat) (ms : Nat) : Statement (.waitForEvent r seq ms) := nofun
theorem query (r : Req) (item : QueryItem) : Statement (.query r item) := nofun
theorem attest (r : Req) (nonce : List Byte) : Statement (.attest r nonce) := nofun
theorem partitionCreate (r : Req) (body : PartBody) : Statement (.partitionCreate r body) := nofun
theorem partitionDestroy (r : Req) (part : Nat) : Statement (.partitionDestroy r part) := nofun
theorem resumeContext (r : Req) (desc : Dword) (target : Nat) : Statement (.resumeContext r desc target) := nofun
theorem catalogue (r : Req) (kind : Nat) (image : CatalogueImage) : Statement (.catalogue r kind image) := nofun
theorem bringUp (found : SelfTest) : Statement (.bringUp found) := nofun
theorem writeChunk (m : PeerWrite) : Statement (.writeChunk m) := nofun
theorem readRequest (m : PeerRead) : Statement (.readRequest m) := nofun
theorem readReply (m : PeerReply) : Statement (.readReply m) := nofun
theorem atomicRequest (m : PeerAtomic) : Statement (.atomicRequest m) := nofun
theorem atomicReply (m : PeerReply) : Statement (.atomicReply m) := nofun
theorem illegalInstruction (packet : Bool) (word : Word) : Statement (.illegalInstruction packet word) := nofun
theorem unknownKindRequest (r : Req) (kind : Nat) : Statement (.unknownKindRequest r kind) := nofun
theorem copyPerform : Statement (.copyPerform) := nofun
theorem waitTimeLimit : Statement (.waitTimeLimit) := nofun
theorem powerOff : Statement (.powerOff) := nofun
theorem throttleTrip : Statement (.throttleTrip) := nofun
theorem throttleRelease : Statement (.throttleRelease) := nofun
theorem shutdownTrip : Statement (.shutdownTrip) := nofun
theorem grantRequest : Statement (.grantRequest) := nofun
theorem reclaimReturn : Statement (.reclaimReturn) := nofun
theorem acknowledge : Statement .acknowledge := nofun
theorem messageAbandon : Statement (.messageAbandon) := nofun
theorem homeSliceAccess : Statement (.homeSliceAccess) := nofun
theorem lineArrival : Statement (.lineArrival) := nofun
theorem demotionLineWritten : Statement (.demotionLineWritten) := nofun
theorem evictionRequest : Statement (.evictionRequest) := nofun
theorem dormantZeroFill : Statement (.dormantZeroFill) := nofun
theorem forcedRefresh : Statement (.forcedRefresh) := nofun
theorem quarantineRelease : Statement (.quarantineRelease) := nofun
theorem parkResume : Statement (.parkResume) := nofun
theorem switchOut : Statement (.switchOut) := nofun
theorem loadReply : Statement (.loadReply) := nofun
theorem storePerformed : Statement (.storePerformed) := nofun
theorem atomicPerform : Statement (.atomicPerform) := nofun
theorem engineTranslate : Statement (.engineTranslate) := nofun
theorem engineUnitSettle : Statement (.engineUnitSettle) := nofun
theorem refineServe : Statement (.refineServe) := nofun
theorem teamDeal : Statement (.teamDeal) := nofun
theorem quantumExpiry : Statement (.quantumExpiry) := nofun
theorem gridComplete : Statement (.gridComplete) := nofun
theorem trapEntry : Statement (.trapEntry) := nofun
theorem preemptRequest : Statement (.preemptRequest) := nofun
theorem graceExpiry : Statement (.graceExpiry) := nofun
theorem teamReplace : Statement (.teamReplace) := nofun
theorem matrixHang : Statement (.matrixHang) := nofun
theorem arrayReset : Statement (.arrayReset) := nofun
theorem mmaCommit : Statement (.mmaCommit) := nofun
theorem coreFailure : Statement (.coreFailure) := nofun
theorem barTryTimeout : Statement (.barTryTimeout) := nofun
theorem rayAccept : Statement (.rayAccept) := nofun
theorem rayRecordLost : Statement (.rayRecordLost) := nofun
theorem stationCall : Statement (.stationCall) := nofun
theorem callEnd : Statement (.callEnd) := nofun
theorem anyhitBatchLaunch : Statement (.anyhitBatchLaunch) := nofun
theorem verdictApply : Statement (.verdictApply) := nofun
theorem hitBatchLaunch : Statement (.hitBatchLaunch) := nofun
theorem svcReply : Statement (.svcReply) := nofun
theorem unsupportedPacket : Statement (.unsupportedPacket) := nofun
theorem badBlockRetirement : Statement (.badBlockRetirement) := nofun

end Laws.Encoding

end Sys2Proof
end

