-- ==== Sys2Proof/Tests/Slice0.lean ====
section
/-! SUPPORT. Tests: ill-formed words refused, the words the spec writes out, single steps against the spec's worked examples, and for
every obligation with hypotheses a state and operands that meet them. -/
namespace Sys2Proof.Tests
open Sys2Proof Sys2Proof.Machine

/-- The bench train on the issue stage, at its first word, with registers 0. -/
def bench : State := State.reset.onBench []
/-- The bench with this train. -/
def benchT (f : Train → Train) : State := bench.onT f
/-- No K, guard 00. -/
def c0 : Ctl := ⟨false, 0⟩
/-- The bench with these lane registers the same in every lane. -/
def benchV (xs : List (Nat × Word)) : State := benchT fun t => xs.foldl (fun u x => u.putV x.1 t.all fun _ => x.2) t
/-- Lane register `d` of lane 0 and FPFLAGS after one word. -/
def res (i : Instr) (xs : List (Nat × Word)) (d : Nat) : Option (Word × Word) :=
  match exec i (benchV xs) with
  | .next t => some (t.t.r.getV false d 0, t.t.r.fpflags)
  | _ => none
/-- A figure of the state after one word. -/
def after {α : Type} (i : Instr) (s : State) (f : State → α) : Option α :=
  match exec i s with
  | .next t => some (f t)
  | _ => none

/-- `State.Admits` as a Bool. -/
def admits (s : State) (p : Instr × List Need) : Bool :=
  decide (s.t.life = .running) && decide (s.t.live ≠ 0) && s.t.group.isNone && p.1.wellFormed &&
  p.2.all fun n => s.t.inBudget n && !s.t.awaited n

theorem admits_of {s : State} {i : Instr} {ns : List Need} (h : admits s (i, ns) = true) : s.Admits i ns := by
  simp only [admits, Bool.and_eq_true, decide_eq_true_eq, Option.isNone_iff_eq_none, List.all_eq_true, Bool.not_eq_true'] at h
  exact ⟨⟨h.1.1.1.1, h.1.1.1.2, h.1.1.2⟩, h.1.2, h.2⟩

/-- `Train.Lone` as a Bool. -/
def lone (t : Train) : Bool :=
  decide ((t.slot (!t.d.cur)).mask = 0) && decide (t.d.depth ≤ t.base) && decide (t.split.mask ≠ 0) && !t.split.held &&
  !t.split.asleep && t.split.recs.isEmpty && t.split.half.isNone

theorem lone_of {t : Train} (h : lone t = true) : t.Lone := by
  simp only [lone, Bool.and_eq_true, decide_eq_true_eq, Bool.not_eq_true', List.isEmpty_iff, Option.isNone_iff_eq_none] at h
  exact ⟨h.1.1.1.1.1.1, h.1.1.1.1.1.2, h.1.1.1.1.2, h.1.1.1.2, h.1.1.2, h.1.2, h.2⟩

/-! An ill-formed term for each check of `Instr.wellFormed` (R269, R272, R279 to R285). -/

theorem test_odd_pair : (Instr.addB64 c0 1 2 4).wellFormed = false := by decide
theorem test_misaligned_quad : (Instr.wid c0 2).wellFormed = false := by decide
theorem test_misaligned_octet : (Instr.zmov c0 4 0 0).wellFormed = false := by decide
theorem test_uniform_field_above_63 : (Instr.addS c0 1 2 64).wellFormed = false := by decide
theorem test_size_code_111 : (Instr.lds c0 0 1 7 0).wellFormed = false := by decide
theorem test_size_code_pair_odd : (Instr.lds c0 1 1 5 0).wellFormed = false := by decide
theorem test_signed_store : (Instr.sts c0 0 1 1 0).wellFormed = false := by decide
theorem test_wide_uniform_load : (Instr.sld c0 0 1 6 0).wellFormed = false := by decide
theorem test_global_quad_misaligned : (Instr.ldg c0 2 5 0 0 2).wellFormed = false := by decide
theorem test_global_small_code : (Instr.ldg c0 2 5 4 0 3).wellFormed = false := by decide
theorem test_acquire_scope : (Instr.ldgAcq c0 2 5 5 0 0).wellFormed = false := by decide
theorem test_atomic_reserved : (Instr.atom c0 0 2 4 0x00400800).wellFormed = false := by decide
theorem test_atomic_wide_fadd : (Instr.atom c0 0 2 4 0x00000409).wellFormed = false := by decide
theorem test_atomic_odd_address : (Instr.atom c0 0 3 4 0x00001000).wellFormed = false := by decide
theorem test_red_exchange : (Instr.red c0 2 4 8).wellFormed = false := by decide
theorem test_engine_barrier_out_of_range : (Instr.zst c0 8 0 1 0 2 0).wellFormed = false := by decide
theorem test_engine_barrier_named_by_none : (Instr.obld c0 1 0 1 0 0 0).wellFormed = false := by decide
theorem test_tcopy_reserved : (Instr.tcopy c0 1 2 0 0 0x02000000).wellFormed = false := by decide
theorem test_mma_reserved : (Instr.mma c0 0 1 2 0x8).wellFormed = false := by decide
theorem test_texture_unaligned : (Instr.tex c0 4 5 0 0 0x10).wellFormed = false := by decide
theorem test_conversion_unlisted : (Instr.fcvt c0 1 2 0 24).wellFormed = false := by decide
theorem test_conversion_mode : (Instr.fcvt c0 2 3 1 1).wellFormed = false := by decide
theorem test_packing_unlisted : (Instr.fcvtPk c0 4 4 0 8).wellFormed = false := by decide
theorem test_reduction_unlisted : (Instr.redux c0 1 2 11).wellFormed = false := by decide
theorem test_barrier_number_28 : (Instr.barSync false 28).wellFormed = false := by decide
theorem test_fence_scope : (Instr.fence c0 5).wellFormed = false := by decide
theorem test_state_register_unassigned : (Instr.rdst c0 1 0 0x011).wellFormed = false := by decide
theorem test_state_register_form : (Instr.rdst c0 1 3 0x010).wellFormed = false := by decide
theorem test_tinv_kind : (Instr.tinv false 4 2).wellFormed = false := by decide

/-! Words written out by the spec (R265 and the rule of each), beside those of `Obligations.WordsOfTheSpec`. -/

theorem test_words_float : decodeWords [0x08C14082] = some (.ffma c0 5 1 2, 1) ∧ decodeWords [0x08A10203] = some (.fmulS c0 4 4 3, 1) ∧
    decodeWords [0x09810308] = some (.faddF64 c0 4 6 8, 1) ∧ decodeWords [0x0AC2858C] = some (.fdot2Bf16 c0 10 11 12, 1) ∧
    decodeWords [0x0B408388] = some (.fcmpLtF32 c0 2 7 8, 1) ∧ decodeWords [0x0AE81016] = some (.fscale c0 32 32 22, 1) ∧
    decodeWords [0x0D275000] = some (.fsinpi c0 29 32, 1) := by decide
theorem test_words_uniform : decodeWords [0x104E8000, 0x2000] = some (.smovk c0 58 0x2000, 2) ∧
    decodeWords [0x05BF9C01] = some (.movS c0 126 56 1, 1) ∧ decodeWords [0x0C42452A] = some (.fcvt c0 9 10 1 10, 1) := by decide
theorem test_words_exchange : decodeWords [0x14808280] = some (.voteAny c0 2 5, 1) ∧ decodeWords [0x14E30380] = some (.matchLanes c0 12 7, 1) ∧
    decodeWords [0x154B0000] = some (.wid c0 44, 1) ∧ decodeWords [0x16A00000] = some (.brk c0 0, 1) ∧
    decodeWords [0x759FFFFD] = some (.bra ⟨false, 3⟩ 0x1FFFFD, 1) := by decide
theorem test_words_memory : decodeWords [0x19C00A00] = some (.pfg c0 20, 1) ∧ decodeWords [0x1C210508] = some (.tgath c0 4 10 1 0, 1) ∧
    decodeWords [0x1D850208, 0x40] = some (.tex c0 20 4 1 0 0x40, 2) ∧ decodeWords [0x1DC0C20C] = some (.spawn c0 3 4 12, 1) ∧
    decodeWords [0x1DE08001] = some (.svc c0 2 1, 1) ∧ decodeWords [0x11E04053] = some (.sld c0 1 0 5 3, 1) := by decide
theorem test_words_system : decodeWords [0x1D600700] = some (.cacc c0 14, 1) ∧ decodeWords [0x1E018000] = some (.rdst c0 6 0 0, 1) ∧
    decodeWords [0x1E00E018] = some (.rdst c0 3 2 0x018, 1) ∧ decodeWords [0x1E600200] = some (.tinv false 4 0, 1) ∧
    decodeWords [0x1E800000] = some (.csave false, 1) ∧ decodeWords [0x1EA00000] = some (.crest false, 1) ∧
    decodeWords [0x1EC01D00] = some (.zsave false 58, 1) ∧ decodeWords [0x1EE01D00] = some (.zload false 58, 1) ∧
    decodeWords [0x1E400000] = some (.eret false, 1) := by decide
theorem test_words_refused : decode 0x1FE00000 0 = none ∧ decode 0x00000001 0 = none ∧ decode 0x36600000 0 = none := by decide
theorem test_table_word : decodeTableWord 32 0x16600000 = some (.idem false) := by decide

/-! Single steps. The expected values are the worked examples of the rules named, or hand calculation from them. NX is bit 4 of FPFLAGS, UF
bit 3, OF bit 2, DZ bit 1, IV bit 0 (R212). -/

theorem test_add_wraps : res (.add c0 3 1 2) [(1, 0xFFFFFFFF), (2, 2)] 3 = some (1, 0) := by decide
theorem test_sub_order : res (.sub c0 3 1 2) [(1, 5), (2, 7)] 3 = some (0xFFFFFFFE, 0) := by decide
theorem test_mulh_signed : res (.mulhI32 c0 3 1 2) [(1, 0xFFFFFFFF), (2, 2)] 3 = some (0xFFFFFFFF, 0) := by decide
theorem test_mulh_unsigned : res (.mulhN32 c0 3 1 2) [(1, 0xFFFFFFFF), (2, 2)] 3 = some (1, 0) := by decide
theorem test_mad_accumulates : res (.mad c0 3 1 2) [(1, 3), (2, 4), (3, 5)] 3 = some (17, 0) := by decide
theorem test_min_signed : res (.minI32 c0 3 1 2) [(1, 0x80000000), (2, 1)] 3 = some (0x80000000, 0) := by decide
theorem test_min_unsigned : res (.minN32 c0 3 1 2) [(1, 0x80000000), (2, 1)] 3 = some (1, 0) := by decide
theorem test_andn_order : res (.andn c0 3 1 2) [(1, 0xF), (2, 5)] 3 = some (0xA, 0) := by decide
/-- R293: an amount of 32 or more gives 0, or the sign. -/
theorem test_shl_full : res (.shl c0 3 1 2) [(1, 0xFFFFFFFF), (2, 32)] 3 = some (0, 0) := by decide
theorem test_sar_full : res (.sar c0 3 1 2) [(1, 0x80000000), (2, 40)] 3 = some (0xFFFFFFFF, 0) := by decide
theorem test_rol : res (.rol c0 3 1 2) [(1, 0x80000001), (2, 33)] 3 = some (3, 0) := by decide
theorem test_addi_signed : res (.addi c0 5 5 0x7F) [(5, 0)] 5 = some (0xFFFFFFFF, 0) := by decide
theorem test_bfx_example : res (.bfx c0 7 8 9) [(8, 0x0F30), (9, 0x00010604)] 7 = some (0xFFFFFFF3, 0) := by decide
theorem test_abs_most_negative : res (.abs c0 3 1) [(1, 0x80000000)] 3 = some (0x80000000, 0) := by decide
theorem test_clz_zero : res (.clz c0 3 1) [(1, 0)] 3 = some (32, 0) := by decide
theorem test_brev : res (.brev c0 3 1) [(1, 3)] 3 = some (0xC0000000, 0) := by decide +kernel
theorem test_popc : res (.popc c0 3 1) [(1, 0xF0F)] 3 = some (8, 0) := by decide
theorem test_movi_sign : res (.movi c0 3 0x3FFF) [] 3 = some (0xFFFFFFFF, 0) := by decide
theorem test_add_pair_carries :
    (after (.addB64 c0 4 2 6) (benchV [(2, 0xFFFFFFFF), (6, 1)]) fun t => (t.t.r.getV false 4 0, t.t.r.getV false 5 0)) = some (0, 1) := by
  decide
theorem test_cmp_signed :
    (after (.cmpLtI32 c0 3 1 2) (benchV [(1, 0xFFFFFFFF)]) fun t => t.t.r.getP false 3) = some 0xFF := by decide
theorem test_cmp_unsigned :
    (after (.cmpLtN32 c0 3 1 2) (benchV [(1, 0xFFFFFFFF)]) fun t => t.t.r.getP false 3) = some 0 := by decide
theorem test_p0_discards : (after (.cmpNe c0 0 1 2) (benchV []) fun t => (t.t.r.p, t.t.r.getP false 0)) = some ([], BitVec.allOnes 64) := by
  decide
/-- R154, R266: the word goes on at the next word. -/
theorem test_pc_advances : (after (.nop c0) bench fun t => t.t.split.pc.toNat) = some (benchText + 4) := by decide
theorem test_literal_skipped : (after (.movk c0 3 0x1234) bench fun t => (t.t.split.pc.toNat, t.t.r.getV false 3 7)) =
    some (benchText + 8, 0x1234) := by decide
/-- R265: with G = 11 a word acts where g0 is false; g0 is p0, which reads 1. -/
theorem test_guard_false : res (.add ⟨false, 3⟩ 3 1 2) [(1, 1), (2, 2)] 3 = some (0, 0) := by decide

theorem test_fadd_h16x2_example : res (.faddH16x2 c0 3 1 2) [(1, 0x7BFF3C00), (2, 0x3C003C00)] 3 = some (0x7BFF4000, 16) := by decide
theorem test_ffma_example : res (.ffma c0 5 1 2) [(1, 0x3F800001), (2, 0x3F7FFFFF), (5, 0xBF800000)] 5 = some (0x337FFFFE, 0) := by decide
theorem test_fmul_example : res (.fmul c0 6 1 2) [(1, 0x3F800001), (2, 0x3F7FFFFF)] 6 = some (0x3F800000, 16) := by decide
theorem test_fmin_signalling : res (.fmin c0 3 1 2) [(1, 0x7F800001), (2, 0x3F800000)] 3 = some (0x3F800000, 1) := by decide
theorem test_fabs_nan : res (.fabs c0 3 1) [(1, 0xFFC01234)] 3 = some (0x7FC00000, 0) := by decide
theorem test_fscale_example : res (.fscale c0 3 1 2) [(1, 0x42FE0000), (2, 0xFFFFFFFA)] 3 = some (0x3FFE0000, 0) := by decide
theorem test_fscale_overflow : res (.fscale c0 3 1 2) [(1, 0x3F800000), (2, 200)] 3 = some (0x7F800000, 20) := by decide
theorem test_fclass_subnormal : res (.fclass c0 3 1) [(1, 0x80000001)] 3 = some (4, 0) := by decide
theorem test_fclass_signalling : res (.fclass c0 3 1) [(1, 0xFF800001)] 3 = some (0x100, 0) := by decide
theorem test_frnd_rne : res (.frnd c0 3 1 0) [(1, 0xBE99999A)] 3 = some (0x80000000, 16) := by decide
theorem test_frnd_rd : res (.frnd c0 3 1 3) [(1, 0xBF000000)] 3 = some (0xBF800000, 16) := by decide
theorem test_fcvt_saturates : res (.fcvt c0 3 1 0 10) [(1, 0x4F32D05E)] 3 = some (0x7FFFFFFF, 1) := by decide
theorem test_fcvt_rd : res (.fcvt c0 3 1 3 10) [(1, 0xC0200000)] 3 = some (0xFFFFFFFD, 16) := by decide
theorem test_fcvt_rz_down : res (.fcvt c0 3 1 1 12) [(1, 0x7FFFFFFF)] 3 = some (0x4EFFFFFF, 16) := by decide
theorem test_fcvt_t8 : res (.fcvt c0 3 1 0 6) [(1, 0x3DCCCCCD)] 3 = some (0x15, 16) := by decide +kernel
theorem test_fdiv_zero : res (.fdiv c0 3 1 2) [(1, 0xC0C00000)] 3 = some (0xFF800000, 2) := by decide
theorem test_fdiv_third : res (.fdiv c0 3 1 2) [(1, 0x3F800000), (2, 0x40400000)] 3 = some (0x3EAAAAAB, 16) := by decide
theorem test_frcp_third : res (.frcp c0 3 1) [(1, 0x40400000)] 3 = some (0x3EAAAAAB, 16) := by decide
theorem test_fsqrt_two : res (.fsqrt c0 3 1) [(1, 0x40000000)] 3 = some (0x3FB504F3, 16) := by decide +kernel
theorem test_frsq_zero : res (.frsq c0 3 1) [(1, 0x80000000)] 3 = some (0xFF800000, 2) := by decide
theorem test_fexp2_subnormal : res (.fexp2 c0 3 1) [(1, 0xC3150000)] 3 = some (1, 0) := by decide
theorem test_fexp2_tie : res (.fexp2 c0 3 1) [(1, 0xC3160000)] 3 = some (0, 24) := by decide
theorem test_flog2_eight : res (.flog2 c0 3 1) [(1, 0x41000000)] 3 = some (0x40400000, 0) := by decide
theorem test_fsinpi_integer : res (.fsinpi c0 3 1) [(1, 0xC0400000)] 3 = some (0x80000000, 0) := by decide

/-! Uniform, predicate, exchange, control and memory words. -/

/-- The bench with these uniform registers. -/
def benchS (xs : List (Nat × Dword)) : State := benchT fun t => xs.foldl (fun u x => u.putS x.1 x.2) t
/-- A uniform register after one word. -/
def resS (i : Instr) (xs : List (Nat × Dword)) (d : Nat) : Option Dword := after i (benchS xs) fun t => t.t.r.getS false d
/-- The bench with lane register `n` holding the lane's number. -/
def benchLane (n : Nat) : State := benchT fun t => t.putV n t.all fun l => BitVec.ofNat 32 l

theorem test_sadd_wraps : resS (.sadd c0 3 1 2) [(1, BitVec.allOnes 64), (2, 2)] 3 = some 1 := by decide
theorem test_smul_low : resS (.smul c0 3 1 2) [(1, 0x100000000), (2, 0x100000001)] 3 = some 0x100000000 := by decide
theorem test_sshl_full : resS (.sshl c0 3 1 2) [(1, 1), (2, 64)] 3 = some 0 := by decide
theorem test_saddi_sign : resS (.saddi c0 3 1 0x7F) [(1, 1)] 3 = some 0 := by decide
theorem test_smovk_zero_extends : resS (.smovk c0 3 0xFFFFFFFF) [] 3 = some 0xFFFFFFFF := by decide
theorem test_scmp_unsigned : (after (.scmpLtN64 c0 3 1 2) (benchS [(2, BitVec.allOnes 64)]) fun t => t.t.r.getP false 3) = some 0xFF := by
  decide
theorem test_rdln : (after (.rdln c0 3 9 5) (benchLane 9) fun t => t.t.r.getS false 3) = some 5 := by decide
theorem test_rdln_above_width : (after (.rdln c0 3 9 8) (benchLane 9) fun t => t.t.r.getS false 3) = some 0 := by decide
theorem test_pset : (after (.pset c0 5 1) bench fun t => t.t.r.getP false 5) = some 0xFF := by decide
theorem test_elect : (after (.elect c0 3) bench fun t => t.t.r.getP false 3) = some 1 := by decide
theorem test_ballot : (after (.ballot c0 10 0) bench fun t => (t.t.r.getV false 10 3, t.t.r.getV false 11 3)) = some (0xFF, 0) := by decide
theorem test_shfl_xor_swaps :
    (after (.shflXor c0 4 4 1) ((benchLane 4).onT fun t => t.putV 1 t.all fun _ => 1) fun t => (t.t.r.getV false 4 0, t.t.r.getV false 4 1)) =
      some (1, 0) := by decide
theorem test_shfl_up_edge :
    (after (.shflUp c0 4 5 1) ((benchLane 5).onT fun t => t.putV 1 t.all fun _ => 1) fun t => (t.t.r.getV false 4 7, (t.t.r.getP false 4).toNat)) =
      some (6, 0xFE) := by decide
theorem test_redux_add : (after (.redux c0 12 11 0) (benchLane 11) fun t => t.t.r.getV false 12 3) = some 28 := by decide
theorem test_scan_add : (after (.scan c0 12 11 0) (benchLane 11) fun t => (t.t.r.getV false 12 0, t.t.r.getV false 12 3)) = some (0, 6) := by
  decide
theorem test_wid : (after (.wid c0 4) bench fun t => (t.t.r.getV false 4 2, t.t.r.getV false 5 2, t.t.r.getV false 6 2, t.t.r.getV false 7 2)) =
    some (8, 8, 1, 2) := by decide +kernel

theorem test_idem_sets_region : (after (.idem false) bench fun t => (t.t.split.region.toNat, t.t.split.count, t.t.split.pc.toNat)) =
    some (benchText, 1, benchText + 4) := by decide
theorem test_trap_record : (after (.trap c0 0x123) bench fun t => t.t.split.recs.map fun r => (r.cause, r.lanes, r.info)) =
    some [(0x20, 0xFF, 0x16800123)] := by decide
theorem test_trap_keeps_pc : (after (.trap c0 0x123) bench fun t => t.t.split.pc.toNat) = some benchText := by decide
theorem test_bra_target : (after (.bra c0 0x1FFFFD) (benchT fun t => t.setSplit { t.split with pc := BitVec.ofNat 64 (benchText + 4) }) fun t =>
    (t.t.split.pc.toNat, t.t.split.mask)) = some (benchText - 36, 0xFF) := by decide
theorem test_exit_ends : (after (.exit c0) bench fun t => (t.t.d.exited, t.t.life)) = some (0xFF, .ended) := by decide
theorem test_jmpi_not_packet : (after (.jmpi c0 5) (benchS [(5, 0x100000004)]) fun t => t.t.split.recs.map Rec.cause) = some [0x02] := by decide
theorem test_eret_in_user_mode : (after (.eret false) bench fun t => t.t.split.recs.map Rec.cause) = some [0x03] := by decide
theorem test_out_of_budget : (after (.add c0 3 1 2) (benchT fun t => { t with i := { t.i with regs := 2 } }) fun t =>
    t.t.split.recs.map Rec.cause) = some [0x04] := by decide
theorem test_bar_arrive_parity : (after (.barArrive false 5 2) bench fun t =>
    ((t.bar ⟨0, 1, 0, 2⟩).map fun b => (b.phase, b.arrived), t.t.r.getP false 5)) = some (some (1, 0), 0) := by decide

theorem test_stp_then_bytes : (after (.stp c0 1 2 4 0) (benchV [(1, 0x11223344), (2, 8)]) fun t =>
    (List.range 4).map fun i => Table.get 0 t.t.priv (privKey 3 (8 + i))) = some [0x44, 0x33, 0x22, 0x11] := by decide
theorem test_ldp_sign : (after (.ldp c0 1 2 1 0) ((benchV [(2, 8)]).onT fun t => t.setPriv 3 8 [0x80]) fun t => t.t.r.getV false 1 3) =
    some 0xFFFFFF80 := by decide
theorem test_misaligned_lds : (after (.lds c0 1 2 4 0) (benchV [(2, 6)]) fun t => t.t.split.recs.map fun r => (r.cause, r.info)) =
    some [(0x0A, 0x1100000000000006)] := by decide
theorem test_unmapped_ldg : (after (.ldg c0 1 10 0 0 0) (benchV [(20, 16)]) fun t => t.t.split.recs.map fun r => (r.cause, r.info)) =
    some [(0x08, 0x3300000000000010)] := by decide
theorem test_ldg_queued : (after (.ldg c0 1 10 0 3 0) (benchV [(21, 1)]) fun t => (t.t.c.ops.map Op.counter, t.t.r.getV false 1 0)) =
    some ([3], 0) := by decide
theorem test_sld : (after (.sld c0 1 0 5 3) (benchS [(0, 0x10000)]) fun t => t.t.split.recs.map fun r => (r.cause, r.info)) =
    some [(0x0A, 0x0400000000010018)] := by decide
theorem test_rdst_lane : (after (.rdst c0 6 0 0) bench fun t => t.t.r.getV false 6 5) = some 5 := by decide
theorem test_wrst_quantum : (after (.wrst c0 9 0 0x010) (benchV [(9, 0x105)]) fun t => t.t.d.quantum) = some 5 := by decide
theorem test_spawn_refused : (after (.spawn c0 3 4 0) (benchS [(4, 0x100000000)]) fun t => (t.q.nextSeq, t.t.r.getS false 3)) =
    some (2, 0x8000000000000001) := by decide +kernel
theorem test_svc_suspends : (after (.svc c0 2 1) bench fun t => (t.t.split.asleep, t.t.split.asked)) = some (true, some 1) := by decide
/-- R227, R235: a clear goes through the array. -/
theorem test_zclr_queued : (after (.zclr c0 1) bench fun t => t.t.m.mat.map fun o => (o.tile, o.rows, o.clear)) = some [(1, 0xFF, true)] := by
  decide
/-- R183: the handler's address is 0 on the bench, so a delivered trap ends the train with a grid error (R143). -/
theorem test_trap_without_handler :
    (after .trapEntry ((bench.raise 0x20 0xFF 0).onT id |> fun s => { s with subject := ⟨1, 0, 0⟩ }) fun t =>
      (t.t.life, (t.grid 1).map Grid.error)) = some (.ended, some true) := by decide
/-- R266: a step of a state that withFetchWord made runs that word first. -/
theorem test_step_runs : (match step (State.reset.withFetchWord 32 0x0560FFFF) with
    | .next t => some (t.t.r.getV false 3 0, t.t.split.pc.toNat)
    | _ => none) = some (0xFFFFFFFF, benchText + 4) := by decide +kernel

/-! For each obligation with hypotheses, a state and operands that meet them together. -/

theorem admits_all {s : State} {l : List (Instr × List Need)} (h : l.all (admits s) = true) : ∀ p ∈ l, s.Admits p.1 p.2 :=
  fun p hp => admits_of (List.all_eq_true.mp h p hp)

theorem witness_LaneWordResults : ∀ p ∈ ([(.add c0 3 1 2, needs3 3 1 2), (.addS c0 3 1 63, needs3S 3 1 63), (.movk c0 127 9, [Need.v 127 0]),
    (.clz c0 3 1, needs2 3 1), (.brev c0 3 1, needs2 3 1), (.bfx c0 3 1 2, needs3 3 1 2), (.bfi c0 3 1 2, needs3 3 1 2)] :
    List (Instr × List Need)), bench.Admits p.1 p.2 := admits_all (by decide)
theorem witness_LanePairResults : bench.Admits (.addB64 c0 126 2 4) (needsPair 126 2 4) := admits_of (by decide)
theorem witness_CompareResults : ∀ p ∈ ([(.cmpEq c0 3 1 2, needsCmp 3 1 2), (.cmpiLtN32 c0 0 1 2, [Need.p 0, Need.v 1 0]),
    (.fcmpLtF32 c0 3 1 2, [Need.p 3, Need.v 1 0, Need.v 2 0]), (.fcmpEqF64 c0 3 2 4, [Need.p 3, Need.v 2 1, Need.v 4 1])] :
    List (Instr × List Need)), bench.Admits p.1 p.2 := admits_all (by decide)
theorem witness_FloatWordResults : ∀ p ∈ ([(.fadd c0 3 1 2, needs3 3 1 2), (.ftanh c0 3 1, needs2 3 1),
    (.faddF64 c0 4 2 6, needsPair 4 2 6)] : List (Instr × List Need)), bench.Admits p.1 p.2 := admits_all (by decide)
theorem witness_ConversionResults : ∀ p ∈ ([(.fcvt c0 3 1 1 10, [Need.v 3 0, Need.v 1 0]), (.fcvt c0 3 2 0 0, [Need.v 3 0, Need.v 2 1]),
    (.fcvtPk c0 3 4 0 0, [Need.v 3 0, Need.v 4 1]), (.fcvtPk c0 3 4 0 4, [Need.v 3 0, Need.v 4 3]), (.fcvtPk c0 4 1 0 2, [Need.v 4 1, Need.v 1 0]),
    (.fcvtPk c0 4 1 0 5, [Need.v 4 3, Need.v 1 0])] : List (Instr × List Need)), bench.Admits p.1 p.2 := admits_all (by decide)
/-- Infinity less infinity is a NaN. -/
theorem witness_NansAreCanonical : (decodeF f32 (subF f32 (rd32 0x7F800000) (rd32 0x7F800000)).1).isNan = true := by decide
/-- 2.5 does not overflow; 2 and 3 lie as near to it. -/
theorem witness_RoundingIsCorrect : f32 ∈ ([f64, f32, h16, bf16] : List FFmt) ∧ (roundDy f32 .rne ⟨5, -1⟩ false).2.of = false ∧
    (decodeF f32 0x40000000).isNumber = true := by decide
theorem witness_UniformWordResults : ∀ p ∈ ([(.sadd c0 3 1 2, needsU 3 1 2), (.wid c0 4, [Need.v 4 3]), (.rdln c0 3 9 5, [Need.s 3 0, Need.v 9 0])] :
    List (Instr × List Need)), bench.Admits p.1 p.2 := admits_all (by decide)
theorem witness_UniformCompares : bench.Admits (.scmpEq c0 3 1 2) [Need.p 3, Need.s 1 0, Need.s 2 0] ∧ fld 0x11818082 21 8 = 0x8C#8 ∧
    fld 0x11A18082 21 8 = 0x8D#8 ∧ fld 0x11C18082 21 8 = 0x8E#8 := ⟨admits_of (by decide), by decide⟩
theorem witness_PredicatesAndGuards : bench.Admits (.pand c0 3 1 2) (needsP 3 1 2) ∧ bench.Admits (.guard c0 1 5) [Need.p 5] ∧
    bench.t.group = none := ⟨admits_of (by decide), admits_of (by decide), rfl⟩
theorem witness_ExchangeResults : bench.Admits (.shflUp c0 4 5 1) (needs3 4 5 1) ∧ bench.Admits (.redux c0 4 5 10) (needs2 4 5) :=
  ⟨admits_of (by decide), admits_of (by decide)⟩

/-- A fast granule of the bench's partition. -/
def fastG : Gran := ⟨15, .fast, [], [], false, false, false, some 1, none⟩
/-- The state with granule `g` mapped for every access at 0x2_0000_0000 + 64 KiB × g. -/
def withPage (s : State) (g : Nat) (e : Gran) : State :=
  { s with m := { s.m with maps := s.m.maps ++ [⟨15, 0x200000000 + 65536 * g, 65536, 65536 * g, 65536, 7, false, 0, false, false, false⟩],
                           tier := s.m.tier ++ [(g, e)] } }
/-- The bench with page 2, and its address in v20 and v21 of every lane. -/
def benchG (e : Gran) : State := (withPage bench 2 e).onT fun t => (t.putV 20 t.all fun _ => 0x20000).putV 21 t.all fun _ => 2
/-- The bench with a remote window at 0x3_0000_0000 that allows reads. -/
def benchW : State := { bench with k := { bench.k with windows := [⟨0, 0, 15, 0x300000000, 65536, 7, 0, 1⟩] } }

theorem witness_AddressChecks : (0 < 4 ∧ 4 ≤ 16) ∧ (0x200020000 < 2 ^ 56 ∧ 0x200020000 % 4 = 0 ∧ (benchG fastG).window 15 0x200020000 = none ∧
    ((benchG fastG).m.mapping 15 0x200020000).isSome = true) ∧ ((bench.window 15 0x200020000) = none ∧ bench.m.mapping 15 0x200020000 = none) ∧
    (benchW.window 15 0x30000FFFC).isSome = true ∧
    (let s := benchT fun t => (t.withR { t.r with p := [(1, 1)], g0 := 1 }).putV 2 t.all fun _ => 0xFFFFFFFF
     s.t.act ⟨false, 1⟩ = laneBit 0 ∧ ∀ space ∈ [0, 1, 2, 4], s.localFault space 0xFFFFFFFF 4 1 = some 0) := by decide
theorem witness_LoadResults : bench.Admits (.ldp c0 1 2 4 0) (needsN 1 2 4) ∧ bench.mayAct Order.plain = true ∧
    bench.Admits (.ldc c0 1 2 4 0) (needsN 1 2 4) ∧ (∀ l ∈ lanes (bench.t.act c0), bench.localFault 2 (bench.t.v 2 l).toNat 4 1 = none) ∧
    (∀ l ∈ lanes (bench.t.act c0), bench.localFault 0 ((bench.t.v 2 l).toNat + 0) 4 1 = none ∧
      bench.readLocal 0 l ((bench.t.v 2 l).toNat + 0) 4 = (bench, some [0, 0, 0, 0])) ∧
    bench.Admits (.sld c0 3 1 4 0) [Need.s 3 0, Need.s 1 0] ∧ (bench.t.s 1).toNat < 65536 ∧ bench.readConst 0 4 = (bench, some [0, 0, 0, 0]) :=
  ⟨admits_of (by decide), by decide, admits_of (by decide), by decide, fun l hl => ⟨rfl, Prod.ext rfl (by revert l hl; decide)⟩, admits_of (by decide), by decide, rfl⟩
theorem witness_StoreResults : bench.Admits (.stp c0 1 2 4 0) (needsN 1 2 4) ∧ bench.Admits (.sts c0 1 2 4 0) (needsN 1 2 4) ∧
    bench.t.acquiring = false ∧ bench.t.noRoom 16 true = false ∧
    (∀ l ∈ lanes (bench.t.act c0), bench.localFault 0 (bench.t.v 2 l).toNat 4 1 = none ∧ bench.t.privPoisoned l (bench.t.v 2 l).toNat 4 = false ∧
      bench.localFault 1 (bench.t.v 2 l).toNat 4 1 = none ∧ bench.localFault 2 (bench.t.v 2 l).toNat 4 1 = none) :=
  ⟨admits_of (by decide), admits_of (by decide), by decide, by decide, by decide⟩

/-- The bench's train with one pending operation on counter 3. -/
def pendingOp (w : Work) (counter : Nat) : Op :=
  ⟨0, w, counter, 0xFF, 0xFF, 0, 0, 0, 0, 0, [], false, false, false, false, false, none, 0, 0, 0, false, false, false, [], 0, 0, false⟩
def benchOp (w : Work) (counter : Nat) : State := benchT fun t => { t with c := { t.c with ops := [pendingOp w counter] } }
/-- `lds`: the words that each lane's scratchpad place holds come; a word that names the register waits until then. -/
def localW : Work := .localLoad 4 false 4 ((List.range 8).map fun l => ⟨l, 0, 8, 0, 0, none, none, false⟩)
theorem witness_LoadResults_reply : (let s := { (benchOp localW 16) with subject := ⟨1, 0, 64⟩ }
    s.t.life = .running ∧ s.t.op 0 = some (pendingOp localW 16) ∧ s.mayPerform (pendingOp localW 16) = true ∧ (pendingOp localW 16).stop = none ∧
      (retireOps [] s.t.c.ops).1 = [] ∧ (pendingOp localW 16).prv = s.t.x.priv ∧ List.range 8 = lanes (pendingOp localW 16).lanes ∧
      s.t.awaited (.v 4 0) = true ∧ s.t.group = none ∧ s.t.live ≠ 0 ∧ s.t.inBudget (.v 4 0) = true ∧
      after .loadReply s (fun t => (t.t.r.getV false 4 7, t.t.c.ops.length)) = some (0, 0)) ∧ (benchOp localW 16).t.Lone :=
  ⟨by decide, lone_of (by decide)⟩
/-- `sts`: its store, of two lanes that write one word, is performed. -/
theorem witness_StoreResults_performed :
    (let o := pendingOp (.store 1 4 [⟨0, 0, 8, 7, 0, none, none, false⟩, ⟨1, 0, 8, 9, 0, none, none, false⟩]) 16
     let s := { (benchT fun t => { t with c := { t.c with ops := [o] } }) with subject := ⟨1, 0, 64⟩ }
     s.t.life = .running ∧ s.subject = ⟨s.t.i.id, o.id, 64⟩ ∧ s.t.op o.id = some o ∧ o.done = false ∧ s.mayPerform o = true ∧ o.stop = none ∧
       (retireOps [] s.t.c.ops).1 = [] ∧
       after .storePerformed s (fun t => t.scratchRead 1 0 8 1) = some [9]) := by decide
/-- The bench with lanes 0 to 3 in slot 0 and lanes 4 to 7 in slot 1, 8 bytes on. -/
def benchTwo : State := benchT fun t => { t with d := { t.d with
  slot0 := { t.d.slot0 with mask := 0x0F }, slot1 := { t.d.slot0 with mask := 0xF0, pc := t.d.slot0.pc + 8 } } }
/-- The bench with p1 true in lanes 0 to 3 and g0 naming it. -/
def benchP : State := benchT fun t => t.withR { t.r with p := [(1, 0x0F)], g0 := 1 }

theorem witness_WordsThatGoOn : bench.t.Lone ∧ bench.Admits (.nop c0) [] ∧ bench.Admits (.tinv false 4 0) [Need.s 4 0] ∧
    (bench.t.outstanding 1 ≤ 0 ∧ bench.t.c.err.getLsbD 1 = false ∧ bench.t.unperformed = [] ∧
      (benchOp (.store 3 4 []) 3).t.unperformed ≠ []) ∧
    (benchT fun t => { t with x := { t.x with priv := true } }).t.x.priv = true ∧ bench.t.act ⟨false, 3⟩ = 0 ∧ bench.Admits (.trap ⟨false, 3⟩ 1) [] :=
  ⟨lone_of (by decide), admits_of (by decide), admits_of (by decide), by decide, by decide, by decide, admits_of (by decide)⟩
theorem witness_WordsThatGoOn_wait : (benchOp .reply 3).t.Lone ∧ (benchOp .reply 3).Admits (.wait false 3 0) [] ∧
    0 < (benchOp .reply 3).t.outstanding 3 ∧ (benchT fun t => { t with c := { t.c with err := 8 } }).t.c.err.getLsbD 3 = true :=
  ⟨lone_of (by decide), admits_of (by decide), by decide, by decide⟩
theorem witness_WordsThatGoOn_yield : benchTwo.Admits (.yield c0) [] ∧ benchTwo.t.act c0 ≠ 0 ∧ benchTwo.t.canIssue (!benchTwo.t.d.cur) = true ∧
    benchTwo.t.split.recs = [] ∧ benchTwo.t.split.held = false ∧ benchTwo.t.split.half = none ∧
    (benchTwo.t.slot (!benchTwo.t.d.cur)).held = false ∧ benchTwo.t.d.depth ≤ benchTwo.t.base ∧
    (benchTwo.t.slot (!benchTwo.t.d.cur)).pc ≠ benchTwo.t.split.pc + 4 :=
  ⟨admits_of (by decide), by decide, by decide, by decide, by decide, by decide, by decide, by decide, by decide⟩
theorem witness_BranchesAndJumps : bench.t.Lone ∧ bench.t.d.depth ≤ 128 ∧ bench.Admits (.bra c0 5) [] ∧
    (bench.t.act c0 = bench.t.split.mask ∧ bench.t.act ⟨false, 3⟩ = 0) ∧ (benchP.t.act ⟨false, 1⟩ ≠ 0 ∧ benchP.t.act ⟨false, 1⟩ ≠ benchP.t.split.mask ∧
      benchP.t.awaits benchP.t.split = false) ∧
    benchP.packetAddr + 12 * (BitVec.signExtend 64 (5 : BitVec 21)) ≠ benchP.t.split.pc + 4 ∧
    ((benchS [(5, 0x100000000)]).isPacket 15 0x100000000 = true) :=
  ⟨lone_of (by decide), by decide, admits_of (by decide), by decide, by decide, by decide, by decide⟩
theorem witness_CallsForksAndJoins : bench.t.Lone ∧ bench.Admits (.call c0 5) [] ∧ bench.Admits (.ret c0) [] ∧ bench.Admits (.fork false 5) [] ∧
    bench.Admits (.join false) [] ∧ (∀ l < 64, bench.t.split.mask.getLsbD l = true → bench.t.privPoisoned l 0xDFF8 4 = false ∧ bench.t.depthOf l < 31 ∧
      bench.t.privPoisoned l (0xDF00 + 8 * bench.t.depthOf l) 8 = false) ∧
    (bench.packetAddr + 12).toNat < 2 ^ 56 ∧ (bench.t.d.depth = bench.t.base ∧ bench.t.d.depth < 128 ∧ bench.t.split.frame = 0) ∧
    (bench.packetAddr + 12 * (BitVec.signExtend 64 (5 : BitVec 21))).toNat % 4 = 0 ∧ bench.t.split.mask &&& ~~~bench.t.d.exited = bench.t.split.mask :=
  ⟨lone_of (by decide), admits_of (by decide), admits_of (by decide), admits_of (by decide), admits_of (by decide), by decide, by decide, by decide,
    by decide, by decide⟩
/-- `ret`: the state that a `call` leaves. -/
theorem witness_CallsForksAndJoins_ret : (after (.call c0 0) bench fun t => (List.range 8).all fun l => decide (0 < t.t.depthOf l ∧ t.t.depthOf l ≤ 31 ∧
    t.t.privPoisoned l (0xDF00 + 8 * (t.t.depthOf l - 1)) 8 = false ∧ t.t.returnAt l (t.t.depthOf l - 1) = benchText + 12)) = some true := by
  decide +kernel
/-- `join`: the state that a `fork` whose join address is that of its own packet leaves, at that address. -/
theorem witness_CallsForksAndJoins_join : (after (.fork false 0) bench fun t =>
    let u := t.t.setSplit { t.t.split with pc := BitVec.ofNat 64 benchText }
    decide ((u.slot (!u.d.cur)).mask = 0 ∧ u.split.held = false ∧ u.split.recs = [] ∧ u.d.depth = u.base + 1 ∧ u.split.frame = u.d.depth ∧
      u.entry u.base = .frame ⟨BitVec.ofNat 64 benchText, 0xFF, 0, 0⟩ ∧ (0xFF : Mask) &&& ~~~u.d.exited &&& ~~~(0 ||| u.split.mask) = 0 ∧
      u.split.mask &&& ~~~u.d.exited ≠ 0)) = some true := by decide +kernel
theorem witness_ExitEndsLanes : bench.Admits (.exit c0) [] ∧ bench.t.Lone ∧ (benchP.t.act ⟨false, 1⟩ ≠ benchP.t.split.mask ∧
    benchP.t.split.mask &&& ~~~benchP.t.act ⟨false, 1⟩ &&& benchP.t.live ≠ 0) ∧ ((benchOp .reply 3).t.act c0 = (benchOp .reply 3).t.live ∧
    (benchOp .reply 3).t.c.ops ≠ [] ∧ (benchOp .reply 3).t.x.stores = []) := ⟨admits_of (by decide), lone_of (by decide), by decide, by decide⟩
theorem witness_TrapsAttachRecords : bench.t.Lone ∧ bench.t.act c0 ≠ 0 ∧ bench.t.x.priv = false ∧ bench.Admits (.trap c0 7) [] :=
  ⟨lone_of (by decide), by decide, by decide, admits_of (by decide)⟩

/-- The bench's barrier 2 of the team, and one with a second member. -/
theorem witness_Arrivals : bench.t.whole bench.t.split = true ∧ bench.bar (bench.barKey bench.t 2) = some (Bar.start ⟨0, 1, 0, 2⟩ 1) ∧
    bench.t.unperformed = [] ∧ bench.member bench.t 0 < 1 ∧ bench.Admits (.barArrive false 5 2) [Need.p 5] ∧
    bench.Admits (.barExpect false 3 2) [Need.s 3 0] := ⟨by decide, by decide, by decide, by decide, admits_of (by decide), admits_of (by decide)⟩
/-- The bench with barrier 2 of the team in this state. -/
def benchBar (b : Bar) : State := bench.setBar { b with key := ⟨0, 1, 0, 2⟩ }
theorem witness_Arrivals_faults : (benchBar { Bar.start ⟨0, 1, 0, 2⟩ 0 with count := 0 }).bar ⟨0, 1, 0, 2⟩ = some (Bar.start ⟨0, 1, 0, 2⟩ 0) ∧
    ((benchBar { Bar.start ⟨0, 1, 0, 2⟩ 1 with left := [0] }).bar ⟨0, 1, 0, 2⟩).map Bar.left = some [0] ∧
    ((benchBar { Bar.start ⟨0, 1, 0, 2⟩ 2 with seen := [0], arrived := 1 }).bar ⟨0, 1, 0, 2⟩).map Bar.seen = some [0] ∧
    bench.bar ⟨0, 1, 0, 40⟩ = none := by decide
theorem witness_BarrierWaits : bench.Admits (.barSync false 2) [] ∧ bench.t.Lone ∧ (bench.t.split.sync = none ∧
    (Bar.start ⟨0, 1, 0, 2⟩ 1).arrivalFault (bench.member bench.t 0) = none ∧ (Bar.start ⟨0, 1, 0, 2⟩ 1).lastErr = false) ∧
    (benchT fun t => t.setSplit { t.split with sync := some 0 }).t.split.sync = some 0 ∧
    bench.Admits (.barWait false 1 2) [Need.p 1] ∧ bench.Admits (.barTry false 3 1 2 0) [Need.p 3, Need.p 1, Need.s 0 0] ∧ bench.t.w.ranOut = false :=
  ⟨admits_of (by decide), lone_of (by decide), by decide, by decide, admits_of (by decide), admits_of (by decide), by decide⟩
theorem witness_BarrierWaits_coupling : benchTwo.t.whole benchTwo.t.split = false ∧ benchTwo.t.split.mask ≠ 0 ∧
    (benchTwo.t.slot (!benchTwo.t.d.cur)).mask ≠ 0 ∧ (benchTwo.t.slot (!benchTwo.t.d.cur)).held = false ∧
    (benchTwo.t.slot (!benchTwo.t.d.cur)).pc ≠ benchTwo.t.split.pc ∧ benchTwo.Admits (.barSync false 2) [] :=
  ⟨by decide, by decide, by decide, by decide, by decide, admits_of (by decide)⟩

/-- The state with these bytes written at a unified address. -/
def poke (s : State) (ua : Nat) (b : List Byte) : State := { s with m := s.m.put ua b [] }
/-- A deep granule, and a deep and dormant one. -/
def deepG : Gran := { fastG with tier := .deep, frame := none, loc := some 0 }
def sleepG : Gran := { deepG with dormant := true }
/-- The bench with no HBM share, so that no frame is free, and no window entry. -/
def poor (s : State) : State := { s with q := { s.q with parts := s.q.parts.map fun p => { p with hbm := 0, windows := 0 } } }
/-- Every lane of v20, v21 names page 2. -/
def addrs : List LaneAcc := (lanes (bench.t.act c0)).map fun l => (benchG fastG).laneAcc 0x200020000 0 0 l

theorem meets {s : State} {w : Bool} {acc : List LaneAcc} {g : Option Nat} (h : (s.meetHomes w acc).2 = g) : ∃ u, s.meetHomes w acc = (u, g) :=
  ⟨_, Prod.ext rfl h⟩

theorem witness_GlobalAccessesIssue : (benchG fastG).Admits (.ldg c0 1 10 0 3 0) [Need.v 1 (extraRegs 4), Need.v 20 1] ∧
    (benchG fastG).t.act c0 ≠ 0 ∧ (∀ l ∈ lanes ((benchG fastG).t.act c0), ((benchG fastG).t.vv 20 l).toNat % 2 ^ 64 = 0x200020000 ∧
      (benchG fastG).globalFault 15 0x200020000 4 rightRead false false = none) ∧
    (benchG fastG).t.acquiring = false ∧ (benchG fastG).t.noRoom 3 false = false ∧
    (benchG fastG).linesFull (linesOf addrs) = false ∧ (∀ x ∈ bench.t.unperformed, x.rel = 0) ∧
    ∃ u, (benchG fastG).meetHomes false addrs = (u, none) :=
  ⟨admits_of (by decide), by decide, by decide, by decide, by decide, by decide, by decide, meets (by decide)⟩
/-- A release guarded off in every lane behind an earlier store, and an acquire behind an earlier release. -/
theorem witness_GlobalAccessesIssue_order : (bench.t.act ⟨false, 3⟩ = 0 ∧ (bench.order false true 4).relAt ≠ 0 ∧
    (benchOp (.store 3 4 []) 16).t.unperformed ≠ []) ∧ (bench.order true false 4).acqAt ≠ 0 ∧
    (benchT fun t => { t with c := { t.c with ops := [{ pendingOp (.store 3 4 []) 16 with rel := 4 }] } }).t.unperformed.any (fun x => x.rel != 0) = true := by
  decide
theorem witness_AccessesThatStop : bench.Admits (.stg c0 1 10 0 3 0) [Need.v 1 (extraRegs 4), Need.v 20 1] ∧
    bench.globalFault 15 0 4 rightWrite false false = some (0x08, 3) ∧ bench.globalFault 15 2 4 rightWrite false false = some (0x0A, 1) ∧
    bench.globalFault 15 0x100000000 4 rightWrite false false = some (0x09, 4) := ⟨admits_of (by decide), by decide⟩
theorem witness_AccessesThatStop_waits :
    (benchT fun t => { t with c := { t.c with ops := [{ pendingOp .reply 16 with blocks := true }] } }).t.acquiring = true ∧
    (benchT fun t => { t with c := { t.c with ops := List.replicate 255 (pendingOp .reply 3) } }).t.outstanding 3 = 255 ∧
    (poor (benchG deepG)).linesFull (linesOf addrs) = false ∧ ∃ u, (poor (benchG deepG)).meetHomes false addrs = (u, some 2) := ⟨by decide, by decide +kernel, by decide, meets (by decide)⟩
theorem witness_TierMapAtIssue : (benchG fastG).m.gran (granuleOf 0x20000) = some fastG ∧ (benchG deepG).m.gran 2 = some deepG ∧
    (benchG deepG).frameFree 15 = true ∧ (poor (benchG deepG)).frameFree 15 = false ∧ (benchG sleepG).m.gran 2 = some sleepG ∧
    (benchG { fastG with tier := .demoting }).m.gran 2 = some { fastG with tier := .demoting } ∧ bench.ownerOf 15 2 = none ∧
    (benchG { fastG with tier := .promoting, lines := [0] }).m.gran 2 = some { fastG with tier := .promoting, lines := [0] } := by decide
theorem witness_AtomicsAndPrefetches : (benchG fastG).Admits (.atom c0 1 20 2 0x1000) (needsAtom false (some 1) 20 2 0x1000) ∧
    (atomLit 0x1000).space = 3 ∧ (benchG fastG).globalFault 15 0x200020000 4 rightAtomic true false = none ∧
    (benchG fastG).t.noRoom 0 true = false ∧ (benchG fastG).linesFull (linesOf addrs) = false ∧ (∃ u, (benchG fastG).meetHomes true addrs = (u, none)) ∧
    (benchG deepG).Admits (.pfg c0 20) [Need.v 20 1] ∧ (benchG deepG).m.translate 15 0x200020000 = some 0x20000 :=
  ⟨admits_of (by decide), by decide, by decide, by decide, by decide, meets (by decide), admits_of (by decide), by decide⟩

/-- A node, and an object of the bench's partition with handle 5: a resident root and an absent child. -/
def nodeR : Node := ⟨0x200020000, 0x41000000, 1, [1, 0, 0, 0], .resident, 0⟩
def objectR : Object := ⟨15, 5, 0, [], [nodeR, { nodeR with payload := 0x200030000, error := 0, children := [0, 0, 0, 0], state := .absent }], 1, 0, 0⟩
/-- The bench with it, its handle in v1, a key 0 in v2 and tolerance in v3. -/
def benchO (tol : Word) : State :=
  { (withPage bench 2 fastG).onT fun t => (t.putV 1 t.all fun _ => 5).putV 3 t.all fun _ => tol with o := ⟨[objectR], []⟩ }

theorem handles_all {s : State} {e : Mask} {h : Nat → Word} (w : (lanes e).all (fun l => decide ((h l).toNat < 0x10000) &&
    ((s.obj (h l)).map fun o => !s.treeBad o) == some true) = true) : s.Handles e h := by
  intro l hl
  have := List.all_eq_true.mp w l hl
  simp only [Bool.and_eq_true, decide_eq_true_eq, beq_iff_eq, Option.map_eq_some_iff, Bool.not_eq_true'] at this
  exact ⟨this.1, this.2⟩

theorem witness_ToleranceLoads : (benchO 0).Admits (.ldo c0 4 1 2) [Need.v 4 3, Need.v 1 2] ∧ (benchO 0).t.act c0 ≠ 0 ∧
    (benchO 0).Handles ((benchO 0).t.act c0) (fun l => (benchO 0).t.v 1 l) ∧
    pinFails (benchO 0).t ((benchO 0).walks ((benchO 0).t.act c0) 1) = [] ∧ (benchO 0).CanFetch 2 ∧
    (objectR.walk [0, 1] 0).2.2 = true ∧ (objectR.walk [0, 1] 0x42000000).2.2 = false :=
  ⟨admits_of (by decide), by decide, handles_all (by decide), by decide, ⟨by decide, by decide⟩, by decide, by decide⟩
theorem witness_PinsAndRequests : (benchO 0).Admits (.odrop c0 1) [Need.v 1 0] ∧ (benchO 0).mayAct Order.plain = true ∧ (benchO 0).CanFetch 0 ∧
    (benchO 0).Admits (.oreqEvict c0 4 1 2) [Need.v 4 1, Need.v 1 2] ∧ (benchO 0).Admits (.oreqRefine c0 4 1 2) [Need.v 4 1, Need.v 1 2] ∧
    (benchO 0).Handles ((benchO 0).t.act c0) (fun l => (benchO 0).t.v 1 l) ∧
    (∀ l ∈ lanes ((benchO 0).t.act c0), ((benchO 0).t.vk 1 2 l).toNat < objectR.nodes.length) :=
  ⟨admits_of (by decide), by decide, ⟨by decide, by decide⟩, admits_of (by decide), admits_of (by decide), handles_all (by decide), by decide⟩

/-- A one-dimensional shape of four words in page 2, and the bench with it, a box of its four elements in s8 to s11, and the flat address 0. -/
def shapeR : Shape := ⟨15, 1, [4, 0, 0, 0, 0], [4, 1, 1, 1, 1], 0x3F, 1, 4, 0x200020000⟩
def benchE : State :=
  { (withPage bench 2 fastG).onT fun t => ((t.putS 10 0x100000000).putS 11 0x0001000100010004) with o := ⟨[], [shapeR]⟩ }

theorem witness_EngineWords : benchE.t.whole benchE.t.split = true ∧ benchE.t.act c0 ≠ 0 ∧ benchE.t.CanQueue 1 ∧ benchE.t.m.lost = none ∧
    benchE.Admits (.tcopy c0 2 8 1 0 1) [Need.s 2 0, Need.s 8 3] ∧ benchE.shape 15 1 = some shapeR ∧ shapeRight shapeR 0 false = true ∧
    (benchE.t.box 8).2 = [4, 1, 1, 1, 1] ∧ (benchE.t.box 8).1 = [0, 0, 0, 0, 0] ∧ (benchE.t.old.getS false 10).toNat / 2 ^ 48 = 0 ∧
    benchE.flatTrap 0xFF 0 0 16 = none ∧ benchE.engineBar 0 0 = (none, none) ∧
    benchE.windowTrap 0xFF 0 0 4 16 (benchE.boxMoves shapeR 4 0 0 false [0, 0, 0, 0, 0] [4, 1, 1, 1, 1])
      (shapeR.boxPlaces [0, 0, 0, 0, 0] [4, 1, 1, 1, 1]) = none :=
  ⟨by decide, by decide, ⟨by decide, by decide⟩, by decide, admits_of (by decide), by decide, by decide, by decide, by decide, by decide, by decide,
    by decide, by decide⟩
/-- Row descriptors: ROWLEN 4, STRIDE 16, shape 1, in s2 and s3. -/
def benchRow : State := benchE.onT fun t => (t.putS 2 0x00040001).putS 3 0x1000000000
theorem witness_EngineWords_rows : benchRow.Admits (.tgath c0 2 12 1 0) [Need.s 2 1, Need.v 12 0] ∧
    (benchRow.t.rowDesc 2).high = 0 ∧ benchRow.shape 15 (benchRow.t.rowDesc 2).idx = some shapeR ∧ (benchRow.t.rowDesc 2).rowLen = 4 ∧
    (benchRow.t.rowDesc 2).stride = 16 ∧ (benchRow.t.rowDesc 2).barBad = false ∧
    (∀ l ∈ lanes (benchRow.t.act c0), benchRow.localFault 1 (l * 16) 1 16 = none) ∧
    benchRow.rowWindows (benchRow.t.act c0) shapeR (benchRow.t.rowDesc 2) (fun l => (benchRow.t.v 12 l).toNat) = [] ∧
    benchRow.engineBar (benchRow.t.rowDesc 2).lvl (benchRow.t.rowDesc 2).barn = (none, none) :=
  ⟨admits_of (by decide), by decide, by decide, by decide, by decide, by decide, by decide, by decide, by decide⟩

/-- A reservation of 2 KiB with KLEN 32 and blocks of 32, its record's bytes, and the bench with them in the constant space. -/
def resvBytes : List Byte := bytesOfNat 8 0x0000002000400200 ++ bytesOfNat 8 0x0000040000000100 ++ bytesOfNat 8 0x0000042000000000 ++ bytesOfNat 8 0
def resvR : Resv := readResv 3 (natOfBytes resvBytes)
def withConst (s : State) : State := { s with d := { s.d with grids := s.d.grids.map fun g =>
  { g with launch := { g.launch with const := 0x200020000, constLen := 64 } } } }
def benchC : State := poke (withConst (benchG fastG)) 0x20000 resvBytes
/-- The bench with the reservation, ABASE 0 and ASTRIDE 32 in s5, and a row number in v6. -/
def benchM : State := (bench.onTeam 1 0 fun m => { m with resv := [resvR] }).onT fun t =>
  (t.putS 5 0x2000000000).putV 6 t.all fun l => BitVec.ofNat 32 l

theorem witness_MatrixWords : benchC.Admits (.obres c0 3 0) [] ∧ benchC.t.whole benchC.t.split = true ∧ benchC.t.act c0 ≠ 0 ∧ benchC.t.m.lost = none ∧
    benchC.mayAct Order.plain = true ∧ benchC.resv 3 = none ∧ (benchC.readConst 0 32).2 = some resvBytes ∧
    resvLegal (natOfBytes resvBytes) ((benchC.recOf benchC.t).obuf / 1024) resvR = true ∧ benchC.myTeam.map Team.resv = some [] :=
  ⟨admits_of (by decide), by decide, by decide, by decide, by decide, by decide, by decide, by decide, by decide⟩
theorem witness_MatrixWords_mma : benchM.Admits (.mma c0 1 6 5 3) [Need.z 1, Need.v 6 0, Need.s 5 0] ∧ benchM.resv 3 = some resvR ∧
    32 * (0 + 1) ≤ resvR.klen ∧ benchM.rowChecks 0xFF 6 (benchM.t.s 5) resvR = [] ∧ (∀ x ∈ benchM.channels resvR 0, x < resvR.klen) ∧
    benchM.marked (resvR.permUnits 0) = none ∧ benchM.mayAct Order.plain = true ∧ benchM.gatherWaits 0xFF 6 (benchM.t.s 5) resvR 0 (benchM.channels resvR 0) = false ∧ benchM.t.m.mat.length + benchM.t.m.ice.length < 4 ∧
    benchM.Admits (.zclr c0 1) [Need.z 1] ∧ benchM.Admits (.zmov c0 8 1 2) [Need.v 8 7, Need.z 1] ∧ benchM.t.tileBusy 1 = false :=
  ⟨admits_of (by decide), by decide, by decide, by decide, by decide, by decide, by decide, by decide, by decide, admits_of (by decide), admits_of (by decide),
    by decide⟩

/-- A ray set of 16 rays with one hitgroup, its record's bytes, and the bench with them in page 2, an installed scene, and ray numbers in v6. -/
def setBytes : List Byte := bytesOfNat 8 0x200024000 ++ bytesOfNat 8 0x200021000 ++ bytesOfNat 8 0x200022000 ++ bytesOfNat 8 0x200023000 ++
  bytesOfNat 4 16 ++ bytesOfNat 4 1 ++ List.replicate 24 0
def benchRay : State :=
  let s := poke ((withPage bench 2 fastG).onT fun t => (t.putS 2 0x200020000).putV 6 t.all fun l => BitVec.ofNat 32 l) 0x20000 setBytes
  { s with q := { s.q with images := s.q.images.map fun i => { i with scenes := [0x200024000] } } }

theorem witness_RayAndTextureWords : benchRay.Admits (.rayq c0 2 6 1 0) [Need.s 2 0, Need.v 6 0] ∧ benchRay.t.act c0 ≠ 0 ∧
    (benchRay.CanFetch 1 ∧ benchRay.mayFetch true = true ∧ benchRay.mayAct Order.plain = true) ∧ (benchRay.globalFault 15 0x200020000 64 rightRead false false = none ∧
    (benchRay.meetNow false (benchRay.pieces 0x200020000 64)).2 = none ∧
    (benchRay.readWords 15 0x200020000 2).2.toOption = some setBytes ∧ setBytes.length = 64 ∧ benchRay.setOk (readSet 0x200020000 15 (natOfBytes setBytes)) (natOfBytes setBytes) = true) ∧
    (∀ l ∈ lanes (benchRay.t.act c0), (benchRay.t.v 6 l).toNat < 16 ∧ benchRay.ray 0x200020000 15 (benchRay.t.v 6 l).toNat = none ∧
      benchRay.rayFaults (readSet 0x200020000 15 (natOfBytes setBytes)) l (benchRay.t.v 6 l).toNat = [] ∧
      ∀ k ∈ lanes (benchRay.t.act c0), k < l → (benchRay.t.v 6 k).toNat ≠ (benchRay.t.v 6 l).toNat) :=
  ⟨admits_of (by decide), by decide, ⟨⟨by decide, by decide⟩, by decide, by decide⟩, by decide +kernel, by decide +kernel⟩
/-- The bench's train as a train of an any-hit batch. -/
def benchHit : State := benchT fun t => { t with y := { t.y with kind := 1 } }
theorem witness_RayAndTextureWords_hit : benchHit.Admits (.cand c0 4) [Need.v 4 3] ∧ benchHit.t.y.kind = 1 ∧ bench.Admits (.cand c0 4) [Need.v 4 3] ∧
    bench.t.y.kind ≠ 1 ∧ benchHit.Admits (.cacc c0 4) [Need.v 4 0] ∧
    (∀ l ∈ lanes (benchHit.t.act c0), (∀ x ∈ benchHit.t.y.verdicts, x.1 ≠ l) ∧ (benchHit.t.v 4 l).toNat ≤ 2) :=
  ⟨admits_of (by decide), by decide, admits_of (by decide), by decide, admits_of (by decide), by decide⟩
/-- A texture of one texel of format 1 at 0x2_0002_1000 with one level, its descriptor in the constant space. -/
def texBytes : List Byte := bytesOfNat 8 0x200021000 ++ bytesOfNat 8 0x0000001000000000 ++ List.replicate 16 0
def benchTex : State := poke (withConst (withPage bench 2 fastG)) 0x20000 texBytes
theorem witness_RayAndTextureWords_tex : benchTex.t.act c0 ≠ 0 ∧ (benchTex.readConst 0 32).2 = some texBytes ∧ texClean (natOfBytes texBytes) = true ∧
    benchTex.Admits (.texq c0 4 8 0) [Need.v 4 3, Need.v 8 0] ∧ benchTex.Admits (.tex c0 4 8 1 0 0) [Need.v 4 3, Need.v 8 2] ∧
    (benchTex.CanFetch 1 ∧ benchTex.mayAct Order.plain = true) ∧ (∀ l ∈ lanes (benchTex.t.act c0), ∀ p ∈ (readTex (natOfBytes texBytes)).texels (benchTex.t.v 8 l) (benchTex.t.vk 8 1 l)
      (benchTex.t.vk 8 2 l), p.1 = 0x200021000 ∧ benchTex.globalFault 15 0x200021000 4 rightRead false false = none) ∧
    (benchTex.meetHomes false ((lanes (benchTex.t.act c0)).map fun l => benchTex.laneAcc 0x200021000 0 0 l)).2 = none :=
  ⟨by decide, by decide, by decide, admits_of (by decide), admits_of (by decide), ⟨⟨by decide, by decide⟩, by decide⟩, by decide +kernel, by decide⟩

/-- The state with its train in privileged mode. -/
def inHandler (s : State) : State := s.onT fun t => { t with x := { t.x with priv := true } }
theorem witness_StateRegisterWords : bench.t.act c0 ≠ 0 ∧ bench.Admits (.rdst c0 4 0 0x001) (needsState 0 4) ∧
    bench.Admits (.rdst c0 4 1 0x023) (needsState 1 4) ∧ bench.Admits (.rdst c0 4 2 0x030) (needsState 2 4) ∧
    (inHandler bench).Admits (.wrst c0 4 2 0x031) (needsState 2 4) ∧ (inHandler bench).t.x.priv = true ∧
    (inHandler bench).Admits (.quies false 4) [Need.s 4 0] :=
  ⟨by decide, admits_of (by decide), admits_of (by decide), admits_of (by decide), admits_of (by decide), by decide, admits_of (by decide)⟩

/-- A legal launch record of one team at the bench's text, in page 2; its address is in s2. -/
def launchBytes : List Byte := bytesOfNat 8 benchText ++ bytesOfNat 8 0 ++ bytesOfNat 8 benchText ++
  bytesOfNat 2 1 ++ bytesOfNat 2 1 ++ bytesOfNat 2 1 ++ bytesOfNat 2 0 ++ bytesOfNat 8 (2 ^ 2 + 2 ^ 8 + 2 ^ 13) ++ bytesOfNat 4 (1 + 2 * 2 ^ 6 + 1 * 2 ^ 11 + 1 * 2 ^ 15) ++
  List.replicate 116 0
def benchL : State := poke ((withPage bench 2 fastG).onT fun t => t.putS 2 0x200020000) 0x20000 launchBytes
def r0 : Req := ⟨9, 0, 15, 0, 0, 0, 3, 0⟩
def rMgmt : Req := { r0 with port := 8 }
/-- The state with endpoint 3 as a client of every partition. -/
def client (s : State) : State := { s with q := { s.q with parts := s.q.parts.map fun p => { p with clients := [3] } } }
theorem serves_of {s : State} {r : Req} (h : (decide (s.k.phase = .accepting) && s.portRuns r.port && !malformed r && ((s.part r.part).map fun p =>
    decide (r.endpoint ∈ p.clients)) == some true) = true) : s.Serves r := by
  simp only [Bool.and_eq_true, decide_eq_true_eq, Bool.not_eq_true', beq_iff_eq, Option.map_eq_some_iff] at h
  obtain ⟨⟨⟨a, q⟩, b⟩, p, c, d⟩ := h
  exact ⟨⟨a, q, b⟩, p, c, d⟩

theorem witness_ServiceWords : benchL.Admits (.spawn c0 4 2 0) [Need.s 4 0, Need.s 2 0] ∧ benchL.t.whole benchL.t.split = true ∧ benchL.t.act c0 ≠ 0 ∧
    benchL.recordFault 0xFF 15 0x200020000 = none ∧ (benchL.t.unperformed = [] ∧ benchL.mayAct Order.plain = true ∧
      (benchL.meetNow false (benchL.pieces 0x200020000 160)).2 = none ∧ launchBytes.length = 160) ∧ (benchL.readWords 15 0x200020000 5).2.toOption = some launchBytes ∧
    benchL.checkLaunch 15 0 (natOfBytes launchBytes) = 0 ∧ bench.checkLaunch 15 0 0 ≠ 0 ∧ bench.t.Lone ∧
    (benchL.t.split.answer = none ∧ bench.Admits (.svc c0 4 7) [Need.s 4 0]) :=
  ⟨admits_of (by decide), by decide, by decide, by decide, by decide +kernel, by decide +kernel, by decide +kernel, by decide +kernel,
    lone_of (by decide), by decide, admits_of (by decide)⟩

/-- What an entry froze of the bench's train, and the bench inside that handler with cause 1. -/
def frozenF : Frozen :=
  ⟨bench.t.d.slot0, Split.empty, 0, false, 0, 0, 0, false, false, TrapRegs.reset, TrapRegs.reset, Bank.empty, false, false, false⟩
def benchF : State := benchT fun t => { t with x := { t.x with priv := true, frozen := [frozenF], now := { t.x.now with cause := 1 } } }
theorem witness_HandlerReturns : (benchF.t.x.priv = true ∧ benchF.t.x.frozen = [frozenF] ∧ benchF.t.d.depth = frozenF.depth ∧
    benchF.t.x.now.cause.toNat % 256 ≠ 0x22 ∧ benchF.t.x.resume = false ∧ benchF.eretWaits = false ∧ frozenF.priv = false ∧ frozenF.depth = 0 ∧
    frozenF.slot1.mask = 0 ∧ frozenF.slot1.recs = [] ∧ frozenF.slot0.mask ≠ 0 ∧ frozenF.slot0.mask &&& benchF.t.d.exited = 0 ∧
    frozenF.slot0.recs = [] ∧ frozenF.slot0.held = false ∧ frozenF.slot0.asleep = false ∧ frozenF.cur = false ∧
    benchF.t.x.now.cause.toNat / 2 ^ 16 % 4 = 0 ∧ frozenF.slot0.count.toNat = benchF.t.x.now.cause.toNat / 2 ^ 32) ∧
    benchF.Admits (.eret false) [] ∧ benchF.Admits (.eretReplay false) [] := ⟨by decide, admits_of (by decide), admits_of (by decide)⟩

/-- The bench inside a resume entry whose images in the team's area pass their checks, and the context that was saved. -/
def contextX : Context := ⟨[], [], [], [], [], 0, [], 16, 65536, TrapRegs.reset, 0⟩
def headBytes : List Byte := bytesOfNat 8 0x400001 ++ List.replicate 56 0
def benchX : State :=
  let s := (inHandler bench).onTeam 1 0 fun m => { m with area := 0x200000000 }
  let s := { s with m := { s.m with maps := s.m.maps ++ [⟨15, 0x200000000, 0x400000, 0x400000, 65536, 3, false, 0, true, true, true⟩] } }
  (poke (poke s 0x410000 headBytes) 0x6F0000 headBytes).onT fun t =>
    { t with x := { t.x with resume := true, context := some contextX } }
theorem witness_ContextWords : (inHandler bench).Admits (.csave false) [] ∧ (inHandler bench).t.x.priv = true ∧
    (inHandler bench).csaveWaits = false ∧ (inHandler bench).myTeam.isSome = true ∧
    benchX.Admits (.crest false) [] ∧ (benchX.t.x.resume = true ∧ benchX.t.x.restored = false ∧ benchX.t.c.ops = [] ∧
    benchX.t.x.context = some contextX ∧ benchX.t.x.stores = []) ∧ benchX.meetImages.imagesBad = false :=
  ⟨admits_of (by decide), by decide, by decide, by decide, admits_of (by decide), by decide, by decide +kernel⟩
/-- The bench inside a handler, s2 naming an empty matrix image in page 2. -/
def zBytes : List Byte := bytesOfNat 8 0x10001 ++ bytesOfNat 8 (64 * 2 ^ 32) ++ List.replicate 48 0
def benchZ : State := poke ((withPage (inHandler bench) 2 fastG).onT fun t => t.putS 2 0x200020000) 0x20000 zBytes
theorem witness_ContextWords_matrix : benchZ.Admits (.zsave false 2) [Need.s 2 0] ∧ benchZ.Admits (.zload false 2) [Need.s 2 0] ∧
    benchZ.imageTrap 0x200020000 (zLength benchZ.t.m.ice.length) rightWrite = none ∧ benchZ.imageTrap 0x200020000 64 rightRead = none ∧
    (benchZ.mayAct Order.plain = true ∧ (benchZ.meetNow true (benchZ.pieces 0x200020000 64)).2 = none ∧
      (benchZ.meetNow false (benchZ.pieces 0x200020000 64)).2 = none ∧ zBytes.length = 64 ∧ zLength benchZ.t.m.ice.length = 64) ∧
    (benchZ.readWords 15 0x200020000 2).2.toOption = some zBytes ∧ zHeaderBad (natOfBytes zBytes) = false ∧
    natOfBytes zBytes / 2 ^ 64 % 2 ^ 32 = ((benchZ.myTeam.map Team.matrixGen).getD 0).toNat ∧ natOfBytes zBytes / 2 ^ 32 % 256 = 0 ∧
    natOfBytes zBytes / 2 ^ 64 % 2 ^ 32 ≠ (((benchZ.onTeam 1 0 fun m => { m with matrixGen := 1 }).myTeam.map Team.matrixGen).getD 0).toNat :=
  ⟨admits_of (by decide), admits_of (by decide), by decide, by decide, by decide +kernel, by decide +kernel, by decide, by decide, by decide, by decide⟩

/-- The same with an image of one operation. -/
def zBytes2 : List Byte := bytesOfNat 8 (1 + 2 ^ 32) ++ bytesOfNat 8 (64 * 2 ^ 32) ++ List.replicate 48 0
def benchZ2 : State := poke benchZ 0x20000 zBytes2
theorem witness_ContextWords_image : benchZ2.Admits (.zload false 2) [Need.s 2 0] ∧ benchZ2.imageTrap 0x200020000 64 rightRead = none ∧
    (benchZ2.readWords 15 0x200020000 2).2.toOption = some zBytes2 ∧ zHeaderBad (natOfBytes zBytes2) = false ∧
    natOfBytes zBytes2 / 2 ^ 64 % 2 ^ 32 = ((benchZ2.myTeam.map Team.matrixGen).getD 0).toNat ∧ natOfBytes zBytes2 / 2 ^ 16 % 2 = 0 ∧
    natOfBytes zBytes2 / 2 ^ 96 % 2 ^ 32 = 64 ∧ (benchZ2.meetNow false (benchZ2.pieces 0x200020000 64)).2 = none :=
  ⟨admits_of (by decide), by decide +kernel, by decide +kernel, by decide, by decide, by decide, by decide, by decide +kernel⟩

def withPhase (s : State) (p : Phase) : State := { s with k := { s.k with phase := p } }
theorem witness_RequestChecks : bench.k.phase = .accepting ∧ malformed { r0 with reserved := 1 } = true ∧ malformed r0 = false ∧
    (∀ p ∈ bench.q.parts, r0.endpoint ∉ p.clients) ∧ (bench.portRuns r0.port = true ∧ r0.port ≠ 8 ∧ rMgmt.port = 8 ∧
    bench.portRuns rMgmt.port = true ∧ bench.portRuns { r0 with port := 9 }.port = false) ∧ (withPhase bench .redSignal).k.phase = .redSignal := by decide

/-- The bench with a client, and with free frames. -/
def benchQ : State := client bench
theorem witness_MappingRequests : benchQ.Serves r0 ∧ (readAttrs 7).isSome = true ∧ benchQ.mapsInto 15 0x200000000 65536 65536 = true ∧
    benchQ.sharesFit 15 1 = true ∧ benchQ.pinsFit 15 1 = true ∧ 1 ≤ benchQ.freeFrames 15 ∧ (readAttrs 7).map Attrs.hint = some 0 ∧ benchQ.k.flashFull = false ∧
    ((benchQ.part 15).map Part.windows = some 1024 ∧ benchQ.windowsOf 15 = 0 ∧ ((poor benchQ).part 15).map Part.windows = some 0) ∧
    ((client (withPage bench 2 fastG)).unmapsCleanly 15 0x200020000 65536 = true) ∧ (1 : Nat) % 65536 ≠ 0 :=
  ⟨serves_of (by decide), by decide⟩

/-- The bench with page 2, a client, sequence number 7 given out with this event status, and a copy of 4 bytes in or out under it, its chunk next. -/
def copyC (out : Bool) : Copy := ⟨7, 15, 9, 3, out, 0x200020000, 4, [], [(0, 5)], [0], none⟩
def benchCopy (out : Bool) (status : Option Nat) : State :=
  let s := client (withPage bench 2 fastG)
  { s with subject := ⟨7, 0, 0⟩, q := { s.q with nextSeq := 8, issuedBy := [(7, 15)], events := [⟨7, 15, status, none⟩], copies := [copyC out] } }
theorem witness_CopiesAndWaits : (benchCopy false none).Serves r0 ∧ (benchCopy false none).q.events.length < Config.eventEntries ∧
    ((benchCopy false none).copyBad 15 0x200020000 4 [] rightWrite = false ∧ (benchCopy false none).copyBad 15 0x200020000 4 [] rightRead = false) ∧
    (∀ out ∈ [false, true], let s := benchCopy out none
      s.subject.a = (copyC out).seq ∧ (s.q.copies.find? fun o => o.seq = 7) = some (copyC out) ∧ (copyC out).left = [0] ∧
      0x200020000 % 256 + 4 ≤ 256 ∧ s.subject.b = 0 ∧ s.copyMay 15 0x200020000 (if out = true then rightRead else rightWrite) = true ∧
      s.m.translate 15 0x200020000 = some 0x20000 ∧ s.servable 0x20000 (!out) = true ∧ s.m.dormant 0x20000 = false ∧ s.m.poison = [] ∧ s.m.latent = [] ∧
      (s.q.events.find? fun o => o.seq = 7) = some ⟨7, 15, none, none⟩ ∧ s.q.waiting = []) ∧
    (7 < (benchCopy false none).q.nextSeq ∧ (7, 15) ∈ (benchCopy false none).q.issuedBy ∧
      ((benchCopy false (some 0)).q.events.find? fun o => o.seq = 7) = some ⟨7, 15, some 0, none⟩) :=
  ⟨serves_of (by decide), by decide, by decide, by decide, by decide⟩
theorem witness_CopiesAndWaits_limit : (let s := { bench with subject := ⟨9, 3, 0⟩, q := { bench.q with waiting := [⟨9, 3, 15, 7⟩] } }
    (s.q.waiting.find? fun o => decide (o.reqid.toNat = s.subject.a) && decide (o.endpoint = s.subject.b)) = some ⟨9, 3, 15, 7⟩) := by decide

/-- An image of one packet of text and one template. -/
def imageBytes : List Byte := List.replicate 20 0 ++ bytesOfNat 4 12 ++ bytesOfNat 2 1 ++ bytesOfNat 2 1 ++ bytesOfNat 4 0x55534C4E ++
  List.replicate (32 + 12 + 24) 0 ++ launchBytes.drop 24
def benchLQ : State := client benchL
theorem witness_LaunchesAndLoads : benchLQ.Serves r0 ∧ (∃ i ∈ benchLQ.q.images, i.part = 15 ∧ i.num = 1) ∧
    benchLQ.recordFault 0 15 0x200020000 = none ∧ (benchLQ.serviceRead 15 0x200020000 5).2 = some launchBytes ∧
    benchLQ.checkLaunch 15 0 (natOfBytes launchBytes) = 0 ∧
    benchLQ.checkLaunch 15 5 (natOfBytes launchBytes) ≠ 0 ∧
    ((client (poor (poke (withPage bench 2 deepG) 0x20000 launchBytes))).serviceRead 15 0x200020000 5).2 = none :=
  ⟨serves_of (by decide), by decide, by decide, by decide +kernel, by decide +kernel, by decide +kernel, by decide +kernel⟩
theorem witness_LaunchesAndLoads_image : ((benchQ.readImage 15 imageBytes).toOption.map fun x => decide (benchQ.imageLacks 15 x = none) &&
    x.bad.isNone && benchQ.imageFits 15 x) = some true ∧ (benchQ.readImage 15 []).toOption.isNone = true ∧
    benchQ.q.events = [] ∧ benchQ.q.waiting = [] := ⟨by decide +kernel, by decide, by decide, by decide⟩
theorem witness_LaunchesAndLoads_full : ((poor benchQ).readImage 15 imageBytes).toOption.map (fun x => (poor benchQ).imageLacks 15 x) =
    some (some 2) := by decide +kernel
/-- The same with a share of which every frame stands in quarantine. -/
def benchCrowded : State :=
  { benchQ with q := { benchQ.q with parts := benchQ.q.parts.map fun p => { p with hbm := 1 } },
                m := { benchQ.m with quarantine := List.replicate 16384 ⟨1, 15, 0, 65536, 0⟩ } }
theorem witness_LaunchesAndLoads_waits : ((benchCrowded.readImage 15 imageBytes).toOption.map fun x =>
    decide (benchCrowded.imageLacks 15 x = none) && x.bad.isNone && !benchCrowded.imageFits 15 x) = some true := by decide +kernel
/-- The bench whose grid is wholly vacated, its descriptor at page 2. -/
def descD : Desc := ⟨0x200020000, 1, 0, 0, Config.saveVersion, 15, 1, 65536, [], [2]⟩
def benchD : State :=
  let s := client (withPage bench 2 fastG)
  { s with q := { s.q with descs := [descD] } }
theorem witness_LaunchesAndLoads_resume : (benchD.q.descs.find? fun e => e.addr = 0x200020000) = some descD ∧ (descD.state = 1 ∧ descD.version = Config.saveVersion ∧ descD.part = 15) ∧
    (benchD.grid 1).isSome = true ∧ ((benchD.part 15).map fun p => (benchD.grid 1).map fun g => benchD.placeable p g.launch) = some (some true) ∧
    benchD.q.waiting = [] := ⟨by decide, by decide, by decide, by decide +kernel, by decide⟩

/-- The device in phase *accepting* with no partition. -/
def emptyDevice : State := withPhase State.reset .accepting
theorem witness_ManagementRequests : (client (benchO 0)).Serves r0 ∧ (client (benchO 0)).object 15 5 = some objectR ∧
    emptyDevice.Hears rMgmt ∧ (rMgmt.port = 8 ∧ bench.Hears rMgmt) ∧ (List.replicate 32 (0 : Byte)).length = 32 ∧
    (let b : PartBody := ⟨0, 0, 8, 8, 1, 1, 4, [3], 0, 0, 0⟩;
     emptyDevice.catalogueChoice 1 0 = some 1 ∧ emptyDevice.catalogueChoice 2 0 = some 2 ∧ emptyDevice.catalogueChoice 3 0 = some 3 ∧
      0 < b.w ∧ 0 < b.h ∧ b.x + b.w ≤ 16 ∧ b.y + b.h ≤ 16 ∧ b.clients.length ≤ 16 ∧ emptyDevice.part 0 = none ∧
      emptyDevice.q.parts = [] ∧ emptyDevice.sharesExceed b = false) ∧ (bench.part 15).isSome = true ∧
    (∀ e ∈ emptyDevice.k.catalogue, e.num ≠ 0 + 4) := 
  ⟨serves_of (by decide), by decide, ⟨rfl, rfl, rfl⟩, ⟨rfl, rfl, rfl, rfl⟩, by decide, by decide, by decide, by decide⟩

theorem witness_PhasesAndPower : State.reset.k.phase = .comingUp ∧ (withPhase bench .off).k.phase = .off ∧ bench.portRuns 3 = true ∧
    bench.portRuns 9 = false ∧ (bench.k.phase ≠ .comingUp ∧ bench.k.phase ≠ .off) ∧
    (let s := { bench with subject := ⟨3, 5, 0⟩ }; s.k.power.waiting = [] ∧ 0 < s.subject.b ∧ Table.get 0 s.k.power.grants 3 + 5 ≤ largestGrant 3 ∧
      s.k.power.throttled = false ∧ s.k.power.used + 5 ≤ 2480 ∧ s.subject.a < 512) ∧
    (let s := { bench with subject := ⟨3, 5, 0⟩, k := { bench.k with power := { bench.k.power with reclaimed := [3], throttled := true } } };
      s.subject.a ∈ s.k.power.reclaimed ∧ s.k.power.waiting = []) ∧
    (let s := { bench with subject := ⟨3, 5, 0⟩, k := { bench.k with power := { bench.k.power with grants := [(7, 2480)] } } };
      2480 < s.k.power.used + 5) := by decide

/-- The bench with a window entry of peer 7, and granule 2 mapped at `va`. -/
def windowX (va : Nat) : Window := ⟨0, 0, 15, va + 65536, 65536, 7, 4, 7⟩
def benchPeer (va : Nat) : State :=
  { bench with k := { bench.k with windows := [windowX va] },
               m := { bench.m with maps := [⟨15, va, 65536, 0x20000, 65536, 7, false, 0, false, false, false⟩], tier := [(2, fastG)] } }
theorem benchPeer_copyMay (va right : Nat) (h : hasRight 7 right = true) (b : va < 2 ^ 56) : (benchPeer va).copyMay 15 va right = true ∧
    (benchPeer va).m.translate 15 va = some 0x20000 := by
  have w : (benchPeer va).window 15 va = none := by
    have : ¬ va + 65536 ≤ va := by omega
    show List.find? _ [windowX va] = none
    simp only [List.find?_cons, List.find?_nil, windowX, this, decide_false, Bool.and_false, Bool.false_and]
  have m : (benchPeer va).m.mapping 15 va = some ⟨15, va, 65536, 0x20000, 65536, 7, false, 0, false, false, false⟩ := by
    have : va < va + 65536 := by omega
    show List.find? _ [_] = _
    simp only [List.find?_cons, this, decide_true, Nat.le_refl, Bool.and_true]
  constructor
  · have n : ¬ 2 ^ 56 ≤ va := Nat.not_le.mpr b
    simp only [State.copyMay, State.globalFault, n, if_false, w, m, h, Nat.mod_one]
    rfl
  · simp only [Store.translate, m, Option.map_some, Nat.sub_self]
theorem witness_MessagesAtTheTarget : ∃ va, (∀ right ∈ [rightRead, rightWrite, rightAtomic], (benchPeer va).exposed (windowX va) 0 right = some 0x20000) ∧
    (benchPeer va).m.dormant 0x20000 = false ∧ (benchPeer va).m.latent = [] ∧ (benchPeer va).m.poison = [] ∧
    (benchPeer va).servable 0x20000 true = true ∧ (benchPeer va).servable 0x20000 false = true ∧
    (benchPeer va).accepts 7 0 rightWrite 0 4 = some (windowX va) ∧ (benchPeer va).accepts 7 0 rightRead 0 4 = some (windowX va) ∧
    (benchPeer va).accepts 7 0 rightAtomic 0 4 = some (windowX va) ∧ (benchPeer va).accepts 8 0 rightWrite 0 4 = none := by
  have b : (Config.exposedPage 0).toNat < 2 ^ 40 := (Config.exposedPage 0).isLt
  have c : ∀ n : Nat, n < 2 ^ 40 → n * 65536 < 2 ^ 56 := fun n h => by omega
  have b := c _ b
  have e : ∀ va : Nat, (Config.exposedPage (windowX va).num).toNat * 65536 + 0 = (Config.exposedPage 0).toNat * 65536 := fun va => by
    simp only [Nat.add_zero, windowX]
  refine ⟨(Config.exposedPage 0).toNat * 65536, ?_⟩
  generalize (Config.exposedPage 0).toNat * 65536 = va at b e
  have a : ∀ source right, (benchPeer va).accepts source 0 right 0 4 = List.find? (fun _ => decide (7 = source) && hasRight 7 right) [windowX va] := by
    intro source right
    simp only [State.accepts, benchPeer, List.find?_cons, List.find?_nil, windowX]
    simp only [decide_true, Bool.true_and, Nat.zero_mod, Nat.zero_add, Nat.reduceLeDiff, Nat.reduceLT, Bool.and_true]
  refine ⟨?_, rfl, rfl, rfl, rfl, rfl, ?_, ?_, ?_, ?_⟩
  rotate_left
  · rw [a]; rfl
  · rw [a]; rfl
  · rw [a]; rfl
  · rw [a]; rfl
  intro right h
  have hr : hasRight 7 right = true := by
    revert right
    decide
  have k := benchPeer_copyMay va right hr b
  have p : (windowX va).part = 15 := rfl
  simp only [State.exposed, e, p, k, if_true]
/-- The bench whose train's one operation has this work, page 2 in state `e`, and this subject. -/
def benchW2 (w : Work) (e : Gran) (x : Subject) : State :=
  { (withPage (benchOp w 3) 2 e) with subject := x }
/-- An engine unit of four bytes, and the bench with a transfer of it under tag 5. -/
def unitU (src : Source) (dst : Option Loc) : EUnit := ⟨[⟨src, dst, 4⟩], 4, false, true, some 5, false⟩
def benchT2 (w : Work) (x : Subject) : State :=
  let s := benchW2 w fastG x
  { s with k := { s.k with transfers := [⟨5, 0, 1, 0, 0⟩] } }
def inRead : Work := .engine [unitU (.at ⟨7, 0, 0⟩) (some ⟨3, 0, 0x20000⟩)] none true none
def outWrite : Work := .engine [unitU (.at ⟨1, 0, 0⟩) (some ⟨7, 0, 0⟩)] none true none
theorem witness_MessagesAtTheSource : (∀ w ∈ [inRead, outWrite, .atomic 3 false false true 0 4 [⟨0, 0, 0, 0, 0, some 0, some 5, false⟩]],
    let s := benchT2 w ⟨5, 0, 0⟩
    s.t.life = .running ∧ s.t.i.id = 1 ∧ s.t.c.ops = [pendingOp w 3] ∧ (pendingOp w 3).done = false ∧ (pendingOp w 3).stop = none ∧
      (pendingOp w 3).err = false ∧ s.transfer 5 0 = some ⟨5, 0, 1, 0, 0⟩ ∧ s.portRuns 0 = true ∧ (pendingOp w 3).prv = s.t.x.priv ∧ s.t.group = none) ∧
    (pendingOp outWrite 3).writesChunk 0 = true ∧ (benchT2 inRead ⟨5, 0, 0⟩).servable 0x20000 true = true ∧ (benchT2 inRead ⟨5, 0, 0⟩).m.latent = [] ∧
    (benchT2 outWrite ⟨5, 0, 0⟩).ack = ⟨0, 0, 0, 0, 5, 0⟩ ∧ (benchT2 inRead ⟨5, 0, 1⟩).ack = ⟨0, 0, 0, 0, 5, 1⟩ ∧
    (let s := benchT2 inRead ⟨5, 0, 0x901⟩; s.ack.port = 9 ∧ s.portRuns 9 = false) := by
  decide

/-- A granule promoting with all lines arrived but line 255, and one demoting likewise. -/
def comingG : Gran := { fastG with tier := .promoting, lines := List.range 255 }
def goingG : Gran := { comingG with tier := .demoting }
def loadW : Work := .load 4 false 4 [⟨0, 0x200020000, 0x20000, 0, 0, none, none, false⟩]
theorem witness_TierEvents : (let s := benchW2 loadW fastG ⟨512, 0, 1⟩
    s.m.gran 2 = some fastG ∧ s.subject.a / 256 = 2 ∧ ((s.train s.subject.c).map fun t => t.c.ops.any fun o => o.wants 512 false) = some true ∧
      (s.homeAccess (512 * 256) false).isSome = true) ∧
    (let s := benchW2 loadW comingG ⟨767, 0, 0⟩
    s.m.gran 2 = some comingG ∧ s.subject.a / 256 = 2 ∧ 767 % 256 ∉ comingG.lines ∧ comingG.lines.length = 255 ∧ s.ownerOf 15 2 = none) ∧
    (let s := benchW2 loadW goingG ⟨767, 0, 0⟩
    s.m.gran 2 = some goingG ∧ s.m.latent = [] ∧ s.ownerOf 15 2 = none ∧ { s with t := bench.t }.inUse 2 = false) ∧
    (benchW2 loadW { sleepG with tier := .fast, filling := true } ⟨2, 0, 0⟩).m.gran 2 = some { sleepG with tier := .fast, filling := true } := by
  decide +kernel
theorem witness_TierEvents_parked : (let s := poor (benchW2 loadW deepG ⟨512, 0, 1⟩)
    s.homeAccess (512 * 256) false = none ∧ s.m.gran 2 = some deepG ∧ ((s.train 1).map fun t => t.c.ops.any fun o => o.wants 512 false) = some true) := by
  decide +kernel
/-- The bench with a refinement request queued, and page 2 fast. -/
def wanting : State :=
  let s := withPage bench 2 fastG
  { s with subject := ⟨15, 2, 0⟩, q := { s.q with parts := s.q.parts.map fun p => { p with refine := [(5, 1, true)] } } }
def parked : State := (withPage bench 2 fastG).onT fun t => { t with d := { t.d with slot0 := { t.d.slot0 with parked := some 2 } } }
theorem witness_ResidencyEvents : (let s := poor wanting
     (s.part 15).isSome = true ∧ s.m.gran 2 = some fastG ∧ s.evictable 15 2 = true ∧
     ((s.part 15).map fun p => s.framesWanted p) = some true ∧ s.ownerOf 15 2 = none) ∧
    (let s := { wanting with d := { wanting.d with grids := [] }, m := { wanting.m with quarantine := [⟨0, 15, 0x30000, 65536, 0⟩], epoch := 1 } }
     s.m.quarantine[0]? = some ⟨0, 15, 0x30000, 65536, 0⟩ ∧ 0 < s.quiescence ∧ s.d.grids = []) ∧ wanting.quiescence ≤ 0 ∧
    (let s := { wanting with o := ⟨[objectR], []⟩ }; s.object 15 5 = some objectR ∧ (objectR.node 1).state = .absent ∧
     s.m.framesUsed 15 + ((s.m.payload 15 (objectR.node 1)).filter fun g => s.m.tierOf g == some .deep).length ≤ s.frames 15) ∧
    ((parked.train 1).map fun t => (t.slot false).parked) = some (some 2) ∧ parked.m.tierOf 2 ≠ some .deep := by decide +kernel
theorem witness_ResidencyEvents_access : (let o := { pendingOp loadW 3 with parked := true }
    let s := (benchW2 loadW fastG ⟨1, 2, 0⟩).onT fun t => { t with c := { t.c with ops := [o] } }
    s.t.i.id = 1 ∧ s.t.op 0 = some o ∧ o.done = false ∧ s.globalFault 15 0x200020000 4 rightRead false o.prv = none ∧
      s.window 15 0x200020000 = none ∧ (s.m.mapping 15 0x200020000).map (fun p => (p.va, p.ua)) = some (0x200020000, 0x20000) ∧
      s.m.gran 2 = some fastG) := by decide
/-- The same, its grid with a handler and no grid barrier. -/
def parkedH : State :=
  { parked with d := { parked.d with grids := parked.d.grids.map fun g => { g with launch := { g.launch with handler := benchText, gbar := [] } } } }
theorem witness_ResidencyEvents_switch :
    ((parkedH.train 1).map fun v => decide (v.life = .running) && v.x.preempt.isNone && decide (v.i.id ≠ 0)) = some true ∧
    ((parkedH.grid 1).map fun g => decide (g.launch.handler ≠ 0) && !g.launch.whole) = some true ∧
    (parkedH.team 1 0).map Team.life = some .placed := by decide +kernel

theorem witness_CountedRepliesComplete : (∀ w ∈ [loadW, .object 4 [(0, [1, 2, 3, 4])], .request 4 [⟨0, 5, 0, false, 1, some (1, 1)⟩],
      .store 3 4 [⟨0, 0x200020000, 0x20000, 7, 0, none, none, false⟩], .atomic 3 false false true 0 4 [⟨0, 0x200020000, 0x20000, 7, 0, none, none, false⟩],
      .atomic 1 false false false 0 4 [⟨0, 0, 0, 7, 0, none, none, false⟩]],
    let s := benchW2 w fastG ⟨1, 0, 0⟩
    s.t.life = .running ∧ s.t.i.id = s.subject.a ∧ (pendingOp w 3).id = s.subject.b ∧ s.t.c.ops = [pendingOp w 3] ∧ (pendingOp w 3).done = false ∧
      (pendingOp w 3).deps = [] ∧ (pendingOp w 3).err = false ∧ (pendingOp w 3).prv = s.t.x.priv ∧ (pendingOp w 3).stop = none ∧ s.mayPerform (pendingOp w 3) = true ∧
      s.servable 0x20000 true = true ∧ s.servable 0x20000 false = true ∧ s.m.dormant 0x20000 = false ∧ s.m.latent = [] ∧ s.m.poison = [] ∧
      (s.team 1 0).isSome = true) := by decide
/-- A record for lane 0, and a poisoned reply that carries it. -/
def recR : Rec := ⟨0x0B, 1, 0, 0, 0, 0, 0, true⟩
theorem witness_CountedRepliesComplete_late : (let o := { pendingOp .reply 16 with stop := some recR }
    let s := { (benchT fun t => { t with c := { t.c with ops := [o] } }) with subject := ⟨1, 0, 0⟩ }
    o.stop = some recR ∧ s.t.c.ops = [o] ∧ s.t.x.priv = false ∧ o.split &&& s.t.live &&& ~~~s.t.d.slot0.mask = 0 ∧ s.t.d.slot0.mask ≠ 0 ∧
      s.t.d.slot0.mask.getLsbD (lowest (recR.lanes &&& s.t.live)) = true) := by decide

def storeU : EUnit := ⟨[⟨.at ⟨1, 0, 0⟩, some ⟨3, 0, 0x20000⟩, 4⟩], 4, false, false, none, false⟩
def loadU : EUnit := ⟨[⟨.at ⟨3, 0, 0x20000⟩, some ⟨1, 0, 0⟩, 4⟩], 4, false, false, none, false⟩
def farU (va : Nat) : EUnit := ⟨[⟨.at ⟨3, 0, va⟩, some ⟨1, 0, 0⟩, 4⟩], 4, false, false, none, false⟩
def badWord : State := { bench with m := { bench.m with poison := [0x20000 / 32] } }
theorem witness_EngineOperations : (∀ w ∈ [.engine [storeU] none true none, .engine [loadU] none true none, .engine [farU 0x200020000] none false none,
      .engine [farU 0x400000000] none false none],
    let s := benchW2 w fastG ⟨1, 0, 0⟩
    let o := pendingOp w 3
    s.t.life = .running ∧ s.t.i.id = s.subject.a ∧ o.id = s.subject.b ∧ s.t.c.ops = [o] ∧ o.done = false ∧ o.deps = [] ∧ o.err = false ∧
      o.stop = none ∧ o.prv = false ∧ s.t.x.priv = false ∧ s.servable 0x20000 true = true ∧ s.servable 0x20000 false = true ∧
      s.m.dormant 0x20000 = false ∧ s.m.latent = [] ∧ s.m.poison = [] ∧ (s.team 1 0).isSome = true ∧
      o.split &&& s.t.live &&& ~~~s.t.d.slot0.mask = 0 ∧
      s.t.d.slot0.mask ≠ 0 ∧ s.t.d.slot0.mask.getLsbD (lowest (o.lanes &&& s.t.live)) = true) ∧
    (let s := benchW2 (.engine [farU 0x200020000] none false none) fastG ⟨1, 0, 0⟩
     (∀ m ∈ (farU 0x200020000).moves, ∀ p ∈ m.global, s.pageFault 15 p.1 p.2 = none ∧
       s.m.gran (granuleOf ((s.m.translate 15 p.1).getD 0)) = some fastG) ∧
     s.lowestFault (farU 0x400000000).moves = some (0x400000000, 0x08, 3)) ∧
    ((0x20000 / 32) ∈ eccWords 0x20000 4 ∧ (0x20000 / 32) ∈ badWord.m.poison ∧ (pendingOp .reply 3).counter < 16) := by decide

/-- A launch record of one team that has a handler, of this scratchpad size and priority, and the bench with its grid's record so. -/
def smallL (scratch prio : Nat) : LaunchRec := { benchRecord with gbar := [], handler := benchText, scratch := scratch, prio := prio }
def queuedG : Grid := ⟨1, 15, 0, 1, smallL 0 0, .queued, 0, 0, [], false, false, [], none, 0, false⟩
/-- The bench's partition with one queued grid and nothing placed. -/
def benchDeal : State := { bench with t := Train.vacant, subject := ⟨15, 0, 0⟩, d := ⟨[queuedG], [], [], []⟩ }
theorem witness_TeamsArePlaced : benchDeal.grid 1 = some queuedG ∧ queuedG.launch.whole = false ∧ queuedG.launch.width = 8 ∧
    benchDeal.nextDeal 15 = some (queuedG, .fresh [[0]]) := by decide +kernel
/-- The bench's one team vacated, to be placed again. -/
def backG : Grid := { queuedG with life := .started, dealt := 1, back := [0] }
def awayM : Team := ⟨1, 0, .vacated, 0, 0, 0, [], [], [], [], 0, 0, 0, false, [], [], 0⟩
def benchBack : State := { (benchT fun t => { t with life := .vacated }) with subject := ⟨1, 0, 0⟩, d := ⟨[backG], [awayM], [], []⟩ }
theorem witness_TeamsArePlaced_again : benchBack.grid 1 = some backG ∧ benchBack.team 1 0 = some awayM ∧
    benchBack.nextDeal 15 = some (backG, .again 0 [0]) ∧ (awayM.cluster = 0 ∧ awayM.rank = 0 ∧ awayM.life = .vacated ∧ awayM.awaits = []) ∧
    (benchBack.d.teams.filter fun o => o.grid = 1 && o.cluster = 0 && o.life = .vacated) = [awayM] := by decide +kernel

/-- The bench's grid with all its teams ended. -/
def benchOver : State :=
  { bench with subject := ⟨1, 0, 0⟩, d := ⟨[{ queuedG with life := .started, dealt := 1 }], [{ awayM with life := .done }], [], []⟩,
               q := { bench.q with events := [⟨1, 15, none, none⟩] } }
/-- A core of one team, and a queued grid of higher priority that fits it only when that team is gone. -/
def benchFull : State :=
  let g : Grid := ⟨1, 15, 0, 1, smallL 65536 0, .started, 1, 1, [], false, false, [], none, 0, false⟩
  let h : Grid := ⟨2, 15, 4, 1, smallL 393216 1, .queued, 0, 0, [], false, false, [], none, 0, false⟩
  { bench with subject := ⟨1, 0, 0⟩, d := ⟨[g, h], [{ awayM with life := .placed }], [], []⟩,
               q := { bench.q with parts := bench.q.parts.map fun p => { p with w := 1, h := 1 } } }
theorem witness_GridsAndPreemptions : ((benchOver.grid 1).map fun g => benchOver.gridEnded g && g.parent.isNone) = some true ∧
    (benchOver.q.events.find? fun x => x.seq = 1) = some ⟨1, 15, none, none⟩ ∧ benchOver.q.waiting = [] ∧
    ((benchFull.part 15).bind fun p => (benchFull.victims p).map fun v => (v.1.seq, v.2)) = some (2, [0], [(1, 0)]) ∧
    (let t := (inHandler bench).t; t.i.id = 1 ∧ t.life = .running ∧ t.x.priv = true ∧ (bench.grid 1).isSome = true ∧ (bench.team 1 0).isSome = true) ∧
    (let t := { (inHandler bench).t with x := { (inHandler bench).t.x with preempt := some 0, graceRun := some 1 } };
      t.x.preempt = some 0 ∧ t.x.graceRun = some 1) := by decide +kernel

/-- Two slots that may issue, the current one's turn over. -/
def benchTurn : State := { (benchTwo.onT fun t => { t with d := { t.d with used := 16 } }) with subject := ⟨1, 0, 0⟩ }
/-- The bench asleep at a word that stands at its text. -/
def asleepAt (i : Instr) (asked : Option Nat) : State :=
  { ((State.reset.onBench ((encode i).flatMap bytesOfWord ++ List.replicate 8 0)).onT fun t =>
      { t with d := { t.d with slot0 := { t.d.slot0 with asleep := true, asked := asked } } }) with subject := ⟨1, 0, 0⟩ }
theorem witness_TurnsAndSuspensions : benchTurn.t.i.id = benchTurn.subject.a ∧ benchTurn.t.turnOver = true ∧ bench.t.turnOver = false ∧
    (let s := asleepAt (.barTry false 2 3 1 0) none
     s.t.life = .running ∧ s.t.live ≠ 0 ∧ s.t.group = none ∧ s.t.x.priv = false ∧ s.t.d.slot1.mask = 0 ∧ s.t.d.cur = false ∧ s.t.d.depth = 0 ∧
       s.t.x.frozen = [] ∧ s.t.d.slot0.asleep = true ∧ s.t.d.slot0.mask ≠ 0 ∧ s.t.d.slot0.held = false ∧ s.t.d.slot0.recs = [] ∧
       s.instrAt 15 s.t.d.slot0.pc = some (.barTry false 2 3 1 0) ∧ ((s.bar (s.barKey s.t 1)).map Bar.lastErr) = some false) ∧
    (let s := asleepAt (.svc c0 4 7) (some 7)
     s.subject.b = 0 ∧ s.t.d.slot0.asked = some 7 ∧ s.instrAt 15 s.t.d.slot0.pc = some (.svc c0 4 7)) ∧ (bench.part 15).isSome = true := by decide +kernel

/-- The bench with a record of lane 0 attached and a handler. -/
def benchTrap : State :=
  { (benchT fun t => { t with i := { t.i with handler := BitVec.ofNat 64 benchText }, d := { t.d with slot0 := { t.d.slot0 with recs := [recR] } } }) with
    subject := ⟨1, 0, 0⟩ }
theorem witness_TrapsAreTaken : (benchTrap.t.i.id = benchTrap.subject.a ∧ benchTrap.t.life = .running ∧ benchTrap.t.x.priv = false ∧
    benchTrap.t.x.preempt = none ∧ benchTrap.t.d.slot0.half = none ∧ benchTrap.t.d.slot0.recs = [recR] ∧ recR.cause ≠ 0x18 ∧ benchTrap.t.i.handler ≠ 0 ∧
    benchTrap.myTeam.isSome = true) ∧ bench.t.Lone ∧ (bench.t.life = .running ∧ bench.t.live ≠ 0 ∧ bench.t.group = none) ∧
    ((inHandler bench).t.x.priv = true ∧ (bench.grid 1).isSome = true) := ⟨by decide, lone_of (by decide), by decide, by decide⟩

/-- The bench with one matrix operation in its core's array. -/
def matO (clear : Bool) (poison : Option Nat) : MatOp := ⟨0, 1, 0xFF, clear, [(0, .whole 3)], none, poison, 0xFF, 0, 0, 0, 0, false, false, false⟩
def benchMat (clear : Bool) (poison : Option Nat) : State :=
  { (benchT fun t => { t with m := { t.m with mat := [matO clear poison] } }) with subject := ⟨1, 0, 0⟩ }
theorem witness_MatrixEvents : (∀ o ∈ [matO true none, matO false none, matO false (some 0)],
    let s := { (benchT fun t => { t with m := { t.m with mat := [o] } }) with subject := ⟨1, 0, 0⟩ }
    s.t.i.id = s.subject.a ∧ s.t.m.mat = [o] ∧ o.id = s.subject.b ∧ (s.core s.t.core).hung = false ∧ o.wild = false ∧
      (o.sums.map Prod.fst).Nodup ∧ (∀ p ∈ o.sums, p.1 < 2048) ∧ s.t.life = .running ∧ s.t.x.priv = false ∧
      o.split &&& s.t.live &&& ~~~s.t.d.slot0.mask = 0 ∧ s.t.d.slot0.mask ≠ 0 ∧
      s.t.d.slot0.mask.getLsbD (lowest (o.rows &&& s.t.live)) = true) ∧ (benchMat true none).arrayBusy 0 = true ∧
    (let s := bench.onCore 0 fun x => { x with hung := true }
     (s.core 0).hung = true ∧ (s.d.teams.map fun m => (m.grid, m.idx)).Nodup ∧ (s.d.teams.map fun m => s.holdsMatrix m) = [true]) ∧
    (0 < Config.cores ∧ (bench.core 0).failed = false) := by decide +kernel

/-- A ray of the set in `setBytes` at this place, and the bench that holds it: its scene has station 0, its records are 0. -/
def rayR (place : RayPlace) (cands : List Cand) (verdicts : List (Nat × Nat)) : Ray :=
  ⟨readSet 0x200020000 15 (natOfBytes setBytes), 1, 3, place, 0, 0, 0, 0, [0, 0, 0], cands, verdicts, []⟩
def benchYard (r : Ray) (ops : List Op) (x : Subject) : State :=
  let s := poke (poke benchRay 0x24000 [1]) 0x24040 (bytesOfNat 8 0x200026000 ++ bytesOfNat 8 (128 + 2 ^ 32))
  { (s.onT fun t => { t with c := { t.c with ops := ops } }) with
    subject := x, y := { s.y with rays := [r], scenes := [(0, 15, 0x200024000)], space := [(15, 0x200020000, [])] } }
def raysOp : Op := pendingOp (.rays 0x200020000 [(0, 3, none)]) 3
theorem witness_YardEvents : (let r := rayR .offered [] []
    let s := benchYard r [raysOp] ⟨1, 0, 0⟩
    s.ray r.set.addr r.set.part r.index = some r ∧ s.t.life = .running ∧ s.t.i.id = s.subject.a ∧ s.t.i.part = r.set.part ∧
      raysOp.id = s.subject.b ∧ s.t.c.ops = [raysOp] ∧ s.subject.c = 0 ∧ s.rayReachable r = true ∧
      s.refusal r.set (s.rayRecs r).1 = (none, [0, 0, 0]) ∧ (s.y.scenes.any fun e => e.2.1 = r.set.part && e.2.2 = r.set.scene) = true ∧
      (s.y.space.any fun e => e.1 = r.set.part && e.2.1 = r.set.addr) = true ∧ s.pinsFit r.set.part 0 = true) := by decide +kernel
theorem witness_YardEvents_refused : (let r := rayR .offered [] []
    let s := poke (benchYard r [raysOp] ⟨1, 0, 0⟩) (0x21000 + 64 * 3) (List.replicate 64 1)
    s.rayReachable r = true ∧ (s.refusal r.set (s.rayRecs r).1).1 = some 3) := by decide +kernel
theorem witness_YardEvents_lost : (let r := rayR .platform [] []
    let s := benchYard r [] ⟨0x200020000, 3, 15⟩
    let u := { s with m := { s.m with maps := [] } }
    u.subject = ⟨r.set.addr, r.index, r.set.part⟩ ∧ u.ray r.set.addr r.set.part r.index = some r ∧ u.rayReachable r = false) := by decide +kernel
theorem witness_YardEvents_call : (let s := benchYard (rayR .platform [] []) [] ⟨4, 0, 0⟩
    ((s.partOfCore 4).map fun p => (s.nextPlatform p).map Platform.station) = some (some 0) ∧ s.y.calls = [] ∧
      (s.core 4).failed = false ∧ (s.core 4).held = none) ∧
    (let r := rayR (.inCall 4) [] []
     let s := benchYard r [] ⟨4, 0, 0⟩
     let u := { s with y := { s.y with calls := [⟨4, 15, 0x200024000, 0, [(0x200020000, 3)]⟩] } }
     (u.y.calls.find? fun x => x.core = u.subject.a) = some ⟨4, 15, 0x200024000, 0, [(0x200020000, 3)]⟩ ∧
       r.place = .inCall 4 ∧ u.ray r.set.addr r.set.part r.index = some r) := by decide +kernel
/-- A batch that is ready, its template in page 2. -/
def batchB (kind : Nat) : Batch := ⟨2, kind, readSet 0x200020000 15 (natOfBytes setBytes), 1, 0, 0x200028000, 1, [(3, 0)], none⟩
theorem witness_YardEvents_batch : (∀ kind ∈ [1, 2], let s := poke (benchYard (rayR .shading [] []) [] ⟨2, 0, 0⟩) 0x28000 launchBytes
    let u := { s with y := { s.y with batches := [batchB kind] } }
    u.batch u.subject.a = some (batchB kind) ∧ (batchB kind).launched = none ∧ u.batchReady (batchB kind) = true ∧ (batchB kind).members ≠ [] ∧
      (u.grid 1).isSome = true ∧ u.templateOk 15 0x200028000 = true ∧
      (let v := readLaunch (u.template 15 0x200028000); 1 ≤ v.trains * v.width ∧ u.queued 0 < Config.queueEntries)) ∧
    (let r := rayR .anyHit [⟨0, 0, 0, 0, 0⟩] [(0, 1)]
     let s := benchYard r [] ⟨0x200020000, 3, 15⟩
     s.ray r.set.addr r.set.part r.index = some r ∧ (∀ c ∈ r.cands, (s.verdict r c.slot).isSome = true) ∧ s.rayReachable r = true) := by
  decide +kernel

/-- The bench at an instruction's words, at its issue boundary. -/
def boundary (ws : List Word) : State := { (State.reset.onBench (ws.flatMap bytesOfWord)) with agenda := [.issue 1] }
/-- The bench's train as one packed into its quarter's present cycle. -/
def besideE : Packed := bench.t.split.packed 1
theorem witness_StepRunsDecodedWord : (let s := boundary [0x040142FF, 0, 0]
    s.agenda = [.issue s.t.i.id] ∧ s.t.life = .running ∧ s.t.pick s.matrixBit = none ∧ s.t.turnOver = false ∧
      s.t.canIssue s.t.d.cur = true ∧ s.pack exec s.t = [] ∧ s.inTurn exec s.t = true ∧ s.textBase 15 s.t.split.pc.toNat = some benchText ∧
      s.packet 15 benchText = (0x040142FF, 0, 0) ∧ packetBad 0x040142FF 0 0 = false ∧
      (groupAt 0x040142FF 0 0 0).words = [(0x040142FF, 0)] ∧ decode 0x040142FF 0 = some (.addi c0 5 5 0x7F)) ∧
    (decode 0x1FE00000 0 = none ∧ 1 < (groupAt 0x840142FF 0x040142FF 0 0).words.length ∧
      (groupAt 0x05800000 0 0 1).words = [] ∧ packetBad 0x05800000 0 0 = false ∧
      bench.textBase 15 0 = none) ∧
    (let s := (boundary [0x040142FF, 0, 0]).onCore 0 fun c => { c with packs := [[besideE], [], [], []] }
     s.pack exec s.t = [besideE] ∧ (after (.addi c0 5 5 0x7F) s fun x => s.t.went x.t) = some true) ∧
    (let s := boundary [0x17800001, 0, 0]
     (after (.wait false 0 0) { s with t := { s.t with c := { s.t.c with ops := [pendingOp loadW 0] } } } fun x =>
       s.t.went x.t || x.t.d.cur != s.t.d.cur) = some false) := by decide +kernel
theorem witness_StepRunsDecodedWord_event : ({ bench with agenda := [.event .quantumExpiry ⟨1, 0, 0⟩] }).agenda =
    [.event .quantumExpiry ⟨1, 0, 0⟩] := rfl
theorem witness_DecodeEncode : (Instr.addi c0 5 5 0x7F).isWord = true ∧ (Instr.addi c0 5 5 0x7F).wellFormed = true := by decide
theorem witness_EncodeDecode : decode 0x040142FF 0 = some (.addi c0 5 5 0x7F) := by decide
theorem witness_StepKeepsMemoryForm : Memory.wf bench.m.mem = true ∧ (match step (boundary [0x040142FF, 0, 0]) with
    | .next _ => true
    | _ => false) = true := by decide +kernel
theorem witness_WordChecks : bench.t.Lone ∧ bench.Issuing ∧ bench.t.x.priv = false ∧
    ((Instr.wid c0 2).isWord = true ∧ (Instr.wid c0 2).wellFormed = false) ∧ (Instr.eret false).wellFormed = true ∧
    (privilegedReg 0x031 = true ∧ (Instr.wrst c0 4 2 0x031).wellFormed = true) :=
  ⟨lone_of (by decide), ⟨by decide, by decide, by decide⟩, by decide, by decide, by decide, by decide⟩
theorem witness_WordChecks_budget : (let s := benchT fun t => { t with i := { t.i with regs := 8 } }
    (Instr.cand c0 8).wellFormed = true ∧ s.t.inBudget (Need.v 8 3) = false) := by decide

/-- The bench, its grid's record with two trains in a team. -/
def benchPair (s : State) : State :=
  { s with d := { s.d with grids := s.d.grids.map fun g => { g with launch := { g.launch with trains := 2 } } } }
/-- A store of the split that has found no frame for its granule. -/
def stuckOp : Op := { pendingOp (.store 3 4 []) 16 with parked := true }
theorem constGood_of {s : State} {ea n : Nat} (h : s.m.latent = [] ∧ s.m.poison = []) : s.ConstGood ea n := by
  intro ua _ _ w _
  simp only [h.1, h.2, List.not_mem_nil, not_false_eq_true, and_self]

theorem witness_LoadResults_bytes : bench.t.act c0 ≠ 0 ∧ bench.mayAct Order.plain = true ∧ bench.Admits (.ldp c0 1 2 4 0) (needsN 1 2 4) ∧
    (∀ l ∈ lanes (bench.t.act c0), bench.localFault 0 ((bench.t.v 2 l).toNat + 0) 4 1 = none ∧ bench.t.privPoisoned l ((bench.t.v 2 l).toNat + 0) 4 = false) ∧
    benchC.Admits (.ldk c0 1 2 4 15) (needsN 1 2 4) ∧ benchC.mayAct Order.plain = true ∧ benchC.ConstGood 60 4 ∧ benchC.ConstGood 65532 4 ∧
    benchC.constByte 60 3 = 0 ∧ benchC.constByte 8 1 = 1 ∧
    (∀ l ∈ lanes (benchC.t.act c0), benchC.localFault 4 ((benchC.t.v 2 l).toNat + 60) 4 1 = none) ∧
    benchC.Admits (.sld c0 3 1 4 0) [Need.s 3 0, Need.s 1 0] :=
  ⟨by decide, by decide, admits_of (by decide), by decide, admits_of (by decide), by decide, constGood_of ⟨rfl, rfl⟩, constGood_of ⟨rfl, rfl⟩,
    by decide +kernel, by decide +kernel, by decide, admits_of (by decide)⟩
/-- Every word that names the register that a scratchpad load is still to write. -/
theorem witness_LoadResults_held : (benchOp localW 16).Issuing ∧ (benchOp localW 16).t.Lone ∧
    (∀ p ∈ ([(.add c0 4 5 6, needs3 4 5 6), (.stg c0 4 10 0 3 0, [.v 4 (extraRegs 4), .v 20 1])] : List (Instr × List Need)),
      p.1.wellFormed = true ∧ (∀ m ∈ p.2, (benchOp localW 16).t.inBudget m = true) ∧ ∃ m ∈ p.2, (benchOp localW 16).t.awaited m = true) :=
  ⟨⟨by decide, by decide, by decide⟩, lone_of (by decide), by decide⟩
theorem witness_WordsThatGoOn_fence : (let s := benchPair (benchOp (.store 3 4 []) 3)
    s.t.unperformed ≠ [] ∧ (s.order false true 1).relAt = 1) ∧ (benchPair (benchOp (.store 3 4 []) 3)).Admits (.fence c0 1) [] ∧
    (benchPair (benchOp (.store 3 4 []) 3)).t.Lone := ⟨by decide, admits_of (by decide), lone_of (by decide)⟩

/-- An arrival at a barrier of each level while what it follows can, and can not, be performed. -/
theorem witness_Arrivals_waits : (let s := benchT fun t => { t with c := { t.c with ops := [stuckOp] } }
    s.bar (s.barKey s.t 24) = some (Bar.start ⟨2, 1, 0, 0⟩ 1) ∧ s.t.whole s.t.split = true ∧ s.mayAct (s.order false true 3) = false ∧
      s.mayAct (s.order false true 1) = true ∧ (benchPair s).mayAct (s.order false true 1) = true ∧ (benchPair s).mayAct ((benchPair s).order false true 1) = false ∧
    s.t.acquiring = false ∧ s.frozen = false ∧ s.scopeAlone 1 = true ∧ s.scopeAlone 3 = false ∧ (benchPair s).scopeAlone 1 = false ∧
    s.t.unperformed = [stuckOp] ∧ stuckOp.done = false ∧ stuckOp.parked = true ∧ stuckOp.acq = 0 ∧ stuckOp.fence = 0 ∧
      bench.t.unperformed = [] ∧ bench.mayAct (bench.order false true 3) = true) ∧
    (benchT fun t => { t with c := { t.c with ops := [stuckOp] } }).Admits (.barArrive false 5 24) [Need.p 5] ∧
    (benchT fun t => { t with c := { t.c with ops := [stuckOp] } }).t.Lone := ⟨by decide, admits_of (by decide), lone_of (by decide)⟩
theorem witness_Arrivals_none : ((benchBar { Bar.start ⟨0, 1, 0, 2⟩ 1 with expect := 0 }).bar ⟨0, 1, 0, 2⟩).map Bar.expect = some 0 ∧
    (benchBar { Bar.start ⟨0, 1, 0, 2⟩ 1 with expect := 0 }).member bench.t 0 < 1 ∧ (bench.d.bars.filter fun b => b.key.num = 2).length = 3 ∧
    ({ bench with d := { bench.d with bars := [] } } : State).bar ⟨0, 1, 0, 2⟩ = none ∧
    bench.Admits (.barDrop false 5 2) [Need.p 5] ∧ bench.Admits (.barExpect false 3 2) [Need.s 3 0] :=
  ⟨by decide, by decide, by decide, by decide, admits_of (by decide), admits_of (by decide)⟩
/-- The bench with lanes 0 to 3 at a barrier word, inside a frame of every lane. -/
def benchSided : State := benchT fun t => ({ t with d := { t.d with slot0 := { t.d.slot0 with mask := 0x0F } } }).push (packFrame ⟨0, 0xFF, 0, 0⟩) []
theorem witness_BarrierWaits_stuck : (let s := benchSided
    s.t.whole s.t.split = false ∧ s.t.split.mask ≠ 0 ∧ (s.t.slot (!s.t.d.cur)).mask = 0 ∧ s.t.split.recs = [] ∧ s.t.base < s.t.d.depth ∧
    s.t.entry (s.t.d.depth - 1) = .frame ⟨0, 0xFF, 0, 0⟩ ∧ (0xFF : Mask) &&& ~~~s.t.d.exited &&& ~~~(0 : Mask) ≠ 0) ∧
    benchSided.Admits (.barSync false 2) [] ∧
    (let s := benchTwo.onT fun (t : Train) => { t with d := { t.d with slot1 := { t.d.slot1 with held := true } } }
    s.t.whole s.t.split = false ∧ (s.t.slot (!s.t.d.cur)).held = true ∧ (s.t.slot (!s.t.d.cur)).mask ≠ 0 ∧
    s.t.whole (s.t.slot (!s.t.d.cur)) = false ∧ (s.t.slot (!s.t.d.cur)).pc ≠ s.t.split.pc ∧ s.t.d.slot0.recs = [] ∧
    admits s (.barSync false 2, []) = true) := ⟨by decide +kernel, admits_of (by decide +kernel), by decide⟩
theorem witness_BarrierWaits_fence : (let s := benchPair (benchBar { Bar.start ⟨0, 1, 0, 2⟩ 1 with phase := 1 })
    let u := s.onT fun t => (t.setSplit { t.split with sync := some 0 }).enqueue (pendingOp (.store 1 4 []) 16)
    (u.bar ⟨0, 1, 0, 2⟩).map Bar.phase = some 1 ∧ u.t.split.sync = some 0 ∧ (u.t.fenceOps 0).c.ops ≠ u.t.c.ops) ∧
    (let s := benchT fun t => { t with c := { t.c with ops := [stuckOp] } }
     s.mayAct (s.order false true 3) = false) := by decide
theorem witness_GlobalAccessesIssue_scopes : (let s := benchPair (benchOp (.store 3 4 []) 16)
    (s.order false true 1).relAt = 1 ∧ s.t.after (s.order false true 1) = [(0, 1)] ∧ s.t.strictly (s.order false true 1) = [] ∧
    s.t.strictly (s.order false true 4) ≠ []) ∧
    (let s := benchPair (benchT fun t => { t with c := { t.c with ops := [{ pendingOp (.store 3 4 []) 16 with rel := 1 }] } })
     (s.order true false 1).acqAt ≠ 0 ∧ (∃ x ∈ s.t.unperformed, x.rel ≠ 0) ∧ s.t.act ⟨false, 3⟩ = 0) := by decide
theorem witness_StateRegisterWords_more : (bench.grid 1).isSome = true ∧ bench.myTeam.isSome = true ∧ (bench.part 15).isSome = true ∧
    bench.Admits (.rdst c0 4 0 0x005) (needsState 0 4) ∧ bench.Admits (.rdst c0 4 1 0x018) (needsState 1 4) ∧
    (inHandler bench).Admits (.rdst c0 4 2 0x031) (needsState 2 4) :=
  ⟨by decide, by decide, by decide, admits_of (by decide), admits_of (by decide), admits_of (by decide)⟩

/-- The bench with these operations, numbered from 0 in their order on counter 3, and the subject naming number `n`. -/
def benchOps (ws : List Work) (n : Nat) (c : Nat) : State :=
  { (withPage (benchT fun t => { t with c := { t.c with ops := (List.range ws.length).map fun i => { pendingOp (ws.getD i .reply) 3 with id := i } } }) 2 fastG) with
    subject := ⟨1, n, c⟩ }
/-- The second of two operations of a counter is complete before the first, and stays. -/
theorem witness_CountedRepliesComplete_order : (let s := benchOps [.reply, loadW] 1 0
    let o : Op := { pendingOp loadW 3 with id := 1 }
    s.t.life = .running ∧ s.t.i.id = s.subject.a ∧ s.t.op 1 = some o ∧ s.mayPerform o = true ∧ o.err = false ∧ o.prv = s.t.x.priv ∧ o.after = [] ∧
    (∀ p ∈ s.t.c.ops, p.id ≠ o.id → p.err = false ∧ p.stop = none) ∧ (s.t.c.ops.map Op.id).Nodup ∧ s.t.c.ops.length = 2 ∧
    s.servable 0x20000 false = true ∧ s.m.dormant 0x20000 = false ∧
    after .loadReply s (fun t => (t.t.c.ops.map fun p => (p.id, p.done), (t.team 1 0).isSome)) = some ([(0, false), (1, true)], true)) ∧
    (let s := benchOps [loadW, .reply] 0 0
     after .loadReply s (fun t => t.t.c.ops.map Op.id) = some [1]) := by decide +kernel
theorem witness_CountedRepliesComplete_divided : (let o := { pendingOp .reply 16 with stop := some recR, divided := true }
    let s := { (benchTwo.onT fun t => { t with c := { t.c with ops := [o] } }) with subject := ⟨1, 0, 0⟩ }
    s.t.op 0 = some o ∧ s.t.d.slot0.mask ≠ 0 ∧ s.t.d.slot0.mask &&& s.t.d.slot1.mask = 0 ∧ s.t.d.slot0.mask.getLsbD (lowest (recR.lanes &&& s.t.live)) = true) ∧
    (let o := { pendingOp .reply 16 with stop := some { recR with lanes := 0x80 }, divided := true, split := 0x80 }
    let s := { (benchTwo.onT fun t => { t with c := { t.c with ops := [o] } }) with subject := ⟨1, 0, 0⟩ }
    s.t.d.slot1.mask.getLsbD (lowest ((0x80 : Mask) &&& s.t.live)) = true ∧
    (let u := s.onT fun t => { t with d := { t.d with exited := 0x80, slot1 := { t.d.slot1 with mask := 0x70 } } }
     (0x80 : Mask) &&& u.t.live = 0 ∧ u.t.d.slot0.mask ≠ 0)) := by decide
theorem witness_EngineOperations_order : (let s := benchOps [.reply, .engine [storeU] none true none] 1 0
    let o : Op := { pendingOp (.engine [storeU] none true none) 3 with id := 1 }
    s.t.op 1 = some o ∧ s.mayPerform o = true ∧ (∀ p ∈ s.t.c.ops, p.id ≠ o.id → p.err = false ∧ p.stop = none) ∧
    after .engineUnitSettle s (fun t => t.t.c.ops.map fun p => (p.id, p.done)) = some [(0, false), (1, true)]) := by decide +kernel
theorem witness_MessagesAtTheSource_order : (let s := benchOps [.reply, outWrite] 1 0
    let s := { s with subject := ⟨5, 0, 0⟩, k := { s.k with transfers := [⟨5, 0, 1, 1, 0⟩] } }
    let o : Op := { pendingOp outWrite 3 with id := 1 }
    s.transfer 5 0 = some ⟨5, 0, 1, 1, 0⟩ ∧ s.t.op 1 = some o ∧ (∀ p ∈ s.t.c.ops, p.id ≠ o.id → p.err = false ∧ p.stop = none) ∧ s.frozen = false ∧
    after .acknowledge s (fun t => t.t.c.ops.map fun p => (p.id, p.done)) = some [(0, false), (1, true)]) := by decide +kernel

/-- The bench's grid wholly vacated, an entry of the quarantine free to leave; with a descriptor, without one, and with no free frame. -/
def benchGone (descs : List Desc) : State :=
  { (benchT fun t => { t with life := .vacated }) with
    subject := ⟨0, 0, 0⟩, d := ⟨[{ backG with resumed := false }], [awayM], [], []⟩, q := { bench.q with descs := descs },
    m := { bench.m with quarantine := [⟨1, 15, 0x30000, 65536, 0⟩], epoch := 1 } }
theorem witness_ResidencyEvents_vacated : (let s := benchGone []
    s.m.quarantine[0]? = some ⟨1, 15, 0x30000, 65536, 0⟩ ∧ 0 < s.quiescence ∧ (s.d.grids.map Grid.seq).Nodup ∧ s.wholeVacated backG = true ∧
    s.descWanted backG = true ∧ backG.descGranules ≤ s.freeFrames 15) ∧
    (let s := poor (benchGone [])
     s.descWanted backG = true ∧ s.freeFrames 15 < backG.descGranules) ∧
    ((benchGone [descD]).q.descs.find? fun d => d.seq = backG.seq && d.part = backG.part && d.state != 2) = some descD ∧
    (bench.grid 1).map bench.wholeVacated = some false := by decide +kernel
/-- The same, its resume accepted. -/
theorem witness_ResidencyEvents_resumed : (let s := { benchGone [] with d := ⟨[{ backG with resumed := true }], [awayM], [], []⟩ }
    s.wholeVacated { backG with resumed := true } = false ∧ s.m.quarantine[0]? = some ⟨1, 15, 0x30000, 65536, 0⟩) := by decide

/-- The bench's train in a handler that has interrupted a handler. -/
def benchNest : State := (inHandler bench).onT fun t => { t with x := { t.x with frozen := [{ frozenF with priv := true }, frozenF] } }
theorem witness_GridsAndPreemptions_nested : benchNest.t.nested = true ∧ benchNest.t.x.preempt = none ∧ bench.t.nested = false ∧
    benchF.t.nested = false := by decide
/-- Two cores that a grid holds, one of which fails. -/
theorem witness_MatrixEvents_held : (let s := (bench.onCore 0 fun x => { x with held := some 2 }).onCore 1 fun x => { x with held := some 2 }
    s.k.phase = .accepting ∧ (s.core 0).failed = false ∧ (s.core 0).held.isSome = true ∧ (s.core 1).held = (s.core 0).held ∧
    after .coreFailure { s with subject := ⟨0, 0, 0⟩ } (fun t => (t.core 1).held) = some none) := by decide +kernel

/-- An operation of a resume entry that issues again at once, in the page that it names, and one whose granule finds no frame. -/
theorem witness_ContextWords_stores : (let o := pendingOp (.store 3 4 [⟨0, 0x200020000, 0, 7, 0, none, none, false⟩]) 16
    ((benchG fastG).reissue o).done = false ∧ ((benchG fastG).meetPlaces ((benchG fastG).reissue o).homes).2 = true ∧
    ((poor (benchG deepG)).meetPlaces ((poor (benchG deepG)).reissue o).homes).2 = false ∧
    (benchX.reissue (pendingOp (.store 3 4 []) 16)).done = false) := by decide +kernel

/-- A ray record with TMAX 10 that has no hit, and hits of this distance. -/
def recQ : RayRec := ⟨none, 0, none, 0x41200000, 0, 0, 0, 1, 0xFFFFFFFF, 0, 0⟩
def hitH (t : Word) (n : Nat) (solid : Bool) : Hit := ⟨t, BitVec.ofNat 32 n, 0, 1, solid⟩
def tourT (hits : List Hit) (spilt : Bool) : Tour := ⟨[], [⟨0x4000, 5⟩], spilt, hits⟩
theorem witness_YardEvents_rules : (val32 recQ.tmax).isNan = false ∧ (val32 0x40000000).isNan = false ∧ (val32 0x3F800000).isNan = false ∧
    (hitH 0x40000000 7 true).prim ≠ 0xFFFFFFFF ∧ (hitH 0x40000000 7 true).kind < 16 ∧ recQ.takes ((hitH 0x40000000 7 true).key 65535) = true ∧
    recQ.opaque_ = false ∧ (tourT [] true).overflowed = true ∧
    (let hs := (List.range 17).map fun n => hitH 0x3F800000 n false
     (hs.filter fun h => !(h.solid || recQ.opaque_) && recQ.takes (h.key 1)).length = 17 ∧ (callRay 1 recQ none (tourT hs false)).fate = .judge 3) ∧
    (callRay 1 recQ none (tourT [hitH 0x3F800000 0 false] false)).fate = .judge 2 ∧
    HitKey.lt ⟨0x3F800000, 1, 0⟩ ((hitH 0x40000000 7 true).key 1) = true := by decide +kernel
theorem witness_YardEvents_verdicts : (let c : Cand := ⟨0, 0x3F800000, 7, 0, 1⟩
    (val32 c.t).isNan = false ∧ c.prim ≠ 0xFFFFFFFF ∧ c.kind < 16 ∧ recQ.next < 65536 ∧ recQ.first = false ∧ natBits recQ.status 0 8 ≠ 3 ∧
    (let p := recQ.offer c.t c.prim c.bary recQ.next c.kind
     p.closest = 7 ∧ (applyVerdicts recQ [] [c] fun _ => 2).fate = .finish 4 ∧ (applyVerdicts { recQ with status := 3 } [] [c] fun _ => 0).fate = .move 1 ∧
     (applyVerdicts recQ [] [c] fun _ => 0).fate = .finish 5)) ∧
    ([⟨0x4000, 5⟩, ⟨0x4000, 6⟩] : List Hop).map Hop.station = [5, 6] ∧ (addHop ⟨0x3F80, 5⟩ [⟨0x4000, 5⟩]).1 = [⟨0x3F80, 5⟩] ∧
    (addHop ⟨0x4080, 5⟩ [⟨0x4000, 5⟩]).1 = [⟨0x4000, 5⟩] ∧ (addHop ⟨0x4080, 5⟩ ((List.range 16).map fun n => ⟨0x4000, n + 6⟩)).2 = true := by decide +kernel
/-- The yard reaches what it reads and writes of an offered ray, of its call's end, and of its verdicts; and cannot where no frame is free. -/
theorem witness_YardEvents_reach : (let r := rayR .offered [] []
    let s := benchYard r [raysOp] ⟨1, 0, 0⟩
    s.mayPerform raysOp = true ∧ s.yardFrozen = false ∧ (s.yardReach 15 (s.offerReads r) (s.offerWrites r)).2 = true ∧
      (s.yardReach 15 (s.offerReads r) (s.offerWrites r)).1.m.latent = []) ∧
    (let r := rayR (.inCall 4) [] []
     let s := benchYard r [] ⟨4, 0, 0⟩
     let c : Call := ⟨4, 15, 0x200024000, 0, [(0x200020000, 3)]⟩
     let u := { s with y := { s.y with calls := [c] } }
     u.vacatingCore 4 = false ∧ (u.core 4).failed = false ∧ u.rayReachable r = true ∧ u.yardFrozen = false ∧
      (u.yardReach 15 (u.callReads c [r] ++ r.templateReads) r.records).2 = true ∧ (u.stationAt 15 0x200024000 0).isSome = true ∧
      (let v := poor { u with m := { u.m with tier := [(2, deepG)] } }
       (v.yardReach 15 (v.callReads c [r] ++ r.templateReads) r.records).2 = false)) ∧
    (let r := rayR .anyHit [⟨0, 0x3F800000, 7, 0, 1⟩] [(0, 1)]
     let s := benchYard r [] ⟨0x200020000, 3, 15⟩
     s.yardFrozen = false ∧ (s.yardReach 15 r.templateReads r.records).2 = true ∧
     (benchYard r [{ raysOp with owed := 3 }] ⟨0x200020000, 3, 15⟩).yardFrozen = true) := by decide +kernel
/-- The descriptor's grid resumed in another partition, of the same cores. -/
theorem witness_LaunchesAndLoads_moved : (let s : State := { benchD with q := { benchD.q with parts := benchD.q.parts ++ benchD.q.parts.map fun (p : Part) => { p with num := 14 } } }
    (s.part 14).isSome = true ∧ ((s.part 14).map fun p => (s.grid 1).map fun g => s.placeable p g.launch) = some (some true) ∧
    (s.grid 1).map Grid.part = some 15 ∧ s.pinsFit 14 1 = true ∧ 1 ≤ s.freeFrames 14) := by decide +kernel

/-! Chained groups. -/

/-- The bench at a packet that chains these words, at its issue boundary. -/
def chained (is : List Instr) : State :=
  boundary ((((is.dropLast.map encode).flatten).map fun w => w ||| 0x80000000) ++ (is.getLastD (.nop c0) |> encode) ++ [0, 0])
/-- A figure of the state after one step. -/
def stepped {α : Type} (s : State) (f : State → α) : Option α :=
  match step s with
  | .next t => some (f t)
  | _ => none
/-- R267: a word reads its operands as they stood before the group. -/
theorem test_group_reads_first : stepped ((chained [.movi c0 5 9, .shflIdx c0 6 5 1]).onT fun t => t.putV 5 t.all fun _ => 2) (fun t =>
    (t.t.r.getV false 5 0, t.t.r.getV false 6 0, t.t.split.pc.toNat)) = some (9, 2, benchText + 8) := by decide +kernel
/-- R267, R337: a group whose `wait` holds as it comes to it has had no effect. -/
theorem test_group_held : stepped ((chained [.movi c0 5 9, .wait false 0 0, .shflIdx c0 6 5 1]).onT fun t =>
    { t.putV 5 t.all fun _ => 2 with c := { t.c with ops := [pendingOp loadW 0] } }) (fun t =>
    (t.t.r.getV false 5 0, t.t.split.recs, t.t.split.pc.toNat)) = some (2, [], benchText) := by decide +kernel
/-- R267, R337: a `wait` for an access of its own group holds the words from it on, which read their operands as before the group. -/
theorem test_group_waits : stepped ((chained [.ldg c0 1 10 0 1 0, .wait false 1 0, .add c0 2 1 1]).onT fun t => t.putV 21 t.all fun _ => 1) (fun t =>
    (t.t.c.ops.map Op.counter, t.t.split.half.map Half.left, t.t.split.pc.toNat)) = some ([1], some [1, 2], benchText) := by decide +kernel
/-- R273: the first word that raises has the record, whatever a later one would raise. -/
theorem test_group_first_trap : stepped ((chained [.ldg c0 1 10 0 0 0, .add c0 119 1 2]).onT fun t => { t with i := { t.i with regs := 64 } }) (fun t =>
    t.t.split.recs.map Rec.cause) = some [0x08] := by decide +kernel

end Sys2Proof.Tests
end

section
/-! SUPPORT. Memory stays in its canonical form (O59), a lemma for each operation of the model. They are elaborated one after another:
side by side, each waiting for the equations of the functions it unfolds, they hold more threads than the check's memory limit allows. -/
set_option Elab.async false

section
/-! SUPPORT. The canonical form of memory as a property of the store and of the state. Only the store's own operations touch its bytes, and
each of them keeps the form; every other update hands the store on. -/
namespace Sys2Proof.Machine

/-- The bytes of a store stand in their canonical form. -/
def Store.Canonical (m : Store) : Prop := Memory.wf m.mem = true

/-- The memory of a state stands in its canonical form. -/
def State.Canonical (s : State) : Prop := s.m.Canonical

/-- A function of the state that keeps the canonical form. -/
def Keeps (f : State → State) : Prop := ∀ s : State, s.Canonical → (f s).Canonical

/-- The next state, if there is one, has its memory in canonical form. -/
def CanonicalNext (o : Host.Outcome State Fault Refusal) : Prop := ∀ t, o = .next t → t.Canonical

theorem CanonicalNext.next {t : State} (h : t.Canonical) : CanonicalNext (.next t) := by
  intro u e
  injection e with e
  exact e ▸ h

theorem CanonicalNext.fault (r : Fault) : CanonicalNext (.fault r) := fun _ e => nomatch e

/-! ### The store -/

/-- A store with the same bytes. -/
theorem Store.Canonical.same {m n : Store} (h : m.Canonical) (e : n.mem = m.mem := by rfl) : n.Canonical := wf_of_mem_eq e h

theorem Store.Canonical.ite {c : Prop} [Decidable c] {m n : Store} (hm : m.Canonical) (hn : n.Canonical) :
    (if c then m else n).Canonical := by
  split
  · exact hm
  · exact hn

theorem Store.Canonical.foldl {α : Type} {f : Store → α → Store} {m : Store} (h : m.Canonical)
    (hf : ∀ n a, n.Canonical → (f n a).Canonical) (l : List α) : (l.foldl f m).Canonical := foldl_keeps hf l h

theorem Store.Canonical.onGran {m : Store} {g : Nat} {f : Gran → Gran} (h : m.Canonical) : (m.onGran g f).Canonical := h
theorem Store.Canonical.advance {m : Store} (h : m.Canonical) : m.advance.Canonical := h
theorem Store.Canonical.putPoisoned {m : Store} {ua n : Nat} (h : m.Canonical) : (m.putPoisoned ua n).Canonical := h
theorem Store.Canonical.addGrans {m : Store} {g : Nat} {gs : List Gran} (h : m.Canonical) : (m.addGrans g gs).Canonical := h
theorem Store.Canonical.release {m : Store} {part ua len : Nat} (h : m.Canonical) : (m.release part ua len).Canonical := h
theorem Store.Canonical.promotionCommit {m : Store} {part g : Nat} (h : m.Canonical) : (m.promotionCommit part g).Canonical := h
theorem Store.Canonical.demotionCommit {m : Store} {part g : Nat} (h : m.Canonical) : (m.demotionCommit part g).Canonical := h
theorem Store.Canonical.cancel {m : Store} {g : Nat} (h : m.Canonical) : (m.cancel g).Canonical := h
theorem Store.Canonical.promote {m : Store} {g : Nat} (h : m.Canonical) : (m.promote g).Canonical :=
  wf_of_mem_eq (mem_promote m g) h
theorem Store.Canonical.demote {m : Store} {g : Nat} (h : m.Canonical) : (m.demote g).Canonical := wf_of_mem_eq (mem_demote m g) h
theorem Store.Canonical.unmapRange {m : Store} {part va len : Nat} (h : m.Canonical) : (m.unmapRange part va len).Canonical :=
  wf_of_mem_eq (mem_unmapRange m part va len) h
theorem Store.Canonical.meet {m : Store} {w : Nat} (h : m.Canonical) : (m.meet w).Canonical := wf_meet w h

theorem Store.Canonical.meetAll {m : Store} (h : m.Canonical) (ws : List Nat) : (ws.foldl Store.meet m).Canonical :=
  h.foldl (fun _ _ hn => hn.meet) ws

theorem Store.Canonical.read {m : Store} {ua n : Nat} (h : m.Canonical) : (m.read ua n).1.Canonical := wf_read ua n h
theorem Store.Canonical.put {m : Store} {ua : Nat} {b : List Byte} {whole : List Nat} (h : m.Canonical) :
    (m.put ua b whole).Canonical := wf_put ua b whole h
theorem Store.Canonical.write {m : Store} {ua : Nat} {b : List Byte} {whole : List Nat} (h : m.Canonical) :
    (m.write ua b whole).1.Canonical := wf_write ua b whole h
theorem Store.Canonical.zeroFill {m : Store} {g : Nat} (h : m.Canonical) : (m.zeroFill g).Canonical := wf_zeroFill g h
theorem Store.Canonical.deviceWrite {m : Store} {part va : Nat} {b : List Byte} (h : m.Canonical) :
    (m.deviceWrite part va b).Canonical := wf_deviceWrite part va b h
theorem Store.Canonical.deviceWriteRun {m : Store} {part va : Nat} {b : List Byte} (h : m.Canonical) :
    (m.deviceWriteRun part va b).Canonical := wf_deviceWriteRun part va b h
theorem Store.Canonical.deviceImage {m : Store} {part va len : Nat} {cells : Sparse Byte} (h : m.Canonical) :
    (m.deviceImage part va len cells).Canonical := wf_deviceImage part va len cells h
theorem Store.Canonical.takeUa {m : Store} {len align : Nat} (h : m.Canonical) : (m.takeUa len align).1.Canonical :=
  wf_takeUa len align h

theorem Store.Canonical.meetRange {m : Store} {part va n : Nat} (h : m.Canonical) : (m.meetRange part va n).Canonical := by
  refine h.foldl (fun n p hn => ?_) _
  split
  · exact hn.meetAll _
  · exact hn

/-! ### The state: conditionals, folds and pairs -/

theorem State.Canonical.ite {c : Prop} [Decidable c] {s t : State} (hs : s.Canonical) (ht : t.Canonical) :
    (if c then s else t).Canonical := by
  split
  · exact hs
  · exact ht

/-- The memory of a state is its store's. -/
theorem State.Canonical.store {s : State} (h : s.Canonical) : s.m.Canonical := h

/-- A state with the same store. -/
theorem State.Canonical.same {s t : State} (h : s.Canonical) (e : t.m = s.m := by rfl) : t.Canonical := by
  unfold State.Canonical
  rw [e]
  exact h

/-- Another store in canonical form stands in a state. -/
theorem State.Canonical.of_store {s : State} {m : Store} (hm : m.Canonical) : State.Canonical { s with m := m } := hm

theorem State.Canonical.ite_fst {β : Type} {c : Prop} [Decidable c] {p q : State × β} (hp : p.1.Canonical) (hq : q.1.Canonical) :
    (if c then p else q).1.Canonical := by
  split
  · exact hp
  · exact hq

theorem State.Canonical.foldl {α : Type} {f : State → α → State} {s : State} (h : s.Canonical)
    (hf : ∀ u a, u.Canonical → (f u a).Canonical) (l : List α) : (l.foldl f s).Canonical :=
  l.foldlRecOn f h fun u hu a _ => hf u a hu

/-- The same for a fold that carries more than the state. -/
theorem State.Canonical.foldl_fst {α β : Type} {f : State × β → α → State × β} {p : State × β} (h : p.1.Canonical)
    (hf : ∀ q a, q.1.Canonical → (f q a).1.Canonical) (l : List α) : (l.foldl f p).1.Canonical :=
  l.foldlRecOn (motive := fun q => q.1.Canonical) f h fun q hq a _ => hf q a hq

/-- The state of a result that has been taken apart. -/
theorem State.Canonical.of_eq {β : Type} {p : State × β} {u : State} {b : β} (h : p.1.Canonical) (e : p = (u, b)) : u.Canonical := by
  rw [e] at h
  exact h

theorem Store.Canonical.of_eq {β : Type} {p : Store × β} {m : Store} {b : β} (h : p.1.Canonical) (e : p = (m, b)) : m.Canonical := by
  rw [e] at h
  exact h

end Sys2Proof.Machine
end

section
/-! SUPPORT. The shared operations keep the canonical form: the tables, the tier map and its commits, residency, and the giving out of
addresses (R57 to R98, R367). -/
namespace Sys2Proof.Machine

/-! ### Tables, barriers and ports -/

theorem State.Canonical.stage {s : State} {id : Nat} (h : s.Canonical) : (s.stage id).Canonical := by
  unfold State.stage; split
  · exact h
  · split <;> exact h

theorem State.Canonical.onT {s : State} {f : Train → Train} (h : s.Canonical) : (s.onT f).Canonical := h
theorem State.Canonical.mapTrains {s : State} {p : Train → Bool} {f : Train → Train} (h : s.Canonical) :
    (s.mapTrains p f).Canonical := h
theorem State.Canonical.onGrid {s : State} {seq : Nat} {f : Grid → Grid} (h : s.Canonical) : (s.onGrid seq f).Canonical := h
theorem State.Canonical.onTeam {s : State} {grid idx : Nat} {f : Team → Team} (h : s.Canonical) :
    (s.onTeam grid idx f).Canonical := h
theorem State.Canonical.onPart {s : State} {num : Nat} {f : Part → Part} (h : s.Canonical) : (s.onPart num f).Canonical := h
theorem State.Canonical.onCore {s : State} {n : Nat} {f : CoreSt → CoreSt} (h : s.Canonical) : (s.onCore n f).Canonical := h
theorem State.Canonical.setBar {s : State} {b : Bar} (h : s.Canonical) : (s.setBar b).Canonical := h
theorem State.Canonical.endAtBars {s : State} {t : Train} (h : s.Canonical) : (s.endAtBars t).Canonical := h
theorem State.Canonical.dropAt {s : State} {port : Nat} (h : s.Canonical) : (s.dropAt port).Canonical := h
theorem State.Canonical.onObject {s : State} {part handle : Nat} {f : Object → Object} (h : s.Canonical) :
    (s.onObject part handle f).Canonical := h

theorem State.Canonical.settleAt {s : State} {k : Option BarKey} {n : Nat} {bad : Bool} (h : s.Canonical) :
    (s.settleAt k n bad).Canonical := by
  unfold State.settleAt; split
  · exact h
  · exact h.setBar

theorem State.Canonical.sendMessage {s : State} {kind peer window : Nat} {tag : Word} {offset length : Nat} {data : List Byte}
    {value : Dword} {aop : Nat} (h : s.Canonical) :
    (s.sendMessage kind peer window tag offset length data value aop).Canonical := by
  unfold State.sendMessage; dsimp only; split <;> exact h

/-! ### Residency -/

theorem State.Canonical.answerAt {s : State} {part handle node : Nat} {evict : Bool} {status : Nat} {gen : Option Nat}
    (h : s.Canonical) :
    (s.answerAt part handle node evict status gen).Canonical := h

theorem State.Canonical.commitNode {s : State} {part handle node : Nat} {st : Residency} (h : s.Canonical) :
    (s.commitNode part handle node st).Canonical := h
theorem State.Canonical.dequeue {s : State} {part : Nat} (h : s.Canonical) : (s.dequeue part).Canonical := h

theorem State.Canonical.evictEnd {s : State} {part handle node : Nat} (h : s.Canonical) :
    (s.evictEnd part handle node).Canonical := by
  unfold State.evictEnd; split
  · exact h
  · exact .ite h.onObject h

theorem State.Canonical.evictNode {s : State} {part handle node : Nat} (h : s.Canonical) :
    (s.evictNode part handle node).Canonical := by
  unfold State.evictNode; split
  · exact h
  · exact (h.commitNode.foldl (fun u g hu => .ite (.of_store hu.store.demote) hu) _).evictEnd

theorem State.Canonical.evictNow {s : State} {part handle node : Nat} (h : s.Canonical) :
    (s.evictNow part handle node).1.Canonical := by
  unfold State.evictNow; split
  · exact h
  · split
    · exact h
    · split
      · exact h
      · split
        · exact h.evictNode
        · exact h
      · exact h

theorem State.Canonical.promoteEnd {s : State} {part handle node : Nat} (h : s.Canonical) :
    (s.promoteEnd part handle node).Canonical := by
  unfold State.promoteEnd; split
  · exact h
  · refine .ite ?_ h
    refine .ite ?_ h.commitNode.answerAt
    split
    · exact (h.commitNode.answerAt.evictNow.of_eq ‹_›).answerAt
    · exact h.commitNode.answerAt.evictNow.of_eq ‹_›

theorem State.Canonical.settleNode {s : State} {part g : Nat} (h : s.Canonical) : (s.settleNode part g).Canonical := by
  unfold State.settleNode; split
  · exact h
  · exact h.promoteEnd.evictEnd

theorem State.Canonical.postRefine {s : State} {part handle node : Nat} {ldo : Bool} (h : s.Canonical) :
    (s.postRefine part handle node ldo).1.Canonical := by
  unfold State.postRefine; split
  · dsimp only; split
    · exact h
    · split
      · exact h.onPart
      · split <;> exact h.onPart
  · exact h

theorem State.Canonical.promoteNode {s : State} {part handle node : Nat} {gs : List Nat} (h : s.Canonical) :
    (s.promoteNode part handle node gs).Canonical := by
  unfold State.promoteNode
  refine (h.onObject.foldl (fun u g hu => ?_) gs).promoteEnd
  split
  · exact .of_store hu.store.promote
  · exact .of_store hu.store.cancel
  · exact hu

/-- An access that meets the tier map without parking (R69). -/
theorem State.Canonical.homeAccess {s u : State} {ua : Nat} {writes : Bool} (h : s.Canonical)
    (e : s.homeAccess ua writes = some u) :
    u.Canonical := by
  unfold State.homeAccess at e; dsimp only at e; split at e
  · cases e; exact h
  · split at e
    · split at e
      · cases e; exact .of_store h.store.promote.onGran
      · cases e
    · split at e
      · cases e; exact State.Canonical.settleNode (.of_store h.store.onGran)
      · cases e; exact h
    · cases e; exact .of_store h.store.onGran

theorem State.Canonical.meetPlaces {s : State} (h : s.Canonical) (ps : List (Nat × Bool)) : (s.meetPlaces ps).1.Canonical := by
  induction ps generalizing s with
  | nil => exact h
  | cons p ps ih =>
    unfold State.meetPlaces; split
    · exact h
    · exact ih (h.homeAccess ‹_›)

theorem lands_execRefineServe {s : State} (h : s.Canonical) : CanonicalNext (execRefineServe s) := by
  unfold execRefineServe; dsimp only; split
  · split
    · split
      · split
        · split
          · exact .next h.dequeue.promoteNode
          · split
            · exact .next h
            · exact .next (State.Canonical.answerAt (.ite h.dequeue.onPart h.dequeue))
        · exact .next h
        · exact .next h.dequeue
        · exact .next h.dequeue.answerAt
      · exact .next h.dequeue
    · exact .next h
  · exact .next h

/-! ### Addresses, pages and pins -/

theorem State.Canonical.takePinned {s : State} {part n align : Nat} (h : s.Canonical) :
    (s.takePinned part n align).1.Canonical := .of_store h.store.takeUa.addGrans

theorem State.Canonical.holdPages {s : State} {part va bytes rights : Nat} {area : Bool} (h : s.Canonical) :
    (s.holdPages part va bytes rights area).1.Canonical := by
  unfold State.holdPages; split
  · exact h
  · exact (h.takePinned (part := part)).store

theorem State.Canonical.takeHidden {s : State} {part n : Nat} (h : s.Canonical) : (s.takeHidden part n).1.Canonical := h.takePinned

theorem State.Canonical.giveHidden {s : State} {part : Nat} {gs : List Nat} (h : s.Canonical) :
    (s.giveHidden part gs).Canonical := by
  unfold State.giveHidden
  exact .ite h (.of_store (h.store.foldl (fun _ _ hm => hm.release) gs).advance)

theorem State.Canonical.releaseTeam {s : State} {grid idx : Nat} (h : s.Canonical) : (s.releaseTeam grid idx).Canonical := by
  unfold State.releaseTeam; split
  · rename_i m g _ _
    have hf := h.store.foldl (fun n f hn => hn.release (part := g.part) (ua := f * 65536) (len := 65536)) m.frames
    exact .ite h (State.Canonical.onTeam (.of_store (.ite hf.advance hf.unmapRange)))
  · exact h

theorem State.Canonical.reissueMet {s : State} {o : Op} (h : s.Canonical) : (s.reissueMet o).1.Canonical := by
  unfold State.reissueMet; dsimp only; split
  · exact h
  · split <;> exact (h.meetPlaces _).of_eq ‹_›

theorem State.Canonical.reissueAll {s : State} (h : s.Canonical) (os : List Op) : (s.reissueAll os).1.Canonical := by
  induction os generalizing s with
  | nil => exact h
  | cons o os ih => exact ih h.reissueMet

theorem State.Canonical.notePull {s : State} {core : Nat} (h : s.Canonical) : (s.notePull core).Canonical := .ite h h.onCore
theorem State.Canonical.noteStall {s : State} {core : Nat} (h : s.Canonical) : (s.noteStall core).Canonical := .ite h.notePull h
theorem State.Canonical.countStall {s : State} {core : Nat} (h : s.Canonical) : (s.countStall core).Canonical := .ite h.onCore h
theorem State.Canonical.countLatency {s : State} {core : Nat} (h : s.Canonical) : (s.countLatency core).Canonical := h

/-! ### Rays in flight -/

theorem State.Canonical.onRay {s : State} {set part index : Nat} {f : Ray → Ray} (h : s.Canonical) :
    (s.onRay set part index f).Canonical := h

theorem State.Canonical.leaveFlight {s : State} {r : Ray} (h : s.Canonical) : (s.leaveFlight r).Canonical := by
  unfold State.leaveFlight
  refine .ite (.ite ?_ ?_) (State.Canonical.giveHidden (.ite ?_ ?_)) <;> exact h

theorem State.Canonical.trainRays {s : State} {t : Train} (h : s.Canonical) : (s.trainRays t).Canonical := by
  unfold State.trainRays; split
  · exact h
  · refine .ite h (h.foldl (fun u x hu => ?_) _)
    split
    · exact .ite hu.leaveFlight hu
    · exact hu

end Sys2Proof.Machine
end

section
/-! SUPPORT. Traps, ends of trains, the departure of a word and the issue of a group keep the canonical form, whatever the words mean that keep
it (R116, R143, R157, R181 to R199, R265 to R273). -/
namespace Sys2Proof.Machine

/-! ### Trains on the stage, pins and descriptors -/

theorem State.Canonical.withTrain {s : State} {id : Nat} {f : State → State} (hf : Keeps f) (h : s.Canonical) :
    (s.withTrain id f).Canonical := (hf _ h.stage).stage

theorem State.Canonical.unpin {s : State} {part : Nat} {pin : Nat × Nat} (h : s.Canonical) : (s.unpin part pin).Canonical := h
theorem State.Canonical.releasePins {s : State} (h : s.Canonical) : s.releasePins.Canonical :=
  ((h.foldl (fun _ _ hu => hu.unpin) _).foldl (fun _ _ hu => hu.unpin) _).onT

theorem State.Canonical.writeHeader {s : State} {part grid idx status cause reason : Nat} (h : s.Canonical) :
    (s.writeHeader part grid idx status cause reason).Canonical := by
  unfold State.writeHeader; split
  · exact h
  · exact .ite h (.of_store h.store.deviceWrite)

theorem State.Canonical.clusterBack {s : State} {grid cluster : Nat} (h : s.Canonical) :
    (s.clusterBack grid cluster).Canonical := .ite h.onGrid h
theorem State.Canonical.putHeld {s : State} {at_ : Nat} {b : List Byte} (h : s.Canonical) : (s.putHeld at_ b).Canonical :=
  .of_store h.store.put
theorem State.Canonical.putRecord {s : State} {d : Desc} (h : s.Canonical) : (s.putRecord d).Canonical := h.putHeld
theorem State.Canonical.writeDesc {s : State} {d : Desc} {launch : Nat} (h : s.Canonical) : (s.writeDesc d launch).Canonical :=
  h.putRecord.putHeld.putHeld
theorem State.Canonical.setDescs {s : State} {p : Desc → Bool} {st : Nat} (h : s.Canonical) : (s.setDescs p st).Canonical :=
  State.Canonical.foldl h.same (fun _ _ hu => hu.putRecord) _

theorem State.Canonical.describe {s : State} {seq : Nat} (h : s.Canonical) : (s.describe seq).Canonical := by
  unfold State.describe; split
  · exact h
  · dsimp only; split
    · exact h
    · split
      · exact State.Canonical.writeDesc h
      · split
        · exact h
        · exact State.Canonical.writeDesc h.takeHidden

theorem State.Canonical.saveParts {s : State} {part grid idx : Nat} (h : s.Canonical) : (s.saveParts part grid idx).Canonical := by
  unfold State.saveParts; split
  · exact h
  · exact .ite h (.of_store h.store.deviceWriteRun.deviceWriteRun.deviceImage.deviceImage)

/-! ### The end of a team and of a train -/

theorem State.Canonical.teamVacated {s : State} {part grid idx : Nat} (h : s.Canonical) :
    (s.teamVacated part grid idx).Canonical := by
  unfold State.teamVacated
  exact .ite h.saveParts.writeHeader.onTeam.clusterBack.describe h

theorem State.Canonical.teamDone {s : State} {part grid idx : Nat} (h : s.Canonical) : (s.teamDone part grid idx).Canonical := by
  unfold State.teamDone; dsimp only; split
  · split
    · exact State.Canonical.clusterBack (.ite h.onTeam h.onTeam.releaseTeam)
    · exact h.onTeam
  · exact h.teamVacated

theorem State.Canonical.gridError {s : State} {cause : Nat} {info pc : Dword} (h : s.Canonical) :
    (s.gridError cause info pc).Canonical := h.onGrid

theorem State.Canonical.restoreStores {s : State} (h : s.Canonical) : s.restoreStores.Canonical := by
  unfold State.restoreStores; split
  · refine State.Canonical.onT ((h.reissueAll _).foldl (fun u o hu => ?_) _)
    split
    · exact .ite hu.gridError hu
    · exact hu
  · exact h

theorem State.Canonical.tryEnd {s : State} (h : s.Canonical) : s.tryEnd.Canonical :=
  .ite h.restoreStores.endAtBars.releasePins.trainRays.onT.teamDone h.restoreStores
theorem State.Canonical.kill {s : State} {cause : Nat} {info pc : Dword} (h : s.Canonical) : (s.kill cause info pc).Canonical :=
  h.gridError.onT.tryEnd

theorem State.Canonical.stopTeam {s : State} {status cause reason : Nat} {info pc : Dword} (h : s.Canonical) :
    (s.stopTeam status cause reason info pc).Canonical :=
  h.writeHeader.onTeam.gridError.foldl (fun _ _ hu => hu.withTrain fun _ hw => hw.onT.tryEnd) _

/-! ### Raising and delivering a trap, and the return -/

theorem State.Canonical.raise {s : State} {cause : Nat} {m : Mask} {info : Dword} (h : s.Canonical) :
    (s.raise cause m info).Canonical := by
  unfold State.raise; split
  · exact h.onT
  · exact .ite h.kill h.onT

theorem State.Canonical.refuse {s : State} {reason : Nat} (h : s.Canonical) : (s.refuse reason).Canonical := h.raise

theorem State.Canonical.late {s : State} {r : Rec} {prv : Bool} {issuer : Mask} {divided : Bool} (h : s.Canonical) :
    (s.late r prv issuer divided).Canonical := by
  unfold State.late; split
  · exact h.gridError
  · split
    · exact h.kill
    · split <;> exact h

theorem State.Canonical.trapEnter {s : State} {p : Pick} (h : s.Canonical) : (s.trapEnter p).Canonical :=
  .ite (State.Canonical.kill h) (State.Canonical.onT h)

theorem State.Canonical.trapEntry {s : State} (h : s.Canonical) : s.trapEntry.Canonical := by
  unfold State.trapEntry; split
  · exact h
  · exact h.trapEnter

theorem State.Canonical.vacate {s : State} (h : s.Canonical) : s.vacate.Canonical := by
  unfold State.vacate; dsimp only
  refine State.Canonical.teamVacated (State.Canonical.onT ?_)
  split
  · exact .of_store h.store.deviceWriteRun
  · exact h

theorem State.Canonical.eret {s : State} {replay : Bool} (h : s.Canonical) : (s.eret replay).Canonical := by
  unfold State.eret; split
  · exact h
  · exact .ite h.vacate h.onT

/-! ### Holds, and the departure of a word -/

theorem State.Canonical.applyHold {s : State} {hd : Hold} (h : s.Canonical) : (s.applyHold hd).Canonical := by
  unfold State.applyHold; split
  · exact h.onT.notePull
  · exact h.onT

theorem State.Canonical.hold {s : State} {hd : Hold} (h : s.Canonical) : (s.hold hd).Canonical := by
  unfold State.hold; split
  · exact h.onT
  · exact h.applyHold

/-- A word whose body keeps the canonical form does so through all its checks and holds (R273). -/
theorem lands_word {i : Instr} {privileged : Bool} {needs : List Need} {body : State → State} {s : State} (hb : Keeps body)
    (h : s.Canonical) : CanonicalNext (word i privileged needs body s) := by
  unfold word; split
  · exact .fault _
  · split
    · exact .next h.raise
    · split
      · exact .next h.raise
      · split
        · exact .next h.raise
        · split
          · exact .next h
          · split
            · exact .next h.hold
            · exact .next (hb s h)

theorem State.Canonical.endIfExited {s : State} (h : s.Canonical) : s.endIfExited.Canonical := .ite h.onT.tryEnd h

theorem State.Canonical.finish {s : State} {first next : Dword} {leave : Leave} {ends idem yields : Bool} {n : Nat}
    (h : s.Canonical) :
    (s.finish first next leave ends idem yields n).Canonical := by
  unfold State.finish; split
  · exact h.eret
  · exact h.onT.endIfExited
  · exact h.onT.endIfExited

theorem State.Canonical.conclude {s : State} {leave : Leave} {ends idem yields : Bool} {len : Dword} (h : s.Canonical) :
    (s.conclude leave ends idem yields len).Canonical := by
  unfold State.conclude; split
  · exact h.onT
  · exact h.finish

theorem State.Canonical.done {s : State} (h : s.Canonical) : s.done.Canonical := h.conclude
theorem State.Canonical.doneLit {s : State} (h : s.Canonical) : s.doneLit.Canonical := h.conclude
theorem State.Canonical.doneEnding {s : State} {len : Dword} (h : s.Canonical) : (s.doneEnding len).Canonical := h.conclude

theorem keeps_coupled {body : State → State} (hb : Keeps body) : Keeps (coupled body) := fun _ h => .ite (hb _ h) h.hold

theorem State.Canonical.orRaise {s : State} {f : Option (Nat × Mask × Dword)} {body : State → State} (hb : Keeps body)
    (h : s.Canonical) : (s.orRaise f body).Canonical := by
  unfold State.orRaise; split
  · exact h.raise
  · exact hb _ h

/-! ### A chained group -/

/-- A meaning of the instructions that keeps the canonical form. -/
def MeaningKeeps (m : Meaning) : Prop := ∀ i s, s.Canonical → CanonicalNext (m i s)

theorem State.Canonical.meetPacket {s : State} {part p : Nat} (h : s.Canonical) : (s.meetPacket part p).Canonical :=
  .of_store h.store.meetRange
theorem State.Canonical.raiseGroup {s : State} {r : Rec} (h : s.Canonical) : (s.raiseGroup r).Canonical := h.onT.raise
theorem State.Canonical.endGroup {s : State} {g : Group} {n : Nat} (h : s.Canonical) : (s.endGroup g n).Canonical := h.onT.finish
theorem State.Canonical.startHalf {x : State} {g : Group} {ws : List ((Word × Word) × Nat)} (h : x.Canonical) :
    (x.startHalf g ws).Canonical := h.onT.applyHold

theorem State.Canonical.settleIntegrity {v : State} {k : Nat} (h : v.Canonical) : (settleIntegrity v k).Canonical := by
  unfold Machine.settleIntegrity; split
  · exact h.onT
  · exact h.onT.raiseGroup

theorem State.Canonical.having {s u : State} (hu : u.Canonical) : (s.having u).Canonical := hu

theorem State.Canonical.unready {s v u : State} {k : Nat} (h : s.Canonical) (hv : v.Canonical) (e : s.unready v k = some u) :
    u.Canonical := by
  unfold State.unready at e; split at e
  · cases e; exact hv
  · split at e
    · split at e
      · cases e
      · cases e; exact h.raiseGroup
    · cases e; exact hv.having.applyHold
    · cases e

section
variable {m : Meaning} (hm : MeaningKeeps m)
include hm

theorem lands_groupWord {w : (Word × Word) × Nat} {s : State} (h : s.Canonical) : CanonicalNext (groupWord m w s) := by
  unfold groupWord; dsimp only; split
  · exact .next h.onT.raise
  · exact hm _ _ h.onT

theorem lands_groupWords {k : Nat} (ws : List ((Word × Word) × Nat)) {s : State} (h : s.Canonical) :
    CanonicalNext (groupWords m k ws s) := by
  induction ws generalizing s with
  | nil => exact .next h
  | cons w ws ih =>
    have hw := lands_groupWord hm (w := w) h
    unfold groupWords; split
    · rename_i u e
      split
      · exact .next (hw u e)
      · exact ih (hw u e)
    · exact hw

end

theorem State.Canonical.begins {run : List ((Word × Word) × Nat) → Host.Outcome State Fault Refusal}
    (hr : ∀ ws, CanonicalNext (run ws)) {k : Nat} {s : State} (h : s.Canonical) {ws : List ((Word × Word) × Nat)}
    {o : Host.Outcome State Fault Refusal} (e : s.begins run k ws = some o) : CanonicalNext o := by
  induction ws with
  | nil => cases e
  | cons w ws ih =>
    unfold State.begins at e; split at e
    · rename_i v ev
      split at e
      · cases e; exact .next (h.unready (hr _ v ev) ‹_›)
      · exact ih e
    · cases e; exact hr _

theorem State.Canonical.settleGroup {s u : State} {k n : Nat} {ws : List ((Word × Word) × Nat)} {alone : Nat → State}
    (h : s.Canonical) (hu : u.Canonical) (ha : ∀ i, (alone i).Canonical) : (settleGroup s u k n ws alone).Canonical := by
  unfold Machine.settleGroup; split
  · exact .ite ((ha _).settleIntegrity) h.raiseGroup
  · exact hu
  · split
    · exact hu.endGroup
    · exact .ite hu.having.applyHold hu.startHalf

section
variable {m : Meaning} (hm : MeaningKeeps m)
include hm

/-- A chained group keeps the canonical form: its words do, and so does whatever the group comes to (R267). -/
theorem lands_runGroup {f : Fetched} {s : State} (h : s.Canonical) : CanonicalNext (runGroup m f s) := by
  have hw := fun k (probe : Bool) ws =>
    lands_groupWords hm (k := k) ws (s := s.onT fun t => { t with group := some { s.groupNow f with probe := probe } }) h.onT
  unfold runGroup; dsimp only; split
  · split
    · rename_i u e
      split
      · exact .next h.raiseGroup
      · exact .next h.applyHold
    · exact hw _ _ _
  · split
    · rename_i o e
      split at e
      · cases e
      · exact h.begins (hw _ _) e
    · split
      · rename_i u e
        refine .next (.ite (hw _ _ _ u e) (h.settleGroup (hw _ _ _ u e) fun i => ?_))
        split
        · exact hw _ _ _ _ ‹_›
        · exact h
      · exact hw _ _ _

theorem lands_issueGroup {s : State} (h : s.Canonical) : CanonicalNext (issueGroup m s) := by
  unfold issueGroup; dsimp only; split
  · exact .next h.raise
  · split
    · exact hm _ _ h.meetPacket
    · split
      · exact hm _ _ h.meetPacket
      · split
        · exact hm _ _ h.meetPacket
        · exact hm _ _ h.meetPacket
      · exact lands_runGroup hm h.meetPacket

theorem lands_issueSlot {s : State} (h : s.Canonical) : CanonicalNext (issueSlot m s) := by
  unfold issueSlot; split
  · exact lands_issueGroup hm h
  · exact .next h

theorem lands_issueTry {id : Nat} {s : State} (h : s.Canonical) : CanonicalNext (issueTry m id s).1 := by
  have hq : CanonicalNext (if (s.stage id).t.turnOver then m .quantumExpiry { s.stage id with subject := ⟨id, 0, 0⟩ }
      else .next (s.stage id)) := by
    split
    · exact hm _ _ h.stage
    · exact .next h.stage
  unfold issueTry; dsimp only; split
  · exact .next h.stage
  · split
    · exact hm _ _ h.stage
    · split
      · rename_i v ev
        have hv := lands_issueSlot hm (hq v ev).onT (s := v.onT Train.turn)
        split
        · rename_i u eu
          split
          · exact .next (hv u eu)
          · split
            · exact .next (hv u eu)
            · split
              · rename_i w ew
                exact .next (lands_issueSlot hm (hv u eu) w ew)
              · exact lands_issueSlot hm (hv u eu)
        · exact hv
      · exact hq

/-- A train's issue boundary keeps the canonical form (R138, R139). -/
theorem lands_issueTurn {id : Nat} {s : State} (h : s.Canonical) : CanonicalNext (issueTurn m id s) := by
  have ht := lands_issueTry hm (id := id) h
  unfold issueTurn; dsimp only; split
  · rename_i u sp e
    rw [e] at ht
    split
    · exact .next (ht u rfl).onCore
    · exact .next h
  · rename_i u e
    rw [e] at ht
    split
    · exact .next (ht u rfl).onCore.noteStall
    · exact .next (ht u rfl)
  · rename_i o _ e
    rw [e] at ht
    exact ht

end

end Sys2Proof.Machine
end

section
/-! SUPPORT. The operand forms, transfers of control, barriers and accesses of a word keep the canonical form (R151 to R179, R286 to R302,
R327 to R355). -/
namespace Sys2Proof.Machine

/-! ### Operand forms -/

theorem keeps_lane {c : Ctl} {d : Fld} {f : Train → Nat → Word} : Keeps (lane c d f) := fun _ h => h.onT.done
theorem keeps_laneLit {c : Ctl} {d : Fld} {f : Train → Nat → Word} : Keeps (laneLit c d f) := fun _ h => h.onT.doneLit
theorem keeps_lanePair {c : Ctl} {d : Fld} {f : Train → Nat → Dword} : Keeps (lanePair c d f) := fun _ h => h.onT.done
theorem keeps_compare {c : Ctl} {pd : Fld} {f : Train → Nat → Bool} : Keeps (compare c pd f) := fun _ h => h.onT.done
theorem keeps_predicate {c : Ctl} {pd : Fld} {f : Train → Mask} : Keeps (predicate c pd f) := fun _ h => h.onT.done
theorem keeps_uniform {c : Ctl} {d : Fld} {f : Train → Dword} : Keeps (uniform c d f) := fun _ h => h.onT.done
theorem keeps_uniformLit {c : Ctl} {d : Fld} {f : Train → Dword} : Keeps (uniformLit c d f) := fun _ h => h.onT.doneLit

theorem State.Canonical.readVa {s : State} {part va n : Nat} (h : s.Canonical) : (s.readVa part va n).1.Canonical := by
  unfold State.readVa; split
  · exact h
  · exact h.store.read

theorem State.Canonical.readConst {s : State} {off n : Nat} (h : s.Canonical) : (s.readConst off n).1.Canonical := by
  unfold State.readConst; dsimp only; split
  · exact h
  · exact h.readVa

theorem State.Canonical.poisonReply {s : State} {m : Mask} {info : Dword} (h : s.Canonical) :
    (s.poisonReply m info).Canonical := .ite h h.onT

/-! ### Transfers of control -/

theorem State.Canonical.sidingFault {s : State} (h : s.Canonical) : s.sidingFault.Canonical := h.raise
theorem keeps_transfer {targets : List (Dword × Mask)} {ends : Bool} : Keeps (transfer targets ends) :=
  fun _ h => .ite h.sidingFault h.conclude
theorem lands_execBra {c : Ctl} {off : BitVec 21} {s : State} (h : s.Canonical) : CanonicalNext (execBra c off s) :=
  lands_word (fun _ h => keeps_transfer _ h) h
theorem lands_execCall {c : Ctl} {off : BitVec 21} {s : State} (h : s.Canonical) : CanonicalNext (execCall c off s) :=
  lands_word (fun _ h => h.orRaise fun _ h => .ite h.sidingFault h.onT.conclude) h

theorem lands_execRet {c : Ctl} {s : State} (h : s.Canonical) : CanonicalNext (execRet c s) := by
  refine lands_word (fun u hu => ?_) h
  dsimp only
  exact hu.orRaise fun _ h => .ite h.sidingFault h.onT.conclude

theorem lands_execJmpi {c : Ctl} {a : Fld} {s : State} (h : s.Canonical) : CanonicalNext (execJmpi c a s) :=
  lands_word (fun _ h => .ite h.raise (keeps_transfer _ h)) h
theorem lands_execFork {k : Bool} {off : BitVec 21} {s : State} (h : s.Canonical) : CanonicalNext (execFork k off s) :=
  lands_word (fun _ h => .ite h.sidingFault h.conclude) h

theorem lands_execJoin {k : Bool} {s : State} (h : s.Canonical) : CanonicalNext (execJoin k s) := by
  refine lands_word (fun u hu => ?_) h
  split
  · exact hu.raise
  · exact hu.conclude

theorem lands_execTrap {c : Ctl} {n : BitVec 14} {s : State} (h : s.Canonical) : CanonicalNext (execTrap c n s) :=
  lands_word (fun _ h => .ite h.done h.raise) h
theorem lands_execBrk {c : Ctl} {n : BitVec 14} {s : State} (h : s.Canonical) : CanonicalNext (execBrk c n s) :=
  lands_word (fun _ h => .ite h.done h.raise) h

theorem lands_execIllegalInstruction {packet : Bool} {w : Word} {s : State} (h : s.Canonical) :
    CanonicalNext (execIllegalInstruction packet w s) := by
  unfold execIllegalInstruction; split
  · exact .fault _
  · split
    · dsimp only; split
      · exact .next h.kill
      · exact .next h.onT
    · exact .next h.raise

theorem lands_execQuantumExpiry {s : State} (h : s.Canonical) : CanonicalNext (execQuantumExpiry s) := by
  unfold execQuantumExpiry; dsimp only; split
  · exact .next h.stage.onT
  · exact .next h.stage

theorem lands_execTrapEntry {s : State} (h : s.Canonical) : CanonicalNext (execTrapEntry s) := by
  unfold execTrapEntry; dsimp only; split
  · exact .next h.stage.trapEntry
  · exact .next h.stage

/-! ### Barriers, `wait` and `fence` -/

theorem State.Canonical.act {s : State} {k : Order} (h : s.Canonical) : (s.act k).Canonical := h.onT
theorem State.Canonical.orderOnly {s : State} {k : Order} (h : s.Canonical) : (s.orderOnly k).Canonical := .ite h h.onT

theorem keeps_withBar {barid : BitVec 5} {body : Bar → State → State} (hb : ∀ b, Keeps (body b)) : Keeps (withBar barid body) := by
  intro s h
  unfold withBar; dsimp only; split
  · exact h.raise
  · exact hb _ s h

theorem State.Canonical.barRaise {s : State} {b : Bar} {f : Nat × Nat} (h : s.Canonical) : (s.barRaise b f).Canonical := h.raise

theorem keeps_arrival {drop : Bool} {go : Word → State → State} (hg : ∀ q, Keeps (go q)) {b : Bar} : Keeps (arrival drop go b) := by
  intro s h
  unfold arrival; dsimp only; split
  · exact h.barRaise
  · exact .ite (hg _ _ h.act.setBar) h.hold

theorem State.Canonical.waitDone {s : State} {b : Bar} (h : s.Canonical) : (s.waitDone b).Canonical :=
  .ite h.onT.barRaise h.onT.done
theorem State.Canonical.syncDone {s : State} {b : Bar} {q : Word} (h : s.Canonical) : (s.syncDone b q).Canonical :=
  .ite h.onT.barRaise h.onT.done
theorem State.Canonical.tryDone {s : State} {pd pa : Fld} {b : Bar} (h : s.Canonical) : (s.tryDone pd pa b).Canonical :=
  .ite h.onT.waitDone h.onT.done

theorem lands_execBarArrive {k : Bool} {pd : Fld} {bar : BitVec 5} {s : State} (h : s.Canonical) :
    CanonicalNext (execBarArrive k pd bar s) :=
  lands_word (keeps_coupled (keeps_withBar fun _ => keeps_arrival fun _ _ h => h.onT.doneEnding)) h

theorem lands_execBarDrop {k : Bool} {pd : Fld} {bar : BitVec 5} {s : State} (h : s.Canonical) :
    CanonicalNext (execBarDrop k pd bar s) :=
  lands_word (keeps_coupled (keeps_withBar fun _ => keeps_arrival fun _ _ h => h.onT.doneEnding)) h

theorem lands_execBarSync {k : Bool} {bar : BitVec 5} {s : State} (h : s.Canonical) : CanonicalNext (execBarSync k bar s) := by
  refine lands_word (keeps_coupled (keeps_withBar fun b u hu => ?_)) h
  dsimp only; split
  · exact keeps_arrival (fun _ _ h => h.onT.conclude) u hu
  · exact .ite hu.hold hu.onT.syncDone

theorem lands_execBarWait {k : Bool} {pa : Fld} {bar : BitVec 5} {s : State} (h : s.Canonical) :
    CanonicalNext (execBarWait k pa bar s) := lands_word (keeps_coupled (keeps_withBar fun _ _ h => .ite h.hold h.waitDone)) h

theorem lands_execBarExpect {k : Bool} {sb : Fld} {bar : BitVec 5} {s : State} (h : s.Canonical) :
    CanonicalNext (execBarExpect k sb bar s) := by
  refine lands_word (keeps_coupled (keeps_withBar fun b u hu => ?_)) h
  dsimp only; split
  · exact hu.barRaise
  · exact hu.setBar.doneEnding

theorem lands_execBarTry {k : Bool} {pd pa : Fld} {bar : BitVec 5} {sb : BitVec 2} {s : State} (h : s.Canonical) :
    CanonicalNext (execBarTry k pd pa bar sb s) := lands_word (keeps_coupled (keeps_withBar fun _ _ h => .ite h.tryDone h.hold)) h

theorem lands_execBarTryTimeout {s : State} (h : s.Canonical) : CanonicalNext (execBarTryTimeout s) := by
  unfold execBarTryTimeout; dsimp only; split
  · split
    · split
      · exact .next h.stage.onT.onT.tryDone
      · exact .next h.stage.onT.onT
    · exact .next h.stage.onT.onT
  · exact .next h.stage.onT

theorem lands_execWait {k : Bool} {ac : BitVec 4} {lim : BitVec 8} {s : State} (h : s.Canonical) :
    CanonicalNext (execWait k ac lim s) := lands_word (fun _ h => .ite h.hold (.ite h.onT.raise h.done)) h
theorem lands_execFence {c : Ctl} {sc : BitVec 3} {s : State} (h : s.Canonical) : CanonicalNext (execFence c sc s) :=
  lands_word (fun _ h => .ite h.done (.ite h.hold h.onT.done)) h

/-! ### Accesses of the local spaces -/

theorem State.Canonical.scratchWrite {s : State} {grid team off : Nat} {b : List Byte} (h : s.Canonical) :
    (s.scratchWrite grid team off b).Canonical := h.onTeam

theorem State.Canonical.putAccess {s : State} {space n ac : Nat} {acc : List LaneAcc} {writes : Bool} {k : Order}
    {work : Work} {e : Mask} (h : s.Canonical) :
    (s.putAccess space n ac acc writes k work e).Canonical := h.onT

theorem State.Canonical.readLocal {s : State} {space lane ea n : Nat} (h : s.Canonical) :
    (s.readLocal space lane ea n).1.Canonical := by
  unfold State.readLocal; split
  · exact h
  · exact h.readConst
  · exact h

theorem State.Canonical.loadLane {p : State × List Nat} (h : p.1.Canonical) {t : Train} {space : Nat} {d a : Fld} {off : BitVec 4}
    {n : Nat} {signed : Bool} {l : Nat} : (loadLane t space d a off n signed p l).1.Canonical := by
  obtain ⟨s, bad⟩ := p
  unfold Machine.loadLane; dsimp only; split
  · exact State.Canonical.onT (h.readLocal.of_eq ‹_›)
  · exact h.readLocal.of_eq ‹_›

theorem keeps_readNow {space : Nat} {e : Mask} {d a : Fld} {off : BitVec 4} {n : Nat} {signed : Bool} :
    Keeps (readNow space e d a off n signed) := fun _ h =>
  (State.Canonical.foldl_fst h (fun _ _ hq => hq.loadLane) _).poisonReply.done

theorem keeps_loadLocal {space : Nat} {c : Ctl} {d a : Fld} {w : BitVec 3} {off : BitVec 4} :
    Keeps (loadLocal space c d a w off) :=
  fun _ h => .ite h.done (h.orRaise fun _ h => .ite (.ite h.hold h.putAccess.done) (.ite h.hold (keeps_readNow _ h.act)))

theorem State.Canonical.storeLane {p : State × List Nat} (h : p.1.Canonical) {t : Train} {d a : Fld} {off : BitVec 4}
    {n l : Nat} : (storeLane t d a off n p l).1.Canonical := by
  unfold Machine.storeLane; dsimp only; split
  · exact h
  · exact h.onT

theorem keeps_storeLocal {space : Nat} {c : Ctl} {d a : Fld} {w : BitVec 3} {off : BitVec 4} :
    Keeps (storeLocal space c d a w off) :=
  fun _ h => .ite h.done (h.orRaise fun _ h => .ite h.hold
    (.ite (State.Canonical.foldl_fst h (fun _ _ hq => hq.storeLane) _).poisonReply.done h.putAccess.done))

/-! ### Accesses of global memory -/

theorem State.Canonical.meetHomes {s : State} {writes : Bool} (h : s.Canonical) (acc : List LaneAcc) :
    (s.meetHomes writes acc).1.Canonical := by
  induction acc generalizing s with
  | nil => exact h
  | cons a as ih =>
    unfold State.meetHomes; split
    · exact ih h
    · split
      · exact h
      · exact ih (h.homeAccess ‹_›)

theorem State.Canonical.meetNow {s : State} {writes : Bool} {acc : List LaneAcc} (h : s.Canonical) :
    (s.meetNow writes acc).1.Canonical := by
  unfold State.meetNow; split
  · exact (h.meetHomes _).of_eq ‹_›
  · have hu := (h.meetHomes _).of_eq ‹_›
    split
    · exact hu
    · exact .ite hu.notePull hu

theorem State.Canonical.readWords {s : State} {part va : Nat} (h : s.Canonical) (n : Nat) : (s.readWords part va n).1.Canonical := by
  induction n generalizing s va with
  | zero => exact h
  | succ n ih =>
    unfold State.readWords; split
    · exact h.readVa.of_eq ‹_›
    · have hn := fun u (hu : u.Canonical) => ih (s := u) (va := va + 32) hu
      split <;> exact (hn _ (h.readVa.of_eq ‹_›)).of_eq ‹_›

theorem State.Canonical.withRecord {s : State} {e : Mask} {va n : Nat} {body : List Byte → State → State} (hb : ∀ b, Keeps (body b))
    (h : s.Canonical) : (s.withRecord e va n body).Canonical := by
  unfold State.withRecord; split
  · exact h.hold
  · split
    · exact (h.meetNow.of_eq ‹_›).hold
    · have hu := h.meetNow.of_eq ‹_›
      split
      · exact ((hu.act.readWords _).of_eq ‹_›).raise
      · exact hb _ _ ((hu.act.readWords _).of_eq ‹_›)

theorem State.Canonical.issueAccess {s : State} {space n ac : Nat} {acc : List LaneAcc} {writes : Bool} {k : Order} {work : Work}
    {e : Mask} {go : State → State} (hg : Keeps go) (h : s.Canonical) :
    (s.issueAccess space n ac acc writes k work e go).Canonical := by
  unfold State.issueAccess; split
  · exact h.hold
  · split
    · exact ((State.Canonical.ite_fst (h.meetHomes _) h).of_eq ‹_›).hold
    · exact hg _ ((State.Canonical.ite_fst (h.meetHomes _) h).of_eq ‹_›).putAccess

theorem State.Canonical.emptyAccess {s : State} {k : Order} {go : State → State} (hg : Keeps go) (h : s.Canonical) :
    (s.emptyAccess k go).Canonical := .ite h.hold (hg _ h.orderOnly)

theorem keeps_done : Keeps State.done := fun _ h => h.done

theorem keeps_loadGlobal {c : Ctl} {d p : Fld} {n : Nat} {signed : Bool} {off ac : Nat} {k : Order} :
    Keeps (loadGlobal c d p n signed off ac k) :=
  fun _ h => .ite (h.emptyAccess keeps_done) (h.orRaise fun _ h => h.issueAccess keeps_done)

theorem keeps_storeGlobal {c : Ctl} {d p : Fld} {n off ac : Nat} {k : Order} : Keeps (storeGlobal c d p n off ac k) :=
  fun _ h => .ite (h.emptyAccess keeps_done) (h.orRaise fun _ h => h.issueAccess keeps_done)

theorem State.Canonical.prefetch {s : State} {part ea : Nat} (h : s.Canonical) : (s.prefetch part ea).Canonical := by
  unfold State.prefetch; split
  · exact h
  · split
    · exact h
    · dsimp only; split
      · exact h
      · split
        · exact .ite (.of_store h.store.promote) h
        · exact State.Canonical.settleNode (.of_store h.store.cancel)
        · exact h

theorem lands_execPfg {c : Ctl} {a : Fld} {s : State} (h : s.Canonical) : CanonicalNext (execPfg c a s) :=
  lands_word (fun _ h => (h.foldl (fun _ _ hu => hu.prefetch) _).done) h
theorem keeps_atomicBody {cas ret : Bool} {c : Ctl} {d a b : Fld} {lit : Word} : Keeps (atomicBody cas ret c d a b lit) :=
  fun _ h => .ite (h.emptyAccess fun _ h => h.doneEnding) (h.orRaise fun _ h => h.issueAccess fun _ h => h.doneEnding)

/-! ### The performance of pending operations -/

theorem State.Canonical.retire {s : State} (h : s.Canonical) : s.retire.Canonical := by
  unfold State.retire
  refine (h.onT.foldl (fun u o hu => ?_) _).tryEnd
  split
  · exact .ite hu.late hu
  · exact hu

theorem State.Canonical.complete {s : State} {o : Op} (h : s.Canonical) : (s.complete o).Canonical := by
  unfold State.complete; dsimp only
  refine State.Canonical.retire ?_
  split
  · exact .ite h.onT h.onT.late
  · exact h.onT

theorem State.Canonical.performLoad {s : State} {o : Op} {n : Nat} {signed : Bool} {d : Fld} {a : LaneAcc} (h : s.Canonical) :
    (s.performLoad o n signed d a).1.Canonical := by
  unfold State.performLoad; split <;> exact h.store.read.of_eq ‹_›

theorem State.Canonical.performLocal {s : State} {o : Op} {n : Nat} {signed : Bool} {d : Fld} {a : LaneAcc} (h : s.Canonical) :
    (s.performLocal o n signed d a).Canonical := h.onT

theorem State.Canonical.storeGlobalLane {s : State} {o : Op} {n : Nat} {acc : List LaneAcc} {a : LaneAcc} (h : s.Canonical) :
    (s.storeGlobalLane o n acc a).1.Canonical := by
  have hm := h.store.meetAll
  unfold State.storeGlobalLane; dsimp only; split
  · exact hm _
  · exact (hm _).foldl (fun _ _ hn => hn.put) _

theorem State.Canonical.performStore {s : State} {o : Op} {space n : Nat} {acc : List LaneAcc} {a : LaneAcc} (h : s.Canonical) :
    (s.performStore o space n acc a).1.Canonical := by
  unfold State.performStore; split
  · exact h.storeGlobalLane
  · exact h.foldl (fun _ _ hu => hu.scratchWrite) _

theorem State.Canonical.giveOld {s : State} {o : Op} {wide ret : Bool} {d : Fld} {lane old : Nat} (h : s.Canonical) :
    (s.giveOld o wide ret d lane old).Canonical := .ite h h

theorem State.Canonical.performAtomic {s : State} {o : Op} {space : Nat} {wide cas ret : Bool} {aop : Nat} {d : Fld}
    {a : LaneAcc} (h : s.Canonical) :
    (s.performAtomic o space wide cas ret aop d a).1.Canonical := by
  unfold State.performAtomic; dsimp only; split
  · exact h.scratchWrite.giveOld
  · split
    · exact h.store.read.of_eq ‹_›
    · exact State.Canonical.giveOld (.of_store (h.store.read.of_eq ‹_›).put)

theorem State.Canonical.afterLanes {s : State} {o : Op} {acc : List LaneAcc} (h : s.Canonical) :
    (s.afterLanes o acc).Canonical := by
  unfold State.afterLanes
  have ho : State.Canonical (if acc.any LaneAcc.done then s.onT fun t => t.owe o.after else s) := .ite h.onT h
  exact .ite ho.complete ho.onT

theorem State.Canonical.loadReply {s : State} {o : Op} {n : Nat} {signed : Bool} {d : Fld} {acc : List LaneAcc} {c : Nat}
    (h : s.Canonical) :
    (s.loadReply o n signed d acc c).Canonical :=
  State.Canonical.afterLanes (State.Canonical.foldl_fst h (fun p _ hp => by
  dsimp only; split
  · exact hp.performLoad
  · exact hp) _)

theorem State.Canonical.localReply {s : State} {o : Op} {n : Nat} {signed : Bool} {d : Fld} {acc : List LaneAcc} {c : Nat}
    (h : s.Canonical) :
    (s.localReply o n signed d acc c).Canonical := (h.foldl (fun _ _ hu => hu.performLocal) _).afterLanes

theorem lands_execStorePerformed {s : State} (h : s.Canonical) : CanonicalNext (execStorePerformed s) := by
  unfold execStorePerformed; dsimp only; split
  · split
    · split
      · exact .next h.stage
      · refine .next (State.Canonical.afterLanes (State.Canonical.foldl_fst h.stage (fun p _ hp => ?_) _))
        split
        · exact hp.performStore
        · exact hp
    · exact .next h.stage
  · exact .next h.stage

end Sys2Proof.Machine
end

section
/-! SUPPORT. The object words and the engines keep the canonical form (R82 to R101, R173, R356 to R360). -/
namespace Sys2Proof.Machine

/-! ### Objects -/

theorem State.Canonical.pin {s : State} {p : Nat × Nat} (h : s.Canonical) : (s.pin p).Canonical := h.onObject.onT

theorem State.Canonical.countWalk {s : State} {w : Walk} (h : s.Canonical) : (s.countWalk w).Canonical := by
  unfold State.countWalk; dsimp only; split
  · split
    · exact h.onObject.postRefine
    · exact h.onObject
  · exact h.onObject

theorem lands_execLdo {c : Ctl} {d a : Fld} {ac : BitVec 4} {s : State} (h : s.Canonical) :
    CanonicalNext (execLdo c d a ac s) :=
  lands_word (fun _ h => .ite h.doneEnding (.ite h.hold (h.orRaise fun _ h => h.orRaise fun _ h =>
    ((h.foldl (fun _ _ hu => hu.pin) _).foldl (fun _ _ hu => hu.countWalk) _).onT.doneEnding))) h

theorem lands_execOdrop {c : Ctl} {a : Fld} {s : State} (h : s.Canonical) : CanonicalNext (execOdrop c a s) :=
  lands_word (fun _ h => .ite h.hold (h.orRaise fun _ h =>
    (State.Canonical.foldl (.ite h h.act) (fun _ _ hu => hu.unpin) _).onT.doneEnding)) h

theorem State.Canonical.refineLane {s : State} {lane : Nat} {hd key tol : Word} (h : s.Canonical) :
    (s.refineLane lane hd key tol).1.Canonical := by
  unfold State.refineLane; split
  · exact h
  · dsimp only; split
    · exact h
    · split
      · exact h
      · exact h.postRefine

theorem State.Canonical.requestLanes {s : State} {evict : Bool} {a : Fld} (h : s.Canonical) (ls : List Nat) (ws : List ObjWait) :
    (s.requestLanes evict a ls ws).1.Canonical := by
  induction ls generalizing s ws with
  | nil => exact h
  | cons l ls ih =>
    unfold State.requestLanes; dsimp only; split
    · exact ih h _
    · refine ih ?_ _
      split
      · exact h.evictNow
      · exact h.refineLane

theorem keeps_objectRequest {evict : Bool} {c : Ctl} {d a : Fld} {ac : BitVec 4} : Keeps (objectRequest evict c d a ac) :=
  fun _ h => .ite h.doneEnding (.ite h.hold (h.orRaise fun _ h => h.orRaise fun _ h => (h.requestLanes _ _).onT.doneEnding))
theorem State.Canonical.objectReply {s : State} {o : Op} {d : Fld} {results : List (Nat × List Word)} (h : s.Canonical) :
    (s.objectReply o d results).Canonical := h.onT.complete
theorem State.Canonical.requestReply {s : State} {o : Op} {d : Fld} {ws : List ObjWait} (h : s.Canonical) :
    (s.requestReply o d ws).Canonical := .ite h.objectReply h

/-! ### Engines -/

theorem State.Canonical.issueEngine {s : State} {e : Mask} {ac : Nat} {rel : Bool} {ms : List Move} {bar : Option BarKey}
    {ob : Option Nat} {len : Dword} (h : s.Canonical) :
    (s.issueEngine e ac rel ms bar ob len).Canonical := .ite h.hold h.onT.doneEnding

theorem keeps_boxCopy {c : Ctl} {d a : Fld} {ac : Nat} {rel : Bool} {lit : Word} : Keeps (boxCopy c d a ac rel lit) := by
  intro s h
  unfold boxCopy; dsimp only; split
  · exact h.conclude
  · split
    · exact h.raise
    · exact h.orRaise fun _ h => h.orRaise fun _ h => h.issueEngine

theorem keeps_rowCopy {i : Instr} {scatter : Bool} {c : Ctl} {d a : Fld} {ac : Nat} {rel : Bool} :
    Keeps (rowCopy i scatter c d a ac rel) := by
  intro s h
  unfold rowCopy; dsimp only; split
  · exact h.doneEnding
  · split
    · exact h.raise
    · split
      · exact h.raise
      · split
        · exact h.raise
        · exact h.orRaise fun _ h => h.orRaise fun _ h => h.issueEngine

theorem State.Canonical.settleRest {s : State} {units : List EUnit} {bar : Option BarKey} (h : s.Canonical) :
    (s.settleRest units bar).Canonical := h.foldl (fun _ _ hu => .ite hu hu.settleAt) _

theorem lands_execEngineTranslate {s : State} (h : s.Canonical) : CanonicalNext (execEngineTranslate s) := by
  unfold execEngineTranslate; dsimp only; split
  · split
    · split
      · exact .next h.stage
      · split
        · exact .next h.stage.settleRest.complete
        · refine .next (State.Canonical.noteStall (State.Canonical.onT (State.Canonical.foldl_fst h.stage (fun q p hq => ?_) _)))
          split
          · exact hq.homeAccess ‹_›
          · exact hq
    · exact .next h.stage
  · exact .next h.stage

theorem State.Canonical.obufWrite {s : State} {grid team off : Nat} {b : List Byte} {bad : Bool} (h : s.Canonical) :
    (s.obufWrite grid team off b bad).Canonical := h.onTeam

theorem State.Canonical.sourceBytes {s : State} {src : Source} {n : Nat} (h : s.Canonical) :
    (s.sourceBytes src n).1.Canonical := by
  unfold State.sourceBytes; split
  · exact h
  · exact h
  · split
    · exact h
    · split <;> exact h.store.read.of_eq ‹_›
    · exact h

theorem State.Canonical.gather {s : State} (h : s.Canonical) (ms : List Move) : (s.gather ms).1.Canonical := by
  induction ms generalizing s with
  | nil => exact h
  | cons m ms ih => exact ih h.sourceBytes

theorem State.Canonical.writeMove {s : State} {whole : List Nat} {bad : Bool} {p : Move × List Byte} (h : s.Canonical) :
    (s.writeMove whole bad p).Canonical := by
  unfold State.writeMove; split
  · exact h
  · split
    · exact h.scratchWrite
    · exact h.obufWrite
    · exact .of_store (.ite (h.store.meetAll _).put.putPoisoned (h.store.meetAll _).put)
    · exact h

theorem State.Canonical.writeUnit {s : State} {before : List Move} {ps : List (Move × List Byte)} {bad : Bool} (h : s.Canonical) :
    (s.writeUnit before ps bad).1.Canonical := by
  unfold State.writeUnit; split
  · exact h
  · exact h.foldl (fun _ _ hu => hu.writeMove) _

theorem State.Canonical.settleUnit {s : State} {o : Op} {i : Nat} {marked bad : Bool} (h : s.Canonical) :
    (s.settleUnit o i marked bad).Canonical := by
  unfold State.settleUnit; split
  · split
    · exact .ite h.settleAt.complete h.settleAt.onT
    · exact h
  · exact h

theorem State.Canonical.dropTransfers {s : State} {op : Nat} (h : s.Canonical) : (s.dropTransfers op).Canonical := h

theorem State.Canonical.failOp {s : State} {o : Op} (h : s.Canonical) : (s.failOp o).Canonical := by
  unfold State.failOp; dsimp only; split
  · exact h.dropTransfers.settleRest.complete
  · exact h.dropTransfers

theorem State.Canonical.send {s : State} {kind entry : Nat} {tag : Word} {offset length : Nat} {data : List Byte}
    {value : Dword} {aop op unit : Nat} (h : s.Canonical) :
    (s.send kind entry tag offset length data value aop op unit).Canonical := by
  unfold State.send; split
  · exact h
  · exact h.sendMessage

theorem State.Canonical.sendUnit {s : State} {o : Op} {u : EUnit} {i : Nat} (h : s.Canonical) : (s.sendUnit o u i).Canonical := by
  unfold State.sendUnit; split
  · exact h
  · dsimp only; split
    · exact h.onT.send
    · exact .ite (h.gather _).failOp (h.gather _).onT.send
    · exact h

theorem State.Canonical.performUnit {s : State} {op i : Nat} (h : s.Canonical) : (s.performUnit op i).Canonical := by
  unfold State.performUnit; split
  · split
    · split
      · refine .ite h (.ite h.sendUnit ?_)
        exact State.Canonical.settleUnit (State.Canonical.writeUnit (h.gather _))
      · exact h
    · exact h
  · exact h

theorem lands_execEngineUnitSettle {s : State} (h : s.Canonical) : CanonicalNext (execEngineUnitSettle s) := by
  unfold execEngineUnitSettle; dsimp only; split
  · split
    · exact .next h.stage.performUnit
    · exact .next (h.stage.foldl (fun _ _ hu => hu.performUnit) _)
  · exact .next h.stage

end Sys2Proof.Machine
end

section
/-! SUPPORT. Flags, exchange, uniform loads and the matrix words keep the canonical form (R202 to R238, R299, R304 to R326). -/
namespace Sys2Proof.Machine

/-! ### Words that set flags, and shuffles -/

theorem keeps_laneFloat {c : Ctl} {d : Fld} {f : Train → Nat → Word × Flags} : Keeps (laneFloat c d f) := fun _ h => h.onT.done
theorem keeps_laneFloatPair {c : Ctl} {d : Fld} {f : Train → Nat → Dword × Flags} : Keeps (laneFloatPair c d f) :=
  fun _ h => h.onT.done
theorem keeps_laneFloatQuad {c : Ctl} {d : Fld} {f : Train → Nat → Nat → Word × Flags} : Keeps (laneFloatQuad c d f) :=
  fun _ h => h.onT.done
theorem keeps_compareFloat {c : Ctl} {pd : Fld} {f : Train → Nat → Bool × Flags} : Keeps (compareFloat c pd f) :=
  fun _ h => h.onT.done
theorem keeps_shuffle {c : Ctl} {d a b : Fld} {src : Nat → Nat → Int} : Keeps (shuffle c d a b src) := fun _ h => h.onT.done

/-! ### The uniform load -/

theorem keeps_loadConst {c : Ctl} {d a : Fld} {w : BitVec 3} {off : BitVec 4} : Keeps (loadConst c d a w off) := by
  intro _ h
  refine State.Canonical.orRaise (fun u hu => ?_) h
  split
  · exact hu.done
  · split
    · exact hu.hold
    · split
      · exact (hu.act.readConst.of_eq ‹_›).onT.done
      · exact (hu.act.readConst.of_eq ‹_›).poisonReply.done

/-! ### The matrix array -/

theorem keeps_lostFirst {c : Ctl} {body : State → State} (hb : Keeps body) : Keeps (lostFirst c body) := by
  intro s h
  unfold lostFirst; split
  · exact .ite (hb s h) h.raise
  · exact hb s h

theorem keeps_reserve {c : Ctl} {n k : Nat} : Keeps (reserve c n k) := by
  intro s h
  unfold reserve; dsimp only; split
  · exact h.doneEnding
  · split
    · exact h.hold
    · split
      · exact h.raise
      · split
        · exact (h.act.readConst.of_eq ‹_›).raise
        · have hu := h.act.readConst.of_eq ‹_›
          exact .ite hu.raise (.ite hu.raise hu.onTeam.doneEnding)

theorem keeps_fill {c : Ctl} {barn ob : Nat} {a : Fld} {ac lvl : Nat} {rel : Bool} : Keeps (fill c barn ob a ac lvl rel) := by
  intro s h
  unfold fill; dsimp only; split
  · exact h.doneEnding
  · split
    · exact h.raise
    · exact h.orRaise fun _ h => h.issueEngine

theorem State.Canonical.intoArray {s : State} {o : MatOp} {len : Dword} (h : s.Canonical) : (s.intoArray o len).Canonical :=
  h.onT.doneEnding

theorem keeps_multiply {c : Ctl} {zt : Nat} {a b : Fld} {lit : Word} : Keeps (multiply c zt a b lit) := by
  intro s h
  unfold multiply; dsimp only; split
  · exact h.doneEnding
  · split
    · exact h.raise
    · split
      · exact h.raise
      · refine h.orRaise fun u hu => ?_
        split
        · exact hu.hold
        · split
          · exact hu.raise
          · split
            · exact hu.hold
            · split <;> exact hu.act.intoArray

theorem keeps_storeTile {c : Ctl} {barn zt : Nat} {a : Fld} {ac lvl : Nat} {rel : Bool} :
    Keeps (storeTile c barn zt a ac lvl rel) :=
  fun _ h => .ite h.doneEnding (h.orRaise fun _ h => .ite h.hold h.issueEngine)

theorem State.Canonical.writeGen {s : State} {k : Nat × Nat} (h : s.Canonical) : (s.writeGen k).Canonical := by
  unfold State.writeGen; split
  · exact .ite h (.of_store h.store.deviceWrite)
  · exact h

theorem lands_execZclr {c : Ctl} {zt : BitVec 2} {s : State} (h : s.Canonical) : CanonicalNext (execZclr c zt s) :=
  lands_word (keeps_lostFirst fun _ h => .ite h.doneEnding (.ite h.hold h.intoArray)) h
theorem lands_execZmov {c : Ctl} {d : Fld} {zs grp : BitVec 2} {s : State} (h : s.Canonical) :
    CanonicalNext (execZmov c d zs grp s) := lands_word (keeps_lostFirst fun _ h => .ite h.hold h.onT.done) h

theorem lands_execMmaCommit {s : State} (h : s.Canonical) : CanonicalNext (execMmaCommit s) := by
  unfold execMmaCommit; dsimp only; split
  · split
    · exact .next h.stage
    · split
      · exact .next h.stage.onT.onT
      · split
        · exact .next h.stage.onT.late
        · exact .next h.stage.onT.onT
  · exact .next h.stage

theorem lands_execMatrixHang {s : State} (h : s.Canonical) : CanonicalNext (execMatrixHang s) := by
  unfold execMatrixHang; dsimp only; split
  · exact .next h.onCore
  · exact .next h

theorem lands_execArrayReset {s : State} (h : s.Canonical) : CanonicalNext (execArrayReset s) := by
  unfold execArrayReset; dsimp only; split
  · exact .next h
  · exact .next ((h.mapTrains.foldl (fun _ _ hu => hu.onTeam) _).foldl (fun _ _ hu => hu.writeGen) _).onCore

theorem lands_execZsave {k : Bool} {a : Fld} {s : State} (h : s.Canonical) : CanonicalNext (execZsave k a s) := by
  refine lands_word (fun u hu => hu.orRaise fun v hv => ?_) h
  dsimp only; split
  · exact hv.hold
  · split
    · exact (hv.meetNow.of_eq ‹_›).hold
    · exact State.Canonical.done (State.Canonical.onT (.of_store (hv.meetNow.of_eq ‹_›).act.store.deviceWriteRun))

theorem keeps_loadImage {va v : Nat} : Keeps (loadImage va v) :=
  fun _ h => .ite h.onT.done (.ite h.onT.done (h.orRaise fun _ h => h.withRecord fun _ _ h => h.onT.done))
theorem lands_execZload {k : Bool} {a : Fld} {s : State} (h : s.Canonical) : CanonicalNext (execZload k a s) :=
  lands_word (fun _ h => h.orRaise fun _ h => h.withRecord fun _ _ h => .ite h.stopTeam (keeps_loadImage _ h)) h

end Sys2Proof.Machine
end

section
/-! SUPPORT. Placement of grids and teams, and the yard, keep the canonical form (R121 to R136, R239 to R259). -/
namespace Sys2Proof.Machine

/-! ### Grids and teams -/

theorem State.Canonical.newSeq {s : State} {part : Nat} {event : Bool} (h : s.Canonical) : (s.newSeq part event).Canonical := h

theorem State.Canonical.acceptGrid {s : State} {part queue image : Nat} {r : LaunchRec} {parent : Option Nat} {batch : Nat}
    (h : s.Canonical) :
    (s.acceptGrid part queue image r parent batch).Canonical := h

theorem State.Canonical.placeTeam {s : State} {g : Grid} {idx cluster rank core : Nat} (h : s.Canonical) :
    (s.placeTeam g idx cluster rank core).Canonical := by
  have hp : State.Canonical (if g.launch.handler = 0 then s
      else (s.holdPages g.part (if g.launch.handler = 0 then 0 else s.freshVa g.part areaBytes 65536) areaBytes 3 true).1) :=
    .ite h h.holdPages
  unfold State.placeTeam
  exact (hp.takeHidden (part := g.part) (n := g.launch.trains * g.launch.width)).same.onCore.writeHeader.foldl
    (fun _ _ hu => hu.withTrain fun _ hw => hw.onT.tryEnd) _

theorem State.Canonical.served {s : State} {g : Grid} {core : Option Nat} (h : s.Canonical) : (s.served g core).Canonical :=
  h.onGrid.onPart.foldl (fun _ _ hu => hu.onCore) _

theorem State.Canonical.placeCluster {s : State} {seq : Nat} {cs : List Nat} (h : s.Canonical) :
    (s.placeCluster seq cs).Canonical := by
  unfold State.placeCluster; split
  · exact h
  · exact (h.foldl (fun _ _ hu => hu.placeTeam) _).onGrid.served

theorem lands_execTeamDeal {s : State} (h : s.Canonical) : CanonicalNext (execTeamDeal s) := by
  unfold execTeamDeal; split
  · exact .next (State.Canonical.foldl (.ite h.same h) (fun _ _ hu => hu.placeCluster) _)
  · exact .next h

/-! ### What the yard reads and writes -/

theorem State.Canonical.yardMeet {s : State} {part : Nat} {ranges : List (Nat × Nat)} (h : s.Canonical) :
    (s.yardMeet part ranges).Canonical := .of_store (h.store.foldl (fun _ _ hm => hm.meetRange) _)
theorem State.Canonical.yardReach {s : State} {part : Nat} {reads writes : List (Nat × Nat)} (h : s.Canonical) :
    (s.yardReach part reads writes).1.Canonical := h.meetPlaces _
theorem State.Canonical.meetRecs {s : State} {r : Ray} (h : s.Canonical) : (s.meetRecs r).Canonical := h.yardMeet
theorem State.Canonical.loseRay {s : State} {r : Ray} (h : s.Canonical) : (s.loseRay r).Canonical := h.onGrid.leaveFlight
theorem State.Canonical.newBatch {s : State} {kind tmpl : Nat} {r : Ray} {ms : List (Nat × Nat)} (h : s.Canonical) :
    (s.newBatch kind tmpl r ms).Canonical := h

theorem State.Canonical.newBatches {s : State} {kind tmpl : Nat} {r : Ray} {cap : Nat} (h : s.Canonical) (n : Nat)
    (ms : List (Nat × Nat)) : (s.newBatches kind tmpl r cap n ms).Canonical := by
  induction n generalizing s ms with
  | zero => exact h
  | succ n ih => exact .ite h (ih h.newBatch _)

theorem State.Canonical.intoBatch {s : State} {kind tmpl : Nat} {r : Ray} {ms : List (Nat × Nat)} (h : s.Canonical) :
    (s.intoBatch kind tmpl r ms).Canonical := by
  unfold State.intoBatch; split
  · exact h
  · exact h.newBatches _ _

theorem State.Canonical.onPlatform {s : State} {r : Ray} {station : Nat} (h : s.Canonical) :
    (s.onPlatform r station).Canonical := h
theorem State.Canonical.writeRay {s : State} {r : Ray} {a : After} (h : s.Canonical) : (s.writeRay r a).Canonical :=
  .of_store (h.store.foldl (fun _ _ hm => hm.deviceWrite) _).deviceWrite

/-! ### A ray after a call and after its verdicts -/

theorem State.Canonical.finishRay {s : State} {r : Ray} {a : After} {state : Nat} (h : s.Canonical) :
    (s.finishRay r a state).Canonical := .ite h.writeRay.leaveFlight h.writeRay.onRay.intoBatch

theorem State.Canonical.afterVerdicts {s : State} {r : Ray} {a : After} (h : s.Canonical) : (s.afterVerdicts r a).Canonical := by
  unfold State.afterVerdicts; split
  · exact h.finishRay
  · exact h.writeRay.onPlatform
  · exact h

theorem State.Canonical.afterCall {s : State} {r : Ray} {a : After} (h : s.Canonical) : (s.afterCall r a).Canonical := by
  unfold State.afterCall; split
  · exact .ite h.afterVerdicts h.writeRay.onRay.intoBatch
  · exact h.afterVerdicts

theorem State.Canonical.endRay {s : State} {c : Call} {set index : Nat} (h : s.Canonical) : (s.endRay c set index).Canonical := by
  unfold State.endRay; split
  · exact h
  · split
    · exact h
    · split
      · exact h.loseRay
      · dsimp only; split
        · exact h.meetRecs.yardMeet.afterCall
        · exact h.meetRecs.yardMeet.afterCall

theorem lands_execCallEnd {s : State} (h : s.Canonical) : CanonicalNext (execCallEnd s) := by
  unfold execCallEnd; split
  · exact .next h
  · dsimp only; split
    · exact .next (State.Canonical.foldl h.same (fun _ _ hu => hu.onRay) _)
    · split
      · exact .next h
      · split
        · exact .next (h.yardReach.of_eq ‹_›)
        · exact .next (State.Canonical.foldl (h.yardReach.of_eq ‹_›).same (fun _ _ hu => hu.endRay) _)

theorem lands_execStationCall {s : State} (h : s.Canonical) : CanonicalNext (execStationCall s) := by
  unfold execStationCall; dsimp only; split
  · exact .next h
  · split
    · exact .next h
    · split
      · exact .next h
      · exact .next (h.foldl (fun _ _ hu => hu.onRay) _).same

theorem lands_execRayRecordLost {s : State} (h : s.Canonical) : CanonicalNext (execRayRecordLost s) := by
  unfold execRayRecordLost; split
  · exact .next h
  · split
    · exact .next h
    · exact .next h.loseRay

theorem lands_execVerdictApply {s : State} (h : s.Canonical) : CanonicalNext (execVerdictApply s) := by
  unfold execVerdictApply; split
  · exact .next h
  · split
    · exact .next h
    · split
      · exact .next h.loseRay
      · split
        · exact .next (h.yardReach.of_eq ‹_›)
        · exact .next (h.yardReach.of_eq ‹_›).meetRecs.afterVerdicts

/-! ### Batches -/

theorem State.Canonical.dropBatch {s : State} {b : Batch} (h : s.Canonical) : (s.dropBatch b).Canonical := h

theorem State.Canonical.giveUp {s : State} {b : Batch} (h : s.Canonical) : (s.giveUp b).Canonical := by
  refine State.Canonical.foldl h.dropBatch.onGrid (fun u m hu => ?_) _
  split
  · exact hu
  · exact .ite hu.onRay hu.leaveFlight

theorem State.Canonical.launchBatch {s : State} {b : Batch} (h : s.Canonical) : (s.launchBatch b).Canonical := by
  unfold State.launchBatch; split
  · exact h.dropBatch
  · split
    · exact h
    · split
      · exact h.yardReach.of_eq ‹_›
      · have hu := (h.yardReach.of_eq ‹_›).yardMeet (part := b.set.part) (ranges := [(b.template, 160)])
        dsimp only; split
        · exact hu
        · exact .ite hu.giveUp (.ite hu (State.Canonical.foldl hu.same (fun _ _ hv => hv.onRay) _))

theorem lands_execAnyhitBatchLaunch {s : State} (h : s.Canonical) : CanonicalNext (execAnyhitBatchLaunch s) := by
  unfold execAnyhitBatchLaunch; split
  · split
    · exact .next h.launchBatch
    · exact .next h
  · exact .next h

theorem lands_execHitBatchLaunch {s : State} (h : s.Canonical) : CanonicalNext (execHitBatchLaunch s) := by
  unfold execHitBatchLaunch; split
  · split
    · exact .next h.launchBatch
    · exact .next h
  · exact .next h

end Sys2Proof.Machine
end

section
/-! SUPPORT. The ray and texture words, and the performance of loads and atomics, keep the canonical form (R245 to R264, R355). -/
namespace Sys2Proof.Machine

/-! ### Rays -/

theorem keeps_submitRays {c : Ctl} {a : Fld} {ac : Nat} {rel : Bool} {q : RaySet} : Keeps (submitRays c a ac rel q) :=
  fun _ h => h.orRaise fun _ h => h.orRaise fun _ h => .ite h.hold (State.Canonical.doneEnding h.same)

theorem keeps_rayBody {c : Ctl} {d a : Fld} {ac : Nat} {rel : Bool} : Keeps (rayBody c d a ac rel) := by
  intro s h
  unfold rayBody; dsimp only; split
  · exact h.doneEnding
  · split
    · exact h.raise
    · split
      · exact h.raise
      · exact .ite h.hold (h.withRecord fun _ _ h => .ite h.raise (keeps_submitRays _ h))

theorem lands_execCand {c : Ctl} {d : Fld} {s : State} (h : s.Canonical) : CanonicalNext (execCand c d s) :=
  lands_word (fun _ h => .ite h.done (.ite h.raise h.onT.done)) h
theorem lands_execCacc {c : Ctl} {a : Fld} {s : State} (h : s.Canonical) : CanonicalNext (execCacc c a s) :=
  lands_word (fun _ h => .ite h.done (.ite h.raise (h.orRaise fun _ h => h.onT.done))) h

/-- A ray that is refused or that takes its first platform (R249, R257). -/
theorem State.Canonical.acceptRay {s u : State} {r : Ray} {n : Nat} (h : s.Canonical) (e : s.acceptRay r = some (u, n)) :
    u.Canonical := by
  unfold State.acceptRay at e
  extract_lets q rec_ known spaced need _ kept at e
  split at e
  · cases e; exact h.leaveFlight
  · have hk : kept.Canonical := .ite h h.same
    split at e
    · cases e
    · split at e
      · cases e; exact h.leaveFlight
      · split at e
        · cases e
        · split at e
          have hv := (State.Canonical.ite_fst hk hk.takeHidden).of_eq ‹_›
          cases e
          exact State.Canonical.onPlatform (.of_store (State.Canonical.store (.ite hv hv.same)).deviceWrite)

theorem State.Canonical.acceptLane {s : State} {set : Nat} {x : Nat × Nat × Option Nat} (h : s.Canonical) :
    (s.acceptLane set x).1.Canonical := by
  unfold State.acceptLane; split
  · exact h
  · split
    · exact h
    · split
      · exact h.loseRay
      · split
        · exact h.yardReach.of_eq ‹_›
        · have hu := h.yardReach.of_eq ‹_›
          split
          · exact hu
          · exact hu.yardMeet.acceptRay ‹_›

theorem lands_execRayAccept {s : State} (h : s.Canonical) : CanonicalNext (execRayAccept s) := by
  unfold execRayAccept; dsimp only; split
  · split
    · split
      · exact .next h.stage
      · rename_i set ls _ _
        have hl := State.Canonical.foldl_fst (p := (s.stage s.subject.a, ([] : List (Nat × Nat × Option Nat)))) h.stage
          (f := fun p x => if 64 ≤ (s.stage s.subject.a).subject.c || x.1 = (s.stage s.subject.a).subject.c then
            ((p.1.acceptLane set x).1, p.2 ++ [(p.1.acceptLane set x).2]) else (p.1, p.2 ++ [x]))
          (fun q _ hq => .ite_fst hq.acceptLane hq) ls
        split
        · exact .next hl.complete
        · exact .next hl.onT
    · exact .next h.stage
  · exact .next h.stage

/-! ### Textures -/

theorem keeps_withDesc {c : Ctl} {k : Nat} {body : TexDesc → State → State} (hb : ∀ t, Keeps (body t)) : Keeps (withDesc c k body) := by
  intro s h
  unfold withDesc; split
  · exact (h.readConst.of_eq ‹_›).raise
  · exact .ite (hb _ _ (h.readConst.of_eq ‹_›)) (h.readConst.of_eq ‹_›).raise

theorem keeps_sample {c : Ctl} {d a : Fld} {ac : Nat} {rel : Bool} {lit : Word} : Keeps (sample c d a ac rel lit) := by
  intro s h
  unfold sample; dsimp only; split
  · exact h.doneEnding
  · split
    · exact h.hold
    · refine keeps_withDesc (fun t u hu => hu.orRaise fun v hv => ?_) s h
      split
      · exact hv.hold
      · split
        · exact ((hv.meetHomes _).of_eq ‹_›).hold
        · exact ((hv.meetHomes _).of_eq ‹_›).onT.doneEnding

theorem lands_execTexq {c : Ctl} {d a : Fld} {lit : Word} {s : State} (h : s.Canonical) :
    CanonicalNext (execTexq c d a lit s) :=
  lands_word (fun _ h => .ite h.doneLit (.ite h.hold (keeps_withDesc (fun _ _ h => h.onT.doneLit) _ h.act))) h

theorem Store.Canonical.readTexels {n : Nat} {m : Store} (h : m.Canonical) (ps : List (Nat × Nat × Nat)) :
    (readTexels n m ps).1.Canonical := by
  induction ps generalizing m with
  | nil => exact h
  | cons p ps ih =>
    unfold Machine.readTexels; split
    · exact h.read.of_eq ‹_›
    · have hm := ih (h.read.of_eq ‹_›)
      split <;> exact hm.of_eq ‹_›

theorem State.Canonical.sampleLane {s : State} {o : Op} {format : Nat} {d : Fld} {l : Nat × List (Nat × Nat × Nat)}
    (h : s.Canonical) :
    (s.sampleLane o format d l).1.Canonical := by
  unfold State.sampleLane; split <;> exact (h.store.readTexels _).of_eq ‹_›

theorem State.Canonical.textureReply {s : State} {o : Op} {format : Nat} {d : Fld} {ls : List (Nat × List (Nat × Nat × Nat))}
    (h : s.Canonical) :
    (s.textureReply o format d ls).Canonical :=
  .ite (State.Canonical.complete (State.Canonical.foldl_fst h (fun _ _ hq => hq.sampleLane) _)) h

/-! ### Replies and atomics -/

theorem lands_execLoadReply {s : State} (h : s.Canonical) : CanonicalNext (execLoadReply s) := by
  unfold execLoadReply; dsimp only; split
  · split
    · exact .next h.stage
    · split
      · exact .next h.stage.loadReply
      · exact .next h.stage.localReply
      · exact .next h.stage.objectReply
      · exact .next h.stage.requestReply
      · exact .next h.stage.textureReply
      · exact .next h.stage.complete
      · exact .next h.stage.onT.complete
      · exact .next h.stage
  · exact .next h.stage

theorem State.Canonical.sendAtomic {s : State} {o : Op} {wide cas : Bool} {aop win : Nat} {acc : List LaneAcc} {a : LaneAcc}
    (h : s.Canonical) :
    (s.sendAtomic o wide cas aop win acc a).Canonical := h.onT.send

theorem State.Canonical.atomicLane {s : State} {op lane : Nat} (h : s.Canonical) : (s.atomicLane op lane).Canonical := by
  unfold State.atomicLane; split
  · split
    · split
      · split
        · exact h
        · split
          · exact h.sendAtomic
          · exact .ite h h.performAtomic.afterLanes
      · exact h
    · exact h
  · exact h

theorem lands_execAtomicPerform {s : State} (h : s.Canonical) : CanonicalNext (execAtomicPerform s) := by
  unfold execAtomicPerform; dsimp only; split
  · split
    · exact .next h.stage
    · split
      · exact .next (h.stage.foldl (fun _ _ hu => .ite hu.atomicLane hu) _)
      · exact .next h.stage
  · exact .next h.stage

end Sys2Proof.Machine
end

section
/-! SUPPORT. The system words keep the canonical form (R186, R188, R199, R339 to R346, R362 to R364). -/
namespace Sys2Proof.Machine

theorem State.Canonical.countCycles {s : State} (h : s.Canonical) : s.countCycles.Canonical := h

theorem lands_execRdst {c : Ctl} {d : Fld} {form : BitVec 2} {reg : BitVec 12} {s : State} (h : s.Canonical) :
    CanonicalNext (execRdst c d form reg s) :=
  lands_word (fun _ h => .ite h.done (State.Canonical.done (State.Canonical.onT (.ite h.countCycles h)))) h

theorem State.Canonical.setStateReg {s : State} {reg : Nat} {x : Dword} (h : s.Canonical) : (s.setStateReg reg x).Canonical := by
  unfold State.setStateReg; split <;> exact h
theorem lands_execWrst {c : Ctl} {d : Fld} {form : BitVec 2} {reg : BitVec 12} {s : State} (h : s.Canonical) :
    CanonicalNext (execWrst c d form reg s) := lands_word (fun _ h => .ite h.done h.setStateReg.done) h

theorem keeps_returnBody {replay : Bool} : Keeps (returnBody replay) := by
  intro s h
  unfold returnBody; split
  · exact h.stopTeam
  · exact h.refuse
  · exact .ite h.hold h.conclude

theorem lands_execCsave {k : Bool} {s : State} (h : s.Canonical) : CanonicalNext (execCsave k s) := by
  refine lands_word (fun u hu => ?_) h
  dsimp only; split
  · exact hu.hold
  · have hm : (match u.myTeam with
        | some m => { u with m := u.m.deviceWrite u.t.i.part (m.record u.t.i.num) (saveHeader csaveLength 0 ++
            (List.range (csaveLength - 64)).map fun i => Config.imageByte (if u.t.x.saved then u.t.x.savedAt else u.tick) i) }
        | none => u).Canonical := by
      split
      · exact .of_store hu.store.deviceWrite
      · exact hu
    exact .ite hm.done hm.onT.done

theorem State.Canonical.meetImages {s : State} (h : s.Canonical) : s.meetImages.Canonical := by
  unfold State.meetImages; split
  · exact h
  · exact .of_store h.store.meetRange.meetRange

theorem State.Canonical.setPins {s : State} {pins : List (Nat × Nat)} (h : s.Canonical) : (s.setPins pins).Canonical :=
  (h.foldl (fun _ _ hu => hu.unpin) _).onT.foldl (fun _ _ hu => hu.pin) _

theorem lands_execCrest {k : Bool} {s : State} (h : s.Canonical) : CanonicalNext (execCrest k s) := by
  refine lands_word (fun u hu => .ite hu.refuse (.ite hu.hold ?_)) h
  split
  · exact hu.stopTeam
  · exact .ite hu.meetImages.stopTeam (hu.meetImages.reissueAll _).setPins.onT.onT.done.retire

theorem State.Canonical.spawnGrid {s : State} {queue v : Nat} (h : s.Canonical) : (s.spawnGrid queue v).1.Canonical :=
  .ite_fst (State.Canonical.acceptGrid h) h
theorem keeps_spawnBody {c : Ctl} {d a : Fld} {queue : BitVec 4} : Keeps (spawnBody c d a queue) :=
  fun _ h => .ite h.orderOnly.doneEnding (h.orRaise fun _ h => .ite h.hold (h.withRecord fun _ _ h => h.spawnGrid.onT.doneEnding))
theorem State.Canonical.svcDone {s : State} {d : Fld} {x : Dword} (h : s.Canonical) : (s.svcDone d x).Canonical := h.onT.doneEnding

theorem lands_execSvc {c : Ctl} {d : Fld} {code : BitVec 14} {s : State} (h : s.Canonical) :
    CanonicalNext (execSvc c d code s) := by
  refine lands_word (fun u hu => .ite hu.doneEnding ?_) h
  split
  · exact hu.svcDone
  · exact hu.hold

theorem lands_execSvcReply {s : State} (h : s.Canonical) : CanonicalNext (execSvcReply s) := by
  unfold execSvcReply; dsimp only; split
  · exact .next h.stage
  · split
    · exact .next h.stage
    · split
      · exact .next (State.Canonical.svcDone (State.Canonical.onT (.ite h.stage.countStall h.stage)))
      · exact .next (State.Canonical.onT (.ite h.stage.countStall h.stage))

end Sys2Proof.Machine
end

section
/-! SUPPORT. The resident service's replies, mappings, waits and copies keep the canonical form (R25 to R30, R64, R365, R366). -/
namespace Sys2Proof.Machine

/-! ### Requests and replies -/

theorem State.Canonical.reply {s : State} {r : Req} {status : Nat} {values : List Nat} {bytes : List Byte} (h : s.Canonical) :
    (s.reply r status values bytes).Canonical := h
theorem State.Canonical.answer {s : State} {r : Req} {status : Nat} (h : s.Canonical) : (s.answer r status).Canonical := h

section
variable {r : Req} {body : State → State} {s : State}

theorem lands_serveAny {red : Option (State → State)} (hr : ∀ f, red = some f → Keeps f) (hb : Keeps body) (h : s.Canonical) :
    CanonicalNext (serveAny r red body s) := by
  unfold serveAny; split
  · exact .next h
  · split
    · exact .next (.ite h.answer (hb s h))
    · refine .next ?_
      split
      · exact .ite h.answer (hr _ rfl s h)
      · exact h.answer
    · exact .next h

theorem lands_serve {red : Option (State → State)} (hr : ∀ f, red = some f → Keeps f) (hb : Keeps body) (h : s.Canonical) :
    CanonicalNext (serve r red body s) := by
  refine lands_serveAny hr (fun u hu => ?_) h
  split
  · exact hu.answer
  · exact .ite (hb u hu) hu.answer

theorem State.Canonical.park {s : State} {i : Instr} (h : s.Canonical) : (s.park i).Canonical := .ite h h
theorem State.Canonical.unpark {s : State} {i : Instr} (h : s.Canonical) : (s.unpark i).Canonical := h

theorem lands_serveWaiting {i : Instr} (hb : Keeps body) (h : s.Canonical) : CanonicalNext (serveWaiting r i body s) := by
  have hs := lands_serve (r := r) (red := none) (fun _ e => nomatch e) hb h
  unfold serveWaiting; split
  · exact .next (.ite (hs _ ‹_›) (hs _ ‹_›).unpark)
  · exact hs

theorem lands_serveMgmt (hb : Keeps body) (h : s.Canonical) : CanonicalNext (serveMgmt r body s) :=
  lands_serveAny (fun _ e => nomatch e) (fun _ h => .ite (hb _ h) h.answer) h

end

theorem State.Canonical.report {s : State} {r : Req} {e : Event} {status : Nat} (h : s.Canonical) :
    (s.report r e status).Canonical := h.reply

/-! ### Events and waits -/

theorem State.Canonical.completeEvent {s : State} {seq status : Nat} {addr : Option Nat} (h : s.Canonical) :
    (s.completeEvent seq status addr).Canonical := by
  unfold State.completeEvent; dsimp only; split
  · exact h
  · split
    · exact h
    · exact State.Canonical.foldl (State.Canonical.report h.same) (fun _ _ hu => hu.answer) _

theorem keeps_waitBody {r : Req} {seq : Nat} : Keeps (waitBody r seq) := by
  intro s h
  unfold waitBody; split
  · exact h.answer
  · split
    · exact h.answer
    · split
      · exact h.answer
      · split
        · exact State.Canonical.report h.same
        · exact h

theorem lands_execWaitTimeLimit {s : State} (h : s.Canonical) : CanonicalNext (execWaitTimeLimit s) := by
  unfold execWaitTimeLimit; dsimp only; split
  · exact .next (State.Canonical.answer h.same)
  · exact .next h

/-! ### Mappings -/

theorem State.Canonical.mapPages {s : State} {part addr len : Nat} {a : Attrs} (h : s.Canonical) :
    (s.mapPages part addr len a).Canonical := .of_store (h.store.takeUa (len := len) (align := a.page)).same

theorem keeps_mapRange {r : Req} {addr len : Nat} {attrs : Word} {i : Instr} : Keeps (mapRange r addr len attrs i) := by
  intro s h
  unfold mapRange; split
  · exact h.answer
  · exact .ite h.answer (.ite h.answer (.ite h.answer (.ite h.park h.mapPages.answer)))

theorem keeps_mapWindow {r : Req} {addr len peer peerWindow : Nat} {rights : BitVec 3} :
    Keeps (mapWindow r addr len peer peerWindow rights) := by
  intro s h
  unfold mapWindow; split
  · exact h.answer
  · split
    · exact h.answer
    · exact .ite h.answer (State.Canonical.answer h.same)

theorem lands_execMap {r : Req} {body : MapBody} {s : State} (h : s.Canonical) : CanonicalNext (execMap r body s) := by
  refine lands_serveWaiting (fun u hu => ?_) h
  split
  · exact keeps_mapRange u hu
  · exact keeps_mapWindow u hu

theorem keeps_unmapBody {r : Req} {addr len : Nat} : Keeps (unmapBody r addr len) :=
  fun _ h => .ite h.answer (State.Canonical.answer h.store.unmapRange)

/-! ### Copies -/

theorem State.Canonical.acceptCopy {s : State} {r : Req} {out : Bool} {addr len : Nat} {after : List Nat} {data : Sparse Byte}
    (h : s.Canonical) :
    (s.acceptCopy r out addr len after data).Canonical := h

theorem keeps_copyBody {r : Req} {out : Bool} {addr len : Nat} {after : List Nat} {data : List Byte} :
    Keeps (copyBody r out addr len after data) :=
  fun _ h => .ite h.answer (.ite h.answer (.ite h.acceptCopy h.acceptCopy.reply))

theorem Store.Canonical.copyWord {ua : Nat → Nat} {p : Store × Copy} {w : Nat × Nat} (h : p.1.Canonical) :
    (copyWord ua p w).1.Canonical := by
  unfold Machine.copyWord; dsimp only; split
  · split <;> exact h.read.of_eq ‹_›
  · exact h.write

/-- A read or write that meets the tier map, or waits where it parks (R69). -/
theorem State.Canonical.homeAccess_getD {s : State} {ua : Nat} {writes : Bool} (h : s.Canonical) :
    ((s.homeAccess ua writes).getD s).Canonical := by
  cases e : s.homeAccess ua writes with
  | none => exact h
  | some u => exact h.homeAccess e

theorem State.Canonical.copyChunk {s : State} {c : Copy} {k : Nat} (h : s.Canonical) : (s.copyChunk c k).1.Canonical := by
  unfold State.copyChunk; dsimp only; split
  · exact h
  · split
    · exact List.foldlRecOn (motive := fun p : Store × Copy => p.1.Canonical) _ _ h.store fun p hp w _ => Store.Canonical.copyWord hp
    · exact h.homeAccess_getD

theorem State.Canonical.copyDone {s : State} {c : Copy} {st : Nat} (h : s.Canonical) : (s.copyDone c st).Canonical :=
  .ite (State.Canonical.completeEvent h.same).reply (State.Canonical.completeEvent h.same)
theorem State.Canonical.copyEnd {s : State} {c : Copy} (h : s.Canonical) : (s.copyEnd c).Canonical := .ite h.copyDone h

theorem State.Canonical.copyFailed {s : State} {seq : Nat} (h : s.Canonical) : (s.copyFailed seq).Canonical := by
  unfold State.copyFailed; split
  · exact h.copyDone
  · exact h

theorem lands_execCopyPerform {s : State} (h : s.Canonical) : CanonicalNext (execCopyPerform s) := by
  unfold execCopyPerform; split
  · exact .next h
  · split
    · exact .next h
    · exact .next (State.Canonical.copyEnd (State.Canonical.foldl_fst h (fun _ _ hq => hq.copyChunk) _))

end Sys2Proof.Machine
end

section
/-! SUPPORT. The resident service's launches, queries, partitions, catalogue and resumes keep the canonical form (R27, R30, R35, R36, R97,
R200, R201). -/
namespace Sys2Proof.Machine

theorem State.Canonical.serviceRead {s : State} {part va n : Nat} (h : s.Canonical) : (s.serviceRead part va n).1.Canonical := by
  have hu := fun l => h.foldl (fun _ ua hu => hu.homeAccess_getD (ua := ua) (writes := false)) l
  unfold State.serviceRead; dsimp only; split
  · exact Store.Canonical.foldl (hu _) (fun _ _ hm => hm.meetRange) _
  · exact hu _

theorem keeps_launchBody {r : Req} {image record queue : Nat} {i : Instr} : Keeps (launchBody r image record queue i) := by
  intro s h
  unfold launchBody; dsimp only; split
  · exact h.answer
  · split
    · exact (h.serviceRead.of_eq ‹_›).park
    · have hu := h.serviceRead.of_eq ‹_›
      exact .ite hu.answer hu.acceptGrid.reply

theorem State.Canonical.queryItem {s : State} {part : Nat} (h : s.Canonical) (i : QueryItem) : (s.queryItem part i).1.Canonical := by
  cases i
  case object n clear =>
    unfold State.queryItem; dsimp only; split
    · exact h
    · exact .ite h.onObject h
  case core n => exact State.Canonical.ite_fst h.countStall.countLatency h
  all_goals exact h

theorem lands_execQuery {r : Req} {item : QueryItem} {s : State} (h : s.Canonical) : CanonicalNext (execQuery r item s) := by
  refine lands_serve (fun f e => ?_) (fun u hu => ?_) h
  · cases e; exact fun _ hu => hu.reply
  · split
    · exact ((hu.queryItem _).of_eq ‹_›).reply
    · exact ((hu.queryItem _).of_eq ‹_›).answer

theorem keeps_attestBody {r : Req} {nonce : List Byte} : Keeps (attestBody r nonce) := fun _ h => .ite h.answer h.reply

theorem lands_execAttest {r : Req} {nonce : List Byte} {s : State} (h : s.Canonical) : CanonicalNext (execAttest r nonce s) := by
  unfold execAttest
  refine lands_serveAny (fun f e => ?_) keeps_attestBody h
  cases e; exact keeps_attestBody

theorem State.Canonical.loadStores {s : State} {p : Part} (h : s.Canonical) : (s.loadStores p).Canonical :=
  h.foldl (fun _ _ hu => hu.onCore) _

theorem keeps_createBody {r : Req} {b : PartBody} : Keeps (createBody r b) := by
  intro s h
  unfold createBody; split
  · split
    · exact h.answer
    · split
      · exact h.answer
      · exact .ite h.answer (State.Canonical.reply (State.Canonical.loadStores h.same))
  · exact h.answer

/-! ### The end of a partition -/

theorem Store.Canonical.dropPart {m : Store} {part : Nat} (h : m.Canonical) : (m.dropPart part).Canonical :=
  ((h.foldl (fun _ _ hm => hm.release) _).foldl (fun _ _ hm => hm.release) _).same
theorem State.Canonical.dropTrains {s : State} {part : Nat} (h : s.Canonical) : (s.dropTrains part).Canonical :=
  (h.foldl (fun _ _ hu => hu.unpin) _).same
theorem State.Canonical.dropEvents {s : State} {part : Nat} (h : s.Canonical) : (s.dropEvents part).Canonical :=
  State.Canonical.same ((h.foldl (fun _ _ hu => hu.completeEvent) _).foldl (fun _ _ hu => hu.answer) _)
theorem State.Canonical.unholdCores {s : State} {seqs : List Nat} (h : s.Canonical) : (s.unholdCores seqs).Canonical :=
  h.foldl (fun _ _ hu => hu.onCore) _
theorem State.Canonical.dropGrids {s : State} {part : Nat} (h : s.Canonical) : (s.dropGrids part).Canonical :=
  (h.unholdCores.foldl (fun _ _ hu => hu.giveHidden) _).same

theorem State.Canonical.dropPart {s : State} {part : Nat} (h : s.Canonical) : (s.dropPart part).Canonical := by
  have hg := (h.dropTrains (part := part)).dropEvents (part := part) |>.dropGrids (part := part)
  unfold State.dropPart
  exact Store.Canonical.dropPart hg.mapTrains

theorem lands_execPartitionDestroy {r : Req} {part : Nat} {s : State} (h : s.Canonical) :
    CanonicalNext (execPartitionDestroy r part s) :=
  lands_serveMgmt (fun _ h => .ite h.answer h.dropPart.reply) h

theorem keeps_catalogueBody {r : Req} {kind : Nat} {image : CatalogueImage} : Keeps (catalogueBody r kind image) := by
  intro s h
  unfold catalogueBody; split
  · exact h.answer
  · split
    · exact h.answer
    · split
      · exact h.answer
      · exact State.Canonical.reply h.same

/-! ### Resuming a context in another partition -/

theorem State.Canonical.moveArea {s : State} {m : Team} {src dst : Nat} (h : s.Canonical) : (s.moveArea m src dst).Canonical :=
  .ite h (State.Canonical.onTeam h.store.same)
theorem State.Canonical.descTaken {s : State} {seq src : Nat} (h : s.Canonical) : (s.descTaken seq src).Canonical :=
  h.setDescs.onGrid

theorem State.Canonical.moveGrid {s : State} {seq src dst : Nat} (h : s.Canonical) : (s.moveGrid seq src dst).Canonical := by
  have hf := h.foldl (fun _ m hu => hu.moveArea (m := m) (src := src) (dst := dst)) (s.d.teams.filter fun m => m.grid = seq)
  exact hf.store.same

theorem keeps_resumeBody {r : Req} {desc target : Nat} {i : Instr} : Keeps (resumeBody r desc target i) := by
  intro s h
  unfold resumeBody; split
  · exact h.answer
  · rename_i d _
    have hm : State.Canonical { s with m := (eccWords d.addr 64).foldl Store.meet s.m } :=
      .of_store (h.store.meetAll _)
    dsimp only; split
    · exact hm.answer
    · split
      · exact hm.answer
      · split
        · refine .ite hm.answer (.ite hm.answer (.ite hm.park ?_))
          exact (State.Canonical.descTaken (.ite hm.newSeq hm.newSeq.moveGrid)).completeEvent.reply
        · exact hm.answer

end Sys2Proof.Machine
end

section
/-! SUPPORT. The image loader and the scheduler keep the canonical form (R50 to R56, R141 to R143, R190 to R201). -/
namespace Sys2Proof.Machine

/-! ### Images -/

theorem State.Canonical.mapData {s : State} {part : Nat} {x : Ready} (h : s.Canonical) : (s.mapData part x).1.Canonical := by
  unfold State.mapData; dsimp only; split
  · exact h
  · exact .of_store (h.store.takeUa (len := x.dataGranules * 65536) (align := 65536)).same

theorem State.Canonical.placeImage {s : State} {part : Nat} {x : Ready} (h : s.Canonical) : (s.placeImage part x).1.Canonical := by
  rw [State.placeImage]; split
  next u _ eu =>
  have hr : u.Canonical := by
    refine State.Canonical.of_eq (State.Canonical.foldl_fst h (fun _ _ hq => ?_) _) eu
    exact hq.holdPages
  split
  have hd := (hr.mapData (part := part) (x := x)).of_eq ‹_›
  extract_lets n
  split
  next v _ _ ev =>
  have hv : v.Canonical := .of_eq (.ite_fst hd hd.takePinned) ev
  exact .of_store (Store.Canonical.foldl (State.Canonical.ite (.of_store hv.store.advance) hv) (fun _ _ hm => hm.deviceWrite) _)

theorem State.Canonical.installImage {s : State} {part : Nat} {x : Ready} (h : s.Canonical) :
    (s.installImage part x).Canonical := by
  rw [State.installImage]; split
  exact State.Canonical.completeEvent (State.Canonical.same (h.placeImage.of_eq ‹_›))

theorem keeps_loadBody {r : Req} {b : List Byte} {i : Instr} : Keeps (loadBody r b i) := by
  intro s h
  unfold loadBody; split
  · exact h.reply
  · split
    · exact h.reply
    · split
      · exact h.reply
      · exact .ite h.installImage.reply h.park

/-! ### The end of a grid -/

theorem State.Canonical.settleBatch {s : State} {g : Grid} (h : s.Canonical) : (s.settleBatch g).Canonical := by
  unfold State.settleBatch; split
  · exact h
  · refine (h.foldl (fun u x hu => .ite hu.onRay ?_) _).dropBatch
    split
    · exact .ite hu.leaveFlight hu
    · exact hu

theorem State.Canonical.clearGrid {s : State} {seq : Nat} (h : s.Canonical) : (s.clearGrid seq).Canonical :=
  ((h.foldl (fun _ _ hu => hu.releaseTeam) _).foldl (fun _ _ hu => hu.giveHidden) _).same

theorem lands_execGridComplete {s : State} (h : s.Canonical) : CanonicalNext (execGridComplete s) := by
  unfold execGridComplete; split
  · exact .next h
  · split
    · exact .next h
    · refine .next (State.Canonical.completeEvent ?_)
      split
      · exact .ite h.settleBatch.clearGrid.onGrid.onGrid h.settleBatch.clearGrid.onGrid
      · exact h.settleBatch.clearGrid.onGrid

/-! ### Pre-emption and the way back -/

theorem State.Canonical.preemptTeams {s : State} {ts : List (Nat × Nat)} {reason : Nat} (h : s.Canonical) :
    (s.preemptTeams ts reason).Canonical := h.mapTrains

theorem State.Canonical.abandonCall {s : State} {core : Nat} (h : s.Canonical) : (s.abandonCall core).Canonical := by
  unfold State.abandonCall; split
  · exact h
  · exact State.Canonical.foldl h.same (fun _ _ hu => hu.onRay) _

theorem State.Canonical.holdCores {s : State} {cs : List Nat} {gone : List (Nat × Nat)} {seq : Nat} (h : s.Canonical) :
    (s.holdCores cs gone seq).Canonical := (h.foldl (fun _ _ hu => hu.onCore) _).foldl (fun _ _ hu => hu.abandonCall) _

theorem lands_execPreemptRequest {s : State} (h : s.Canonical) : CanonicalNext (execPreemptRequest s) := by
  unfold execPreemptRequest; split
  · exact .next h
  · split
    · split
      · exact .next h.holdCores.preemptTeams
      · exact .next h
    · exact .next h

theorem lands_execGraceExpiry {s : State} (h : s.Canonical) : CanonicalNext (execGraceExpiry s) := by
  unfold execGraceExpiry; dsimp only; split
  · split
    · exact .next h.stage.stopTeam
    · exact .next h
  · exact .next h

theorem State.Canonical.makeReady {s : State} {gs : List Nat} (h : s.Canonical) : (s.makeReady gs).Canonical :=
  h.foldl (fun _ _ hu => .ite (.of_store hu.store.promote) hu) _
theorem State.Canonical.replaceTeam {s : State} {g : Grid} {m : Team} {core : Nat} (h : s.Canonical) :
    (s.replaceTeam g m core).Canonical := h.makeReady.mapTrains.onTeam.onCore.writeHeader
theorem State.Canonical.undescribe {s : State} {g : Grid} (h : s.Canonical) : (s.undescribe g).Canonical := h.setDescs

theorem lands_execTeamReplace {s : State} (h : s.Canonical) : CanonicalNext (execTeamReplace s) := by
  unfold execTeamReplace; split
  · split
    · split
      · exact .next h
      · exact .next (h.foldl (fun _ _ hu => hu.replaceTeam) _).onGrid.undescribe.served
    · exact .next h
  · exact .next h

theorem State.Canonical.resumeOp {s : State} {o : Op} (h : s.Canonical) : (s.resumeOp o).Canonical :=
  .ite h.reissueMet.complete h.reissueMet.onT

theorem lands_execParkResume {s : State} (h : s.Canonical) : CanonicalNext (execParkResume s) := by
  unfold execParkResume; dsimp only; split
  · exact .next h.stage
  · split
    · split
      · split
        · exact .next h.stage.resumeOp
        · exact .next h.stage
      · exact .next h.stage
    · split
      · exact .next h.stage
      · split
        · split
          · exact .next (State.Canonical.onT (.of_store h.stage.store.promote))
          · exact .next h.stage
        · exact .next h.stage.onT

theorem lands_execSwitchOut {s : State} (h : s.Canonical) : CanonicalNext (execSwitchOut s) := by
  unfold execSwitchOut; split
  · exact .next h
  · split
    · split
      · exact .next h
      · exact .next (h.foldl (fun _ _ hu => hu.onTeam) _).preemptTeams
    · exact .next h

theorem State.Canonical.failGrid {s : State} {seq : Nat} (h : s.Canonical) : (s.failGrid seq).Canonical :=
  (h.unholdCores.onGrid.foldl (fun _ _ hu => hu.withTrain fun _ hw => hw.onT.tryEnd) _).onGrid

theorem lands_execCoreFailure {s : State} (h : s.Canonical) : CanonicalNext (execCoreFailure s) := by
  unfold execCoreFailure; dsimp only; split
  · exact .next h
  · split
    · exact .next h.copyFailed
    · split
      · exact .next h
      · exact .next (h.abandonCall.unholdCores.onCore.foldl (fun _ _ hu => hu.failGrid) _)

end Sys2Proof.Machine
end

section
/-! SUPPORT. The events of the tiers and of the package keep the canonical form (R13 to R24, R31 to R34, R69 to R81, R101). -/
namespace Sys2Proof.Machine

/-! ### The tiers -/

theorem State.Canonical.meetHome {s : State} {train core line : Nat} {writes : Bool} (h : s.Canonical) :
    (s.meetHome train core line writes).Canonical := by
  unfold State.meetHome; split
  · exact .ite (State.Canonical.noteStall (State.Canonical.mapTrains (h.homeAccess ‹_›))) (h.homeAccess ‹_›)
  · exact h.mapTrains.noteStall

theorem Store.Canonical.spoil {m : Store} {w : Nat} (h : m.Canonical) : (m.spoil w).Canonical := .ite h h.same
theorem State.Canonical.noteCorrected {s : State} {line : Nat} (h : s.Canonical) : (s.noteCorrected line).Canonical := h

theorem lands_execHomeSliceAccess {s : State} (h : s.Canonical) : CanonicalNext (execHomeSliceAccess s) := by
  unfold execHomeSliceAccess; dsimp only; split
  · exact .next h
  · split
    · split
      · exact .next h
      · exact .next (.ite h.meetHome (.of_store h.meetHome.store.spoil))
    · split
      · exact .next h.mapTrains
      · split
        · exact .next (.ite (.of_store h.store.spoil) h)
        · split
          · exact .next h.noteCorrected
          · exact .next h

theorem lands_execLineArrival {s : State} (h : s.Canonical) : CanonicalNext (execLineArrival s) := by
  unfold execLineArrival; dsimp only; split
  · exact .next h
  · split
    · exact .next h
    · split
      · exact .next (State.Canonical.settleNode (.of_store (Store.Canonical.promotionCommit (Store.Canonical.onGran
          (.ite (Store.Canonical.meetAll h.store.same _) h.store)))))
      · exact .next (.of_store (Store.Canonical.onGran (.ite (Store.Canonical.meetAll h.store.same _) h.store)))

theorem lands_execDemotionLineWritten {s : State} (h : s.Canonical) : CanonicalNext (execDemotionLineWritten s) := by
  unfold execDemotionLineWritten; dsimp only; split
  · exact .next h
  · split
    · exact .next h
    · have hm := h.store.meetAll ((List.range 8).map fun i => s.subject.a * 8 + i)
      split
      · exact .next (State.Canonical.settleNode hm.onGran.demotionCommit)
      · exact .next (.of_store (s := { s with k := { s.k with written := s.k.written + 256 } }) hm.onGran)

theorem lands_execEvictionRequest {s : State} (h : s.Canonical) : CanonicalNext (execEvictionRequest s) := by
  have hd : State.Canonical { s with m := s.m.demote s.subject.b } := .of_store h.store.demote
  unfold execEvictionRequest; dsimp only; split
  · exact .next h
  · split
    · exact .next h
    · split
      · exact .next hd
      · split
        · exact .next hd
        · split
          · exact .next h.evictNode
          · exact .next hd.settleNode

theorem lands_execDormantZeroFill {s : State} (h : s.Canonical) : CanonicalNext (execDormantZeroFill s) := by
  unfold execDormantZeroFill; split
  · split
    · exact .next (.of_store h.store.zeroFill)
    · exact .next h
  · exact .next h

theorem lands_execForcedRefresh {s : State} (h : s.Canonical) : CanonicalNext (execForcedRefresh s) := by
  unfold execForcedRefresh; dsimp only; split
  · exact .next h
  · exact .next h

theorem lands_execQuarantineRelease {s : State} (h : s.Canonical) : CanonicalNext (execQuarantineRelease s) := by
  unfold execQuarantineRelease; split
  · exact .next h
  · split
    · exact .next h
    · exact .next (State.Canonical.foldl (.of_store h.store.same) (fun _ _ hu => hu.describe) _)

theorem lands_execBadBlockRetirement {s : State} (h : s.Canonical) : CanonicalNext (execBadBlockRetirement s) :=
  .next h

/-! ### Bring-up and power -/

theorem State.Canonical.broughtUp {s : State} {f : SelfTest} (h : s.Canonical) : (s.broughtUp f).Canonical := h

/-- The module without power holds no byte, whatever it held before. -/
theorem State.canonical_unpowered {s : State} : s.unpowered.Canonical := wf_reset

theorem lands_execBringUp {found : SelfTest} {s : State} (h : s.Canonical) : CanonicalNext (execBringUp found s) := by
  unfold execBringUp; split
  · exact .next h.broughtUp
  · exact .next State.canonical_unpowered.broughtUp
  · exact .next h

theorem lands_execPowerOff {s : State} : CanonicalNext (execPowerOff s) := .next State.canonical_unpowered
theorem lands_execShutdownTrip {s : State} : CanonicalNext (execShutdownTrip s) := .next State.canonical_unpowered
theorem State.Canonical.onPower {s : State} {f : Power → Power} (h : s.Canonical) : (s.onPower f).Canonical := .ite h h
theorem lands_execGrantRequest {s : State} (h : s.Canonical) : CanonicalNext (execGrantRequest s) := .next h.onPower
theorem lands_execReclaimReturn {s : State} (h : s.Canonical) : CanonicalNext (execReclaimReturn s) := .next h.onPower
theorem lands_execThrottleTrip {s : State} (h : s.Canonical) : CanonicalNext (execThrottleTrip s) := .next h.onPower
theorem lands_execThrottleRelease {s : State} (h : s.Canonical) : CanonicalNext (execThrottleRelease s) := .next h.onPower

/-! ### Messages of peers -/

theorem lands_execUnsupportedPacket {s : State} (h : s.Canonical) : CanonicalNext (execUnsupportedPacket s) :=
  .next (.ite h.dropAt h)

theorem State.Canonical.answerPeer {s : State} {w : Window} {kind : Nat} {tag : Word} {off : Nat} {data : List Byte}
    {value : Dword} (h : s.Canonical) :
    (s.answerPeer w kind tag off data value).Canonical := h.sendMessage

theorem State.Canonical.peerAccess {s : State} {i : Instr} {port source window right off n : Nat}
    {perform : State → Window → Nat → State}
    (hp : ∀ u w ua, u.Canonical → (perform u w ua).Canonical) (h : s.Canonical) :
    (s.peerAccess i port source window right off n perform).Canonical := by
  rw [State.peerAccess]; split
  · exact h
  · split
    · exact h.unpark.dropAt
    · split
      · exact h.unpark.dropAt
      · exact .ite (hp _ _ _ h.unpark) h.homeAccess_getD.park

theorem State.Canonical.breakTransfer {s : State} {m : PeerWrite} (h : s.Canonical) : (s.breakTransfer m).Canonical := .ite h h

theorem lands_execWriteChunk {m : PeerWrite} {s : State} (h : s.Canonical) : CanonicalNext (execWriteChunk m s) := by
  refine .next (h.peerAccess fun u w ua hu => .ite hu.breakTransfer.answerPeer ?_)
  split
  · exact State.Canonical.answerPeer (.of_store (hu.store.write.of_eq ‹_›))
  · exact State.Canonical.answerPeer (State.Canonical.breakTransfer (.of_store (hu.store.write.of_eq ‹_›)))

theorem lands_execReadRequest {m : PeerRead} {s : State} (h : s.Canonical) : CanonicalNext (execReadRequest m s) := by
  refine .next (h.peerAccess fun u w ua hu => ?_)
  split <;> exact State.Canonical.answerPeer (.of_store (hu.store.read.of_eq ‹_›))

theorem lands_execAtomicRequest {m : PeerAtomic} {s : State} (h : s.Canonical) : CanonicalNext (execAtomicRequest m s) := by
  refine .next (h.peerAccess fun u w ua hu => ?_)
  split
  · exact State.Canonical.answerPeer (.of_store (hu.store.read.of_eq ‹_›))
  · exact State.Canonical.answerPeer (.of_store (hu.store.read.of_eq ‹_›).put)

/-! ### Transfers of this device -/

theorem State.Canonical.endTransfer {s : State} {x : Transfer} (h : s.Canonical) : (s.endTransfer x).Canonical := h
theorem State.Canonical.transferOp {s : State} {x : Transfer} (h : s.Canonical) : (s.transferOp x).1.Canonical := h.stage

theorem State.Canonical.failTransfer {s : State} {o : Op} (h : s.Canonical) : (s.failTransfer o).Canonical := by
  unfold State.failTransfer; dsimp only; split
  · exact h.dropTransfers.complete
  · exact h.dropTransfers.failOp

theorem State.Canonical.atSource {s : State} {port : Nat} {tag : Word} {offset : Nat} {i : Instr}
    {f : State → Transfer → Op → State}
    (hf : ∀ u x o, u.Canonical → (f u x o).Canonical) (h : s.Canonical) : (s.atSource port tag offset i f).Canonical := by
  unfold State.atSource; split
  · exact h
  · split
    · exact h.dropAt
    · split
      · exact h.unpark
      · split
        · exact (h.transferOp.of_eq ‹_›).endTransfer.unpark
        · exact hf _ _ _ (h.transferOp.of_eq ‹_›)

theorem lands_execMessageAbandon {s : State} (h : s.Canonical) : CanonicalNext (execMessageAbandon s) := by
  unfold execMessageAbandon; split
  · exact .next h
  · split
    · exact .next (h.transferOp.of_eq ‹_›).endTransfer
    · exact .next (h.transferOp.of_eq ‹_›).endTransfer.failTransfer

theorem lands_execAcknowledge {s : State} (h : s.Canonical) : CanonicalNext (execAcknowledge s) :=
  .next (h.atSource fun _ _ _ hu => .ite hu.endTransfer.settleUnit hu.endTransfer.failTransfer)

theorem State.Canonical.landChunk {s : State} {m : PeerReply} {x : Transfer} {o : Op} (h : s.Canonical) :
    (s.landChunk m x o).Canonical := by
  unfold State.landChunk; dsimp only; split
  · split
    · have hw := h.unpark (i := Instr.readReply m) |>.endTransfer (x := x)
      refine .ite h (.ite hw.failTransfer (.ite h.park (.ite ?_ ?_)))
      · exact hw.writeUnit.settleUnit
      · exact (h.foldl (fun _ _ hu => hu.homeAccess_getD) _).park
    · exact h
  · exact h

theorem lands_execReadReply {m : PeerReply} {s : State} (h : s.Canonical) : CanonicalNext (execReadReply m s) :=
  .next (h.atSource fun _ _ _ hu => hu.landChunk)

theorem lands_execAtomicReply {m : PeerReply} {s : State} (h : s.Canonical) : CanonicalNext (execAtomicReply m s) := by
  refine .next (h.atSource fun u x o hu => ?_)
  split
  · exact .ite hu.endTransfer.failTransfer hu.endTransfer.giveOld.afterLanes
  · exact hu

end Sys2Proof.Machine
end

section
/-! SUPPORT. One step keeps the canonical form: every instruction, request and event does, and so does the issue of a word. -/
namespace Sys2Proof.Machine

theorem keeps_ite {c : Prop} [Decidable c] {f g : State → State} (hf : Keeps f) (hg : Keeps g) : Keeps (if c then f else g) := by
  split
  · exact hf
  · exact hg

theorem lands_execRdln {c : Ctl} {d a : Fld} {n : BitVec 6} {s : State} (h : s.Canonical) :
    CanonicalNext (execRdln c d a n s) := lands_word (fun _ h => h.onT.done) h
theorem lands_execGuard {c : Ctl} {latch : BitVec 1} {a : Fld} {s : State} (h : s.Canonical) :
    CanonicalNext (execGuard c latch a s) := lands_word (fun _ h => h.onT.done) h
theorem lands_execRedux {c : Ctl} {d a op : Fld} {s : State} (h : s.Canonical) : CanonicalNext (execRedux c d a op s) :=
  lands_word (fun _ h => h.onT.done) h
theorem lands_execScan {c : Ctl} {d a op : Fld} {s : State} (h : s.Canonical) : CanonicalNext (execScan c d a op s) :=
  lands_word (fun _ h => h.onT.done) h
theorem lands_execWid {c : Ctl} {d : Fld} {s : State} (h : s.Canonical) : CanonicalNext (execWid c d s) :=
  lands_word (fun _ h => h.onT.done) h
theorem lands_execQuies {k : Bool} {d : Fld} {s : State} (h : s.Canonical) : CanonicalNext (execQuies k d s) :=
  lands_word (fun _ h => h.onT.done) h
theorem lands_execExit {c : Ctl} {s : State} (h : s.Canonical) : CanonicalNext (execExit c s) :=
  lands_word (fun _ h => h.conclude) h
theorem lands_execIdem {k : Bool} {s : State} (h : s.Canonical) : CanonicalNext (execIdem k s) :=
  lands_word (fun _ h => h.conclude) h
theorem lands_execYield {c : Ctl} {s : State} (h : s.Canonical) : CanonicalNext (execYield c s) :=
  lands_word (fun _ h => h.conclude) h

theorem lands_execLdgAcq {c : Ctl} {d : Fld} {p : BitVec 6} {sc : BitVec 3} {sz ac : BitVec 2} {s : State} (h : s.Canonical) :
    CanonicalNext (execLdgAcq c d p sc sz ac s) := by
  unfold execLdgAcq
  exact lands_word (fun _ h => keeps_loadGlobal _ h) h

theorem lands_execStgRel {c : Ctl} {d : Fld} {p : BitVec 6} {sc : BitVec 3} {sz ac : BitVec 2} {s : State} (h : s.Canonical) :
    CanonicalNext (execStgRel c d p sc sz ac s) := by
  unfold execStgRel
  exact lands_word (fun _ h => keeps_storeGlobal _ h) h

theorem lands_execUnknownKindRequest {r : Req} {kind : Nat} {s : State} (h : s.Canonical) :
    CanonicalNext (execUnknownKindRequest r kind s) := lands_serveAny (red := none) (fun _ e => nomatch e) (fun _ h => h.answer) h

theorem lands_execFcvtPk {c : Ctl} {d a : Fld} {mode : BitVec 2} {pair : BitVec 5} {s : State} (h : s.Canonical) :
    CanonicalNext (execFcvtPk c d a mode pair s) := by
  refine lands_word ?_ h
  split
  · exact keeps_laneFloatPair
  · exact keeps_laneFloatPair
  · exact keeps_laneFloatQuad
  · exact keeps_laneFloatQuad
  · exact keeps_laneFloat

theorem lands_execLdg {c : Ctl} {d : Fld} {p : BitVec 6} {off : BitVec 4} {ac sz : BitVec 2} {s : State} (h : s.Canonical) :
    CanonicalNext (execLdg c d p off ac sz s) := by
  unfold execLdg; split
  exact lands_word keeps_loadGlobal h

theorem lands_execStg {c : Ctl} {d : Fld} {p : BitVec 6} {off : BitVec 4} {ac sz : BitVec 2} {s : State} (h : s.Canonical) :
    CanonicalNext (execStg c d p off ac sz s) := by
  unfold execStg; split
  exact lands_word keeps_storeGlobal h

/-- Every instruction, request and event keeps the canonical form: a word through what it does to the operands, the rest by a lemma of its own. -/
theorem meaningKeeps_exec : MeaningKeeps exec := by
  intro i s h
  cases i with
  | mov | add | addS | sub | subS | mul | mulS | mulhI32 | mulhN32 | mad | madS | minI32 | minN32 | maxI32 | maxN32
  | and | andS | or | orS | xor | xorS | andn | shl | shr | sar | rol | shli | shri | sari | addi | andi | bfx | bfi
  | abs | neg | clz | popc | brev | sel | movi | fabs | fneg | fclass => exact lands_word keeps_lane h
  | addB64 | subB64 | lea | ballot | matchLanes => exact lands_word keeps_lanePair h
  | movk => exact lands_word keeps_laneLit h
  | cmpEq | cmpEqS | cmpNe | cmpNeS | cmpLtI32 | cmpLtI32S | cmpLeI32 | cmpLeI32S | cmpLtN32 | cmpLtN32S | cmpLeN32
  | cmpLeN32S | cmpiEq | cmpiLtI32 | cmpiLtN32 => exact lands_word keeps_compare h
  | fadd | faddS | fsub | fsubS | fmul | fmulS | ffma | ffmaS | fmin | fmax | faddH16x2 | fmulH16x2 | ffmaH16x2
  | faddBf16x2 | fmulBf16x2 | ffmaBf16x2 | fdot2Bf16 | fscale | frnd | frcp | frsq | fsqrt | fexp2 | flog2 | fsinpi
  | fcospi | ftanh | fdiv => exact lands_word keeps_laneFloat h
  | faddF64 | fmulF64 | ffmaF64 | fsubF64 => exact lands_word keeps_laneFloatPair h
  | fcmpEqF32 | fcmpNeF32 | fcmpLtF32 | fcmpLeF32 | fcmpUnF32 | fcmpEqF64 | fcmpLtF64 | fcmpLeF64 =>
    exact lands_word keeps_compareFloat h
  | smov | smovi | sadd | ssub | smul | sand | sor | sxor | sshl | sshr | saddi => exact lands_word keeps_uniform h
  | smovk => exact lands_word keeps_uniformLit h
  | scmpEq | scmpLtI64 | scmpLtN64 | pand | por | pxor | pandn | pmov | pnot | pset | voteAny | voteAll
  | elect => exact lands_word keeps_predicate h
  | shflIdx | shflUp | shflDn | shflXor => exact lands_word keeps_shuffle h
  | ldp | lds | ldc | ldk => exact lands_word keeps_loadLocal h
  | stp | sts | stc => exact lands_word keeps_storeLocal h
  | movS => exact lands_word (keeps_ite keeps_lanePair keeps_lane) h
  | fcvt => exact lands_word (keeps_ite keeps_laneFloatPair keeps_laneFloat) h
  | fcvtPk => exact lands_execFcvtPk h
  | nop | tinv => exact lands_word keeps_done h
  | rdln => exact lands_execRdln h
  | guard => exact lands_execGuard h
  | redux => exact lands_execRedux h
  | scan => exact lands_execScan h
  | wid => exact lands_execWid h
  | quies => exact lands_execQuies h
  | exit => exact lands_execExit h
  | idem => exact lands_execIdem h
  | yield => exact lands_execYield h
  | sld => exact lands_word keeps_loadConst h
  | ldg => exact lands_execLdg h
  | stg => exact lands_execStg h
  | ldgAcq => exact lands_execLdgAcq h
  | stgRel => exact lands_execStgRel h
  | oreqRefine | oreqEvict => exact lands_word keeps_objectRequest h
  | atom | acas | red => exact lands_word keeps_atomicBody h
  | tcopy => exact lands_word (keeps_coupled keeps_boxCopy) h
  | tgath | tscat => exact lands_word (keeps_coupled keeps_rowCopy) h
  | obres => exact lands_word (keeps_coupled (keeps_lostFirst keeps_reserve)) h
  | obld => exact lands_word (keeps_coupled (keeps_lostFirst keeps_fill)) h
  | mma => exact lands_word (keeps_coupled (keeps_lostFirst keeps_multiply)) h
  | zst => exact lands_word (keeps_coupled (keeps_lostFirst keeps_storeTile)) h
  | rayq => exact lands_word keeps_rayBody h
  | tex => exact lands_word keeps_sample h
  | spawn => exact lands_word (keeps_coupled keeps_spawnBody) h
  | eret | eretReplay => exact lands_word keeps_returnBody h
  | loadImage => exact lands_serveWaiting keeps_loadBody h
  | unmap => exact lands_serve (red := none) (fun _ e => nomatch e) keeps_unmapBody h
  | copyIn | copyOut => exact lands_serve (red := none) (fun _ e => nomatch e) keeps_copyBody h
  | launch => exact lands_serveWaiting keeps_launchBody h
  | waitForEvent => exact lands_serve (red := none) (fun _ e => nomatch e) keeps_waitBody h
  | partitionCreate => exact lands_serveMgmt keeps_createBody h
  | resumeContext => exact lands_serveWaiting keeps_resumeBody h
  | catalogue => exact lands_serveMgmt keeps_catalogueBody h
  | unknownKindRequest => exact lands_execUnknownKindRequest h
  | bra => exact lands_execBra h
  | call => exact lands_execCall h
  | ret => exact lands_execRet h
  | jmpi => exact lands_execJmpi h
  | fork => exact lands_execFork h
  | join => exact lands_execJoin h
  | trap => exact lands_execTrap h
  | brk => exact lands_execBrk h
  | barArrive => exact lands_execBarArrive h
  | barWait => exact lands_execBarWait h
  | barSync => exact lands_execBarSync h
  | barDrop => exact lands_execBarDrop h
  | barExpect => exact lands_execBarExpect h
  | barTry => exact lands_execBarTry h
  | wait => exact lands_execWait h
  | fence => exact lands_execFence h
  | ldo => exact lands_execLdo h
  | odrop => exact lands_execOdrop h
  | pfg => exact lands_execPfg h
  | zclr => exact lands_execZclr h
  | zmov => exact lands_execZmov h
  | cand => exact lands_execCand h
  | cacc => exact lands_execCacc h
  | texq => exact lands_execTexq h
  | svc => exact lands_execSvc h
  | rdst => exact lands_execRdst h
  | wrst => exact lands_execWrst h
  | csave => exact lands_execCsave h
  | crest => exact lands_execCrest h
  | zsave => exact lands_execZsave h
  | zload => exact lands_execZload h
  | map => exact lands_execMap h
  | query => exact lands_execQuery h
  | attest => exact lands_execAttest h
  | partitionDestroy => exact lands_execPartitionDestroy h
  | bringUp => exact lands_execBringUp h
  | writeChunk => exact lands_execWriteChunk h
  | readRequest => exact lands_execReadRequest h
  | readReply => exact lands_execReadReply h
  | atomicRequest => exact lands_execAtomicRequest h
  | atomicReply => exact lands_execAtomicReply h
  | illegalInstruction => exact lands_execIllegalInstruction h
  | copyPerform => exact lands_execCopyPerform h
  | waitTimeLimit => exact lands_execWaitTimeLimit h
  | powerOff => exact lands_execPowerOff
  | throttleTrip => exact lands_execThrottleTrip h
  | throttleRelease => exact lands_execThrottleRelease h
  | shutdownTrip => exact lands_execShutdownTrip
  | grantRequest => exact lands_execGrantRequest h
  | reclaimReturn => exact lands_execReclaimReturn h
  | acknowledge => exact lands_execAcknowledge h
  | messageAbandon => exact lands_execMessageAbandon h
  | homeSliceAccess => exact lands_execHomeSliceAccess h
  | lineArrival => exact lands_execLineArrival h
  | demotionLineWritten => exact lands_execDemotionLineWritten h
  | evictionRequest => exact lands_execEvictionRequest h
  | dormantZeroFill => exact lands_execDormantZeroFill h
  | forcedRefresh => exact lands_execForcedRefresh h
  | quarantineRelease => exact lands_execQuarantineRelease h
  | parkResume => exact lands_execParkResume h
  | switchOut => exact lands_execSwitchOut h
  | loadReply => exact lands_execLoadReply h
  | storePerformed => exact lands_execStorePerformed h
  | atomicPerform => exact lands_execAtomicPerform h
  | engineTranslate => exact lands_execEngineTranslate h
  | engineUnitSettle => exact lands_execEngineUnitSettle h
  | refineServe => exact lands_execRefineServe h
  | teamDeal => exact lands_execTeamDeal h
  | quantumExpiry => exact lands_execQuantumExpiry h
  | gridComplete => exact lands_execGridComplete h
  | trapEntry => exact lands_execTrapEntry h
  | preemptRequest => exact lands_execPreemptRequest h
  | graceExpiry => exact lands_execGraceExpiry h
  | teamReplace => exact lands_execTeamReplace h
  | matrixHang => exact lands_execMatrixHang h
  | arrayReset => exact lands_execArrayReset h
  | mmaCommit => exact lands_execMmaCommit h
  | coreFailure => exact lands_execCoreFailure h
  | barTryTimeout => exact lands_execBarTryTimeout h
  | rayAccept => exact lands_execRayAccept h
  | rayRecordLost => exact lands_execRayRecordLost h
  | stationCall => exact lands_execStationCall h
  | callEnd => exact lands_execCallEnd h
  | anyhitBatchLaunch => exact lands_execAnyhitBatchLaunch h
  | verdictApply => exact lands_execVerdictApply h
  | hitBatchLaunch => exact lands_execHitBatchLaunch h
  | svcReply => exact lands_execSvcReply h
  | unsupportedPacket => exact lands_execUnsupportedPacket h
  | badBlockRetirement => exact lands_execBadBlockRetirement h

theorem lands_act {a : Act} {s : State} (h : s.Canonical) : CanonicalNext (act a s) := by
  cases a with
  | event i subject => exact meaningKeeps_exec i _ h.same
  | issue id => exact lands_issueTurn meaningKeeps_exec h

theorem lands_step {s : State} (h : s.Canonical) : CanonicalNext (step s) := by
  unfold step
  split
  · exact lands_act h.same
  · split
    · exact lands_act h.same
    · exact .next h.same

end Sys2Proof.Machine
end

end

/-- Settles O59: only the operations of the store touch the bytes of memory, and each of them keeps the canonical form. -/
theorem stepKeepsMemoryForm : Obligations.StepKeepsMemoryForm := by
  unfold Obligations.StepKeepsMemoryForm
  intro s t h e
  exact Sys2Proof.Machine.lands_step h t e

section
/-! SUPPORT. What the resident service's launches, image loads and resumes change, and what they leave as it was (O39; R53 to R56, R90, R123,
R124, R200, R201, R367). -/
namespace Sys2Proof.Machine

/-! ### A request that the service takes -/

/-- The request of a partition's client reaches the body of its kind, whatever kind its header names (R26). -/
theorem serve_of_serves {r : Req} {s : State} (h : s.Serves r) (kind : Nat) (red : Option (State → State)) (body : State → State) :
    serve { r with kind := kind } red body s = .next (body s) := by
  obtain ⟨⟨hphase, hport, hform⟩, p, hpart, hclient⟩ := h
  have hform' : malformed { r with kind := kind } = false := hform
  simp [serve, serveAny, hphase, hport, hform', hpart, hclient]

section
variable {r : Req} {s : State} {kind : Nat} {i : Instr} {body : State → State}

/-- A body that makes no reply leaves the request waiting as the body says. -/
theorem serveWaiting_of_silent (h : s.Serves r) (e : (body s).q.replies = s.q.replies) :
    serveWaiting { r with kind := kind } i body s = .next (body s) := by
  simp [serveWaiting, serve_of_serves h, e]

/-- A body that makes its one reply ends the request's wait. -/
theorem serveWaiting_of_reply {y : Reply} (h : s.Serves r) (e : (body s).q.replies = s.q.replies ++ [y]) :
    serveWaiting { r with kind := kind } i body s = .next ((body s).unpark i) := by
  simp [serveWaiting, serve_of_serves h, e]

end

@[simp] theorem State.park_replies (s : State) (i : Instr) : (s.park i).q.replies = s.q.replies := by
  unfold State.park; split <;> rfl

/-! ### Operations that change the store alone -/

/-- `u` is `s` with another store. -/
def State.DiffersInStore (s u : State) : Prop := ∃ m, u = { s with m := m }

theorem State.DiffersInStore.refl (s : State) : s.DiffersInStore s := ⟨s.m, rfl⟩

theorem State.DiffersInStore.trans {s u v : State} (h : s.DiffersInStore u) (h' : u.DiffersInStore v) : s.DiffersInStore v := by
  obtain ⟨m, rfl⟩ := h
  obtain ⟨n, rfl⟩ := h'
  exact ⟨n, rfl⟩

theorem State.DiffersInStore.foldl {α : Type} {f : State → α → State} (hf : ∀ (u : State) a, u.DiffersInStore (f u a)) (s : State)
    (l : List α) : s.DiffersInStore (l.foldl f s) :=
  l.foldlRecOn f (.refl s) fun u hu a _ => hu.trans (hf u a)

/-- The same for a fold that carries more than the state. -/
theorem State.DiffersInStore.foldl_fst {α β : Type} {f : State × β → α → State × β}
    (hf : ∀ (q : State × β) a, q.1.DiffersInStore (f q a).1) (p : State × β) (l : List α) : p.1.DiffersInStore (l.foldl f p).1 :=
  l.foldlRecOn (motive := fun q => p.1.DiffersInStore q.1) f (.refl p.1) fun q hq a _ => hq.trans (hf q a)

/-- An access that reads meets the tier map, and nothing else (R69). -/
theorem State.homeAccess_read (s : State) (ua : Nat) : s.DiffersInStore ((s.homeAccess ua false).getD s) := by
  unfold State.homeAccess
  dsimp only
  split
  · exact .refl s
  · split
    · split
      · exact ⟨_, rfl⟩
      · exact .refl s
    · exact .refl s
    · exact ⟨_, rfl⟩

/-- A read of the service meets the tier map and the errors there, and nothing else (R69, R74). -/
theorem State.serviceRead_store (s : State) (part va n : Nat) : s.DiffersInStore (s.serviceRead part va n).1 := by
  unfold State.serviceRead
  dsimp only
  split
  · exact (State.DiffersInStore.foldl (fun u ua => u.homeAccess_read ua) s _).trans ⟨_, rfl⟩
  · exact .foldl (fun u ua => u.homeAccess_read ua) s _

theorem State.takePinned_store (s : State) (part n align : Nat) : s.DiffersInStore (s.takePinned part n align).1 := ⟨_, rfl⟩

theorem State.holdPages_store (s : State) (part va bytes rights : Nat) (area : Bool) :
    s.DiffersInStore (s.holdPages part va bytes rights area).1 := by
  unfold State.holdPages
  split
  · exact .refl s
  · exact ⟨_, rfl⟩

theorem State.mapData_store (s : State) (part : Nat) (x : Ready) : s.DiffersInStore (s.mapData part x).1 := by
  unfold State.mapData
  dsimp only
  split
  · exact .refl s
  · exact ⟨_, rfl⟩

/-! ### Events -/

/-- An event that nobody waits for completes in its entry alone (R27). -/
theorem State.completeEvent_unawaited {s : State} {seq : Nat} (hw : ∀ w ∈ s.q.waiting, w.seq ≠ seq) (st : Nat) (addr : Option Nat) :
    ∃ es, s.completeEvent seq st addr = { s with q := { s.q with events := es } } := by
  have hmine : (s.q.waiting.filter fun w => w.seq = seq) = [] := by simpa using hw
  unfold State.completeEvent
  simp only [hmine]
  split
  · exact ⟨s.q.events, rfl⟩
  · exact ⟨_, rfl⟩

/-- The event of a number just given out is the last of the table, and completes there when nobody waits for it (R27, R124). -/
theorem State.completeEvent_newest {s : State} {seq part : Nat} {es : List Event} (hes : s.q.events = es ++ [⟨seq, part, none, none⟩])
    (hnew : ∀ e ∈ es, e.seq ≠ seq) (hw : ∀ w ∈ s.q.waiting, w.seq ≠ seq) (st : Nat) :
    s.completeEvent seq st none = { s with q := { s.q with events := es ++ [⟨seq, part, some st, none⟩] } } := by
  have hmine : (s.q.waiting.filter fun w => w.seq = seq) = [] := by simpa using hw
  have hfind : (s.q.events.find? fun e => e.seq = seq) = some ⟨seq, part, none, none⟩ := by
    rw [hes, List.find?_append, List.find?_eq_none.2 (by simpa using hnew)]
    simp
  have hmap : (es.map fun o => if o.seq = seq then (⟨seq, part, some st, none⟩ : Event) else o) = es :=
    (List.map_congr_left fun o ho => if_neg (hnew o ho)).trans (List.map_id' es)
  unfold State.completeEvent
  simp only [hmine, hfind]
  simp [hes, hmap]

/-! ### Launches -/

section
variable {r : Req} {s u : State} {n queue : Nat} {at_ : Dword} {b : Option (List Byte)}

/-- What is left of a launch whose image, queue and record's place are in order: the record's own check, once it has been read (R123). -/
theorem launchBody_of_read {record : Nat} (i : Instr) (hi : ∃ i ∈ s.q.images, i.part = r.part ∧ i.num = n) (hq : queue ≤ 15)
    (hf : s.recordFault 0 r.part record = none) (hr : s.serviceRead r.part record 5 = (u, b)) :
    launchBody r n record queue i s = match b with
      | none => u.park i
      | some b =>
        let v := natOfBytes b
        let st := u.checkLaunch r.part queue v
        if st ≠ 0 then u.answer r st else (u.acceptGrid r.part queue n (readLaunch v) none 0).reply r 0x00 [u.q.nextSeq] [] := by
  have hknown : (s.q.images.any fun i => i.part = r.part && i.num = n) = true := by simpa using hi
  have hqueue : ¬ 15 < queue := by omega
  unfold launchBody
  simp only [hknown, hqueue, hf, hr]
  cases b <;> rfl

/-- A launch whose image, queue and record's place are in order (R69, R123, R124). -/
theorem launch_outcomes (hs : s.Serves r) (hi : ∃ i ∈ s.q.images, i.part = r.part ∧ i.num = n) (hq : queue ≤ 15)
    (hf : s.recordFault 0 r.part at_.toNat = none) (hr : s.serviceRead r.part at_.toNat 5 = (u, b)) :
    let i := Instr.launch r n at_ queue
    (b = none → exec i s = .next (u.park i)) ∧ ∀ c, b = some c →
    let v := natOfBytes c
    let st := u.checkLaunch r.part queue v
    (st = 0 → Answers i s fun t =>
      Replies s t r 0x06 0x00 [s.q.nextSeq] [] ∧ GivesNumber s t r.part ∧ t.m = u.m ∧ t.t = s.t ∧
      ∃ g, t.d = { s.d with grids := s.d.grids ++ [g] } ∧ g.seq = s.q.nextSeq ∧ g.part = r.part ∧ g.queue = queue ∧ g.image = n ∧
        g.launch = readLaunch v ∧ g.life = .queued ∧ g.dealt = 0 ∧ g.error = false) ∧
    (st ≠ 0 → exec i s = .next ((u.answer { r with kind := 0x06 } st).unpark i)) := by
  obtain ⟨m, hm⟩ := s.serviceRead_store r.part at_.toNat 5
  rw [hr] at hm
  obtain rfl : u = { s with m := m } := hm
  have hbody := launchBody_of_read (r := { r with kind := 0x06 }) (.launch r n at_ queue) hi hq hf hr
  refine ⟨fun hb => ?_, fun c hc => ⟨fun hst => ?_, fun hst => ?_⟩⟩
  · subst hb
    exact (serveWaiting_of_silent hs (by rw [hbody]; exact State.park_replies _ _)).trans (congrArg _ hbody)
  · subst hc
    simp only [hst, ne_eq, not_true_eq_false, if_false] at hbody
    refine ⟨_, serveWaiting_of_reply hs (by rw [hbody]; rfl), ?_⟩
    rw [hbody]
    exact ⟨rfl, ⟨rfl, rfl, rfl⟩, rfl, rfl, _, rfl, rfl, rfl, rfl, rfl, rfl, rfl, rfl, rfl⟩
  · subst hc
    simp only [hst, ne_eq, not_false_eq_true, if_true] at hbody
    exact (serveWaiting_of_reply hs (by rw [hbody]; rfl)).trans (by rw [hbody])

end

/-! ### Image loads -/

/-- Placing an image takes granules of the store for its tables, and changes the store alone (R59, R80, R82). -/
theorem State.placeImage_store (s : State) (part : Nat) (x : Ready) :
    s.DiffersInStore (s.placeImage part x).1 ∧ (s.placeImage part x).2.length = x.tableGranules := by
  rw [State.placeImage]
  split
  next u again eu =>
  have hu : s.DiffersInStore u := by
    have h := State.DiffersInStore.foldl_fst (f := fun (acc : State × Bool) (e : Nat × Nat × Nat) =>
      let (s, r) := acc.1.holdPages part e.1 e.2.1 e.2.2 false
      (s, acc.2 || r)) (fun q e => q.1.holdPages_store part e.1 e.2.1 e.2.2 false) (s, false) x.ranges
    rwa [eu] at h
  split
  next v r ev =>
  have hv : s.DiffersInStore v := by
    have h := u.mapData_store part x
    rw [ev] at h
    exact hu.trans h
  extract_lets n
  split
  next w ua h ew =>
  have hw : s.DiffersInStore w := by
    split at ew
    · cases ew
      exact hv
    · have h := v.takePinned_store part n 65536
      rw [ew] at h
      exact hv.trans h
  refine ⟨?_, by simp [n]⟩
  dsimp only
  split
  · exact hw.trans ⟨_, rfl⟩
  · exact hw.trans ⟨_, rfl⟩

/-- A new object's directory entry: of its partition, in its first generation, with nothing counted (R82). -/
theorem entriesOf_fresh {part : Nat} {dir : List Nat} (l : List (Nat × List Node)) (trees : List Nat) :
    ∀ o ∈ entriesOf part dir l trees, o.part = part ∧ o.gen = 1 ∧ o.shortfalls = 0 ∧ o.hits = 0 := by
  induction l generalizing trees with
  | nil => simp [entriesOf]
  | cons e more ih =>
    obtain ⟨h, ns⟩ := e
    intro o ho
    rcases List.mem_cons.1 ho with rfl | ho
    · exact ⟨rfl, rfl, rfl, rfl⟩
    · exact ih _ o ho

/-- What an installed image leaves: its pages, entries and shapes, and its event, complete (R53 to R56). -/
theorem State.installImage_eq {s : State} (part : Nat) (x : Ready) (hnew : ∀ e ∈ s.q.events, e.seq ≠ s.q.nextSeq)
    (hw : ∀ w ∈ s.q.waiting, w.seq ≠ s.q.nextSeq) :
    ∃ m gs, gs.length = x.tableGranules ∧ s.installImage part x =
      { s with
        m := m, o := ⟨s.o.objects ++ x.entries part gs, s.o.shapes ++ x.shapes⟩,
        q := { s.q with
          nextSeq := s.q.nextSeq + 1, issuedBy := s.q.issuedBy ++ [(s.q.nextSeq, part)], nextImage := s.q.nextImage + 1,
          images := s.q.images ++ [x.image s.q.nextImage part s.q.nextSeq gs],
          events := s.q.events ++ [⟨s.q.nextSeq, part, some 0x00, none⟩] } } := by
  obtain ⟨⟨m, hm⟩, hlen⟩ := s.placeImage_store part x
  refine ⟨m, (s.placeImage part x).2, hlen, ?_⟩
  rw [State.installImage]
  split
  next u gs e =>
  rw [e] at hm ⊢
  obtain rfl : u = { s with m := m } := hm
  dsimp only
  refine (State.completeEvent_newest (part := part) (es := s.q.events) ?_ hnew ?_ 0x00).trans rfl
  · rfl
  · exact hw

section
variable {r : Req} {s : State} {image : List Byte} {x : Ready}

/-- An image that passes is loaded whole (R53 to R56). -/
theorem loadImage_installs (hs : s.Serves r) (hx : s.readImage r.part image = .ok x) (hl : s.imageLacks r.part x = none)
    (hb : x.bad = none) (hfit : s.imageFits r.part x = true) (hnew : ∀ e ∈ s.q.events, e.seq ≠ s.q.nextSeq)
    (hw : ∀ w ∈ s.q.waiting, w.seq ≠ s.q.nextSeq) : Answers (.loadImage r image) s fun t =>
      Replies s t r 0x01 0x00 [s.q.nextImage, s.q.nextSeq] [] ∧ t.q.nextImage = s.q.nextImage + 1 ∧ t.q.nextSeq = s.q.nextSeq + 1 ∧
      (∃ gs, gs.length = x.tableGranules ∧ t.q.images = s.q.images ++ [x.image s.q.nextImage r.part s.q.nextSeq gs]) ∧
      t.o.shapes = s.o.shapes ++ x.shapes ∧
      (∃ objects, t.o.objects = s.o.objects ++ objects ∧ ∀ o ∈ objects, o.part = r.part ∧ o.gen = 1 ∧ o.shortfalls = 0 ∧ o.hits = 0) ∧
      t.q.events = s.q.events ++ [⟨s.q.nextSeq, r.part, some 0x00, none⟩] ∧ t.t = s.t ∧ t.d = s.d := by
  obtain ⟨m, gs, hlen, hinst⟩ := s.installImage_eq r.part x hnew hw
  have hbody : loadBody { r with kind := 0x01 } image (.loadImage r image) s =
      (s.installImage r.part x).reply { r with kind := 0x01 } 0x00 [s.q.nextImage, s.q.nextSeq] [] := by
    simp [loadBody, hx, hl, hb, hfit]
  rw [hinst] at hbody
  refine ⟨_, serveWaiting_of_reply hs (by rw [hbody]; rfl), ?_⟩
  rw [hbody]
  exact ⟨rfl, rfl, rfl, ⟨gs, hlen, rfl⟩, rfl, ⟨x.entries r.part gs, rfl, entriesOf_fresh _ _⟩, rfl, rfl, rfl⟩

/-- A load that ends in a reply alone changes neither the images nor the store nor the directory (R55). -/
theorem loadImage_refused {status : Nat} {values : List Nat} (hs : s.Serves r)
    (hbody : loadBody { r with kind := 0x01 } image (.loadImage r image) s = s.reply { r with kind := 0x01 } status values []) :
    Answers (.loadImage r image) s fun t =>
      Replies s t r 0x01 status values [] ∧ t.q.images = s.q.images ∧ t.m = s.m ∧ t.o = s.o := by
  refine ⟨_, serveWaiting_of_reply hs (by rw [hbody]; rfl), ?_⟩
  rw [hbody]
  exact ⟨rfl, rfl, rfl, rfl⟩

/-- An image for which frames are still held waits (R367). -/
theorem loadImage_waits (hs : s.Serves r) (hx : s.readImage r.part image = .ok x) (hl : s.imageLacks r.part x = none)
    (hb : x.bad = none) (hfit : s.imageFits r.part x = false) :
    Answers (.loadImage r image) s fun t => t = s.park (.loadImage r image) := by
  have hbody : loadBody { r with kind := 0x01 } image (.loadImage r image) s = s.park (.loadImage r image) := by
    simp [loadBody, hx, hl, hb, hfit]
  exact ⟨_, serveWaiting_of_silent hs (by rw [hbody]; exact State.park_replies _ _), hbody⟩

end

/-! ### Resuming a context -/

/-- A store with the same pages and tier map: only bytes and marks of errors differ. -/
def Store.SamePages (m n : Store) : Prop :=
  ∃ mem poison latent substs, n = { m with mem := mem, poison := poison, latent := latent, substs := substs }

/-- Meeting an uncorrectable word changes no page and no granule (R74 to R76). -/
theorem Store.meet_pages (m : Store) (w : Nat) : m.SamePages (m.meet w) := by
  unfold Store.meet
  split
  · dsimp only
    split <;> exact ⟨_, _, _, _, rfl⟩
  · exact ⟨_, _, _, _, rfl⟩

theorem Store.meetAll_pages (m : Store) (ws : List Nat) : m.SamePages (ws.foldl Store.meet m) :=
  ws.foldlRecOn (motive := m.SamePages) Store.meet ⟨_, _, _, _, rfl⟩ fun n hn w _ => by
    obtain ⟨_, _, _, _, rfl⟩ := hn
    obtain ⟨_, _, _, _, h⟩ := Store.meet_pages _ w
    exact ⟨_, _, _, _, h⟩

/-- A value that `p` finds is found as changed after a change that `p` does not see. -/
theorem find?_map_of_same {α : Type} {p : α → Bool} {f : α → α} (h : ∀ a, p (f a) = p a) (l : List α) :
    (l.map f).find? p = (l.find? p).map f := by
  have hp : p ∘ f = p := funext h
  rw [List.find?_map, hp]

/-- A grid changed in a field other than its number is found under that number as changed. -/
theorem State.grid_onGrid (s : State) (seq : Nat) {f : Grid → Grid} (hf : ∀ g, (f g).seq = g.seq) :
    (s.onGrid seq f).grid seq = (s.grid seq).map f := by
  refine (find?_map_of_same (fun g => ?_) s.d.grids).trans (Option.map_congr fun g hg => ?_)
  · split <;> simp [hf]
  · exact if_pos (by simpa using List.find?_some hg)

/-- A descriptor as it stands once the grid `seq` has been resumed from it (R201). -/
def Desc.taken (seq src : Nat) (d : Desc) : Desc :=
  if d.seq = seq && d.part = src && d.state = 1 then { d with state := 2 } else d

@[simp] theorem Desc.taken_addr (seq src : Nat) (d : Desc) : (d.taken seq src).addr = d.addr := by
  unfold Desc.taken
  split <;> rfl

theorem Desc.taken_of_valid {d : Desc} (h : d.state = 1) : d.taken d.seq d.part = { d with state := 2 } := by simp [Desc.taken, h]

/-- A grid is marked as resumed, its descriptor as taken; beside these only the descriptor's record in the store changes (R201). -/
theorem State.descTaken_eq (s : State) (seq src : Nat) : ∃ m, s.descTaken seq src =
    { (s.onGrid seq fun g => { g with resumed := true }) with
      m := m, q := { s.q with descs := s.q.descs.map (Desc.taken seq src) } } := by
  obtain ⟨m, h⟩ := State.DiffersInStore.foldl (f := State.putRecord) (fun _ _ => ⟨_, rfl⟩)
    { s with q := { s.q with descs := s.q.descs.map (Desc.taken seq src) } }
    ((s.q.descs.filter fun d => d.seq = seq && d.part = src && d.state = 1).map fun d => { d with state := 2 })
  exact ⟨m, congrArg (fun u : State => u.onGrid seq fun g => { g with resumed := true }) h⟩

/-- A moved team area changes the store and the teams alone (R200). -/
theorem State.moveAreas_eq (s : State) (src dst : Nat) (l : List Team) :
    ∃ m teams, l.foldl (fun (u : State) a => u.moveArea a src dst) s = { s with m := m, d := { s.d with teams := teams } } :=
  l.foldlRecOn (motive := fun u => ∃ m teams, u = { s with m := m, d := { s.d with teams := teams } }) _ ⟨_, _, rfl⟩ fun u hu a _ => by
    obtain ⟨m, teams, rfl⟩ := hu
    unfold State.moveArea
    split <;> exact ⟨_, _, rfl⟩

/-- The trains of a grid. -/
def Train.ofGrid (seq : Nat) (t : Train) : Bool := t.i.grid = seq && t.i.id != 0

/-- A grid that passes to another partition: its trains move, its entry names the target, and beside these only the store, the teams, and the
events' and numbers' owners change (R200, R201). -/
theorem State.moveGrid_eq (s : State) (seq src dst : Nat) : ∃ m teams events issuedBy, s.moveGrid seq src dst =
    { (s.mapTrains (Train.ofGrid seq) fun t => t.moved dst) with
      m := m, q := { s.q with events := events, issuedBy := issuedBy },
      d := { (s.onGrid seq fun g => { g with part := dst }).d with teams := teams } } := by
  obtain ⟨m, teams, h⟩ := s.moveAreas_eq src dst (s.d.teams.filter fun a => a.grid = seq)
  unfold State.moveGrid
  dsimp only
  rw [h]
  exact ⟨_, _, _, _, rfl⟩

/-- A train keeps its pins when its grid moves, those of the nodes of the partition that it leaves among them (R90). -/
theorem Train.pin_mem_kept_moved {t : Train} {dst : Nat} {p : Nat × Nat} (hp : p ∈ t.pins) (h : t.i.part ≠ dst) :
    (t.i.part, p) ∈ (t.moved dst).kept := by
  simp [Train.moved, hp, h]

/-- A train of the grid that has been moved is one that was moved. -/
theorem State.mem_trains_moved {s : State} {seq dst : Nat} {v : Train}
    (hv : v ∈ (s.mapTrains (Train.ofGrid seq) fun t => t.moved dst).trains) (hg : v.i.grid = seq) (hid : v.i.id ≠ 0) :
    ∃ u ∈ s.trains, v = u.moved dst := by
  have hmap : (s.mapTrains (Train.ofGrid seq) fun t => t.moved dst).trains =
      s.trains.map fun t => if Train.ofGrid seq t = true then t.moved dst else t := rfl
  rw [hmap] at hv
  obtain ⟨u, hu, rfl⟩ := List.mem_map.1 hv
  refine ⟨u, hu, ?_⟩
  split at hg
  next h => rw [if_pos h]
  next h =>
    rw [if_neg h] at hid
    exact absurd (by simp [Train.ofGrid, hg, hid]) h

/-- A wholly vacated grid resumed from its descriptor in the partition `dst` (R200, R201). -/
def State.resumed (s : State) (d : Desc) (dst : Nat) : State :=
  (if dst = d.part then s else s.moveGrid d.seq d.part dst).descTaken d.seq d.part

/-- What resuming a grid leaves of the service's tables: its descriptor is taken, and no reply, wait or number given out changes. -/
theorem State.resumed_desk (s : State) (d : Desc) (dst : Nat) : ∃ events issuedBy, (s.resumed d dst).q =
    { s.q with events := events, issuedBy := issuedBy, descs := s.q.descs.map (Desc.taken d.seq d.part) } := by
  unfold State.resumed
  split
  · obtain ⟨m, h⟩ := s.descTaken_eq d.seq d.part
    rw [h]
    exact ⟨_, _, rfl⟩
  · obtain ⟨_, _, _, _, hmove⟩ := s.moveGrid_eq d.seq d.part dst
    obtain ⟨m, h⟩ := (s.moveGrid d.seq d.part dst).descTaken_eq d.seq d.part
    rw [h, hmove]
    exact ⟨_, _, rfl⟩

/-- The descriptor at its address, once its grid has been resumed (R201). -/
theorem State.resumed_desc {s : State} {d : Desc} {a : Nat} (dst : Nat) (hd : (s.q.descs.find? fun e => e.addr = a) = some d)
    (hst : d.state = 1) : ((s.resumed d dst).q.descs.find? fun e => e.addr = a) = some { d with state := 2 } := by
  obtain ⟨_, _, hq⟩ := s.resumed_desk d dst
  rw [hq]
  refine (find?_map_of_same (fun e => ?_) s.q.descs).trans ?_
  · rw [Desc.taken_addr]
  · rw [hd, ← Desc.taken_of_valid hst]
    rfl

/-- The grid belongs to the target, and no new descriptor is written for it before it has been placed (R200, R201). -/
theorem State.resumed_grid {s : State} {d : Desc} {g : Grid} (dst : Nat) (hg : s.grid d.seq = some g) (hpart : g.part = d.part) :
    (s.resumed d dst).grid d.seq = some { g with part := dst, resumed := true } := by
  have htaken : ∀ u : State, (u.descTaken d.seq d.part).grid d.seq = (u.grid d.seq).map fun g => { g with resumed := true } := fun u => by
    obtain ⟨m, h⟩ := u.descTaken_eq d.seq d.part
    rw [h]
    exact u.grid_onGrid d.seq (f := fun g => { g with resumed := true }) fun _ => rfl
  unfold State.resumed
  rw [htaken]
  split
  next h => rw [hg, h, ← hpart]; rfl
  next =>
    obtain ⟨_, _, _, _, hmove⟩ := s.moveGrid_eq d.seq d.part dst
    have hmoved : (s.moveGrid d.seq d.part dst).grid d.seq = (s.grid d.seq).map fun g => { g with part := dst } := by
      rw [hmove]
      exact s.grid_onGrid d.seq (f := fun g => { g with part := dst }) fun _ => rfl
    rw [hmoved, hg]
    rfl

/-- Resuming a grid in its own partition changes no train; in another it moves the grid's trains (R200). -/
theorem State.resumed_trains (s : State) (d : Desc) (dst : Nat) : (s.resumed d dst).trains =
    if dst = d.part then s.trains else (s.mapTrains (Train.ofGrid d.seq) fun t => t.moved dst).trains := by
  have htaken : ∀ u : State, (u.descTaken d.seq d.part).trains = u.trains := fun u => by
    obtain ⟨m, h⟩ := u.descTaken_eq d.seq d.part
    rw [h]
    rfl
  unfold State.resumed
  rw [htaken]
  split
  · rfl
  · obtain ⟨_, _, _, _, hmove⟩ := s.moveGrid_eq d.seq d.part dst
    rw [hmove]
    rfl

section
variable {r : Req} {s : State} {d : Desc} {p : Part} {g : Grid} {n : Nat}

/-- A resume that passes its checks: a number is given out, the grid is resumed, and the number's event completes (R200, R201). -/
theorem resumeBody_accepts {desc : Nat} (i : Instr) (hd : (s.q.descs.find? fun e => e.addr = desc) = some d) (hst : d.state = 1)
    (hver : d.version = Config.saveVersion) (hpart : d.part = r.part) (hp : s.part n = some p) (hg : s.grid d.seq = some g)
    (hplace : s.placeable p g.launch = true) (hpins : n ≠ d.part → s.pinsFit n (d.bytes / 65536) = true)
    (hev : s.q.events.length < Config.eventEntries) (hfree : n ≠ d.part → d.bytes / 65536 ≤ s.freeFrames n) :
    ∃ m, resumeBody r desc n i s =
      ((State.resumed (State.newSeq { s with m := m } r.part true) d n).completeEvent s.q.nextSeq 0x00 none).reply r 0x00 [s.q.nextSeq] [] := by
  have hfits : (!s.placeable p g.launch || (n ≠ d.part && !s.pinsFit n (d.bytes / 65536))) = false := by simpa [hplace] using hpins
  have hroom : s.eventsFull = false := by simpa [State.eventsFull] using hev
  have hframes : (n ≠ d.part && s.freeFrames n < d.bytes / 65536) = false := by simpa using hfree
  obtain ⟨mem, poison, latent, substs, hm⟩ := s.m.meetAll_pages (eccWords d.addr 64)
  refine ⟨{ s.m with mem := mem, poison := poison, latent := latent, substs := substs }, ?_⟩
  unfold resumeBody
  simp only [hd]
  rw [hm, if_neg (by simp [hst, hver]), if_neg (by simp [hpart])]
  split
  next p' g' hp' hg' =>
    obtain rfl : p = p' := Option.some.inj (hp.symm.trans hp')
    obtain rfl : g = g' := Option.some.inj (hg.symm.trans hg')
    split
    next h => exact nomatch hfits.symm.trans h
    split
    next h => exact nomatch hroom.symm.trans h
    split
    next h => exact nomatch hframes.symm.trans h
    rfl
  next h => exact absurd hg (h p g hp)

/-- A resume that passes its checks (R90, R200, R201). -/
theorem resumeContext_accepted {at_ : Dword} (hs : s.Serves r) (hd : (s.q.descs.find? fun e => e.addr = at_.toNat) = some d)
    (hst : d.state = 1) (hver : d.version = Config.saveVersion) (hpart : d.part = r.part) (hp : s.part n = some p)
    (hg : s.grid d.seq = some g) (hgpart : g.part = d.part) (hplace : s.placeable p g.launch = true)
    (hpins : n ≠ d.part → s.pinsFit n (d.bytes / 65536) = true) (hev : s.q.events.length < Config.eventEntries)
    (hfree : n ≠ d.part → d.bytes / 65536 ≤ s.freeFrames n) (hw : ∀ w ∈ s.q.waiting, w.seq ≠ s.q.nextSeq) :
    Answers (.resumeContext r at_ n) s fun t =>
      Replies s t r 0x0B 0x00 [s.q.nextSeq] [] ∧ t.q.nextSeq = s.q.nextSeq + 1 ∧ t.grid d.seq = some { g with part := n, resumed := true } ∧
      (t.q.descs.find? fun e => e.addr = at_.toNat) = some { d with state := 2 } ∧
      (n = d.part → t.t = s.t ∧ t.rest = s.rest) ∧
      (n ≠ d.part → ∀ v ∈ t.trains, v.i.grid = d.seq → v.i.id ≠ 0 → ∃ u ∈ s.trains, v = u.moved n ∧
        ∀ p ∈ u.pins, u.i.part ≠ n → (u.i.part, p) ∈ v.kept) := by
  obtain ⟨m, hbody⟩ := resumeBody_accepts (r := { r with kind := 0x0B }) (.resumeContext r at_ n) hd hst hver hpart hp hg hplace hpins hev hfree
  obtain ⟨_, _, hdesk⟩ := (State.newSeq { s with m := m } r.part true).resumed_desk d n
  have hdesc := State.resumed_desc (s := State.newSeq { s with m := m } r.part true) n hd hst
  have hgrid := State.resumed_grid (s := State.newSeq { s with m := m } r.part true) n hg hgpart
  have htrains := (State.newSeq { s with m := m } r.part true).resumed_trains d n
  generalize (State.newSeq { s with m := m } r.part true).resumed d n = v at hbody hdesk hdesc hgrid htrains
  have hreplies : v.q.replies = s.q.replies := by rw [hdesk]; rfl
  have hnext : v.q.nextSeq = s.q.nextSeq + 1 := by rw [hdesk]; rfl
  have hwaiting : v.q.waiting = s.q.waiting := by rw [hdesk]; rfl
  obtain ⟨es, hdone⟩ := State.completeEvent_unawaited (s := v) (hwaiting ▸ hw) 0x00 none
  rw [hdone] at hbody
  have hreply : (resumeBody { r with kind := 0x0B } at_.toNat n (.resumeContext r at_ n) s).q.replies =
      s.q.replies ++ [⟨r.reqid, 0x0B, r.part, r.endpoint, 0x00, [s.q.nextSeq], []⟩] := by
    rw [hbody, ← hreplies]
    rfl
  refine ⟨_, serveWaiting_of_reply hs hreply, hreply, ?_⟩
  rw [hbody]
  refine ⟨hnext, hgrid, hdesc, fun h => ?_, fun h x hx hseq hid => ?_⟩
  · rw [if_pos h] at htrains
    exact List.cons.inj htrains
  · rw [if_neg h] at htrains
    obtain ⟨u, hu, rfl⟩ := State.mem_trains_moved (htrains ▸ hx) hseq hid
    exact ⟨u, hu, rfl, fun _ => Train.pin_mem_kept_moved⟩

end

end Sys2Proof.Machine
end

section
open Sys2Proof.Machine

/-- Settles O39: each request reaches the body of its kind, whose outcome its checks decide. -/
theorem launchesAndLoads : Obligations.LaunchesAndLoads := by
  unfold Obligations.LaunchesAndLoads
  intro s r n queue at_ image hs
  exact ⟨fun _ _ => launch_outcomes hs, fun _ => loadImage_installs hs,
    fun _ he => loadImage_refused hs (by simp [loadBody, he]),
    fun _ _ hx hl => loadImage_refused hs (by simp [loadBody, hx, hl]),
    fun _ => loadImage_waits hs, fun _ _ _ => resumeContext_accepted hs⟩

end

section
/-! SUPPORT. The path of a key (R86): where it begins, how it goes on, where it ends, and which digits it reads. -/
namespace Sys2Proof.Machine

/-- The child of node `n` that digit `j` of a key names (R86). -/
def Object.childAt (o : Object) (key : Word) (n j : Nat) : Nat := (o.node n).children.getD (digit key j) 0

theorem digit_eq (key : Word) (j : Nat) : digit key j = key.toNat / 4 ^ j % 4 := by
  simp [digit, natBits, Nat.pow_mul]

section
variable {o : Object} {key : Word}

/-- The path goes on to a child that there is. -/
theorem pathFrom_onward {fuel n j : Nat} (hj : j < 16) (hc : o.childAt key n j ≠ 0) :
    o.pathFrom key (fuel + 1) n j = n :: o.pathFrom key fuel (o.childAt key n j) (j + 1) := by
  rw [Object.pathFrom, if_pos (by simpa using ⟨hj, hc⟩)]
  rfl

/-- It ends at a node without that child, and after the sixteenth digit. -/
theorem pathFrom_end {fuel n j : Nat} (h : ¬(j < 16 ∧ o.childAt key n j ≠ 0)) : o.pathFrom key (fuel + 1) n j = [n] := by
  unfold Object.childAt at h
  rw [Object.pathFrom, if_neg (by simpa using h)]

theorem length_pathFrom_le (fuel n j : Nat) : (o.pathFrom key fuel n j).length ≤ fuel := by
  induction fuel generalizing n j with
  | zero => simp [Object.pathFrom]
  | succ fuel ih =>
    by_cases h : j < 16 ∧ o.childAt key n j ≠ 0
    · simpa [pathFrom_onward h.1 h.2] using ih _ _
    · simp [pathFrom_end h]

theorem pathFrom_head (fuel n j : Nat) : (o.pathFrom key (fuel + 1) n j)[0]? = some n := by
  by_cases h : j < 16 ∧ o.childAt key n j ≠ 0
  · simp [pathFrom_onward h.1 h.2]
  · simp [pathFrom_end h]

theorem length_pathFrom_pos (fuel n j : Nat) : 0 < (o.pathFrom key (fuel + 1) n j).length :=
  (List.getElem?_eq_some_iff.mp (pathFrom_head fuel n j)).1

/-- Each node but the first is the child that its depth's digit names, and is not 0. -/
theorem pathFrom_next {fuel n j k : Nat} (hk : k + 1 < (o.pathFrom key fuel n j).length) :
    let p := o.pathFrom key fuel n j
    p[k + 1]? = some (o.childAt key (p.getD k 0) (j + k)) ∧ o.childAt key (p.getD k 0) (j + k) ≠ 0 := by
  induction fuel generalizing n j k with
  | zero => simp [Object.pathFrom] at hk
  | succ fuel ih =>
    by_cases h : j < 16 ∧ o.childAt key n j ≠ 0
    · rw [pathFrom_onward h.1 h.2] at hk ⊢
      cases k with
      | zero =>
        cases fuel with
        | zero => simp [Object.pathFrom] at hk
        | succ fuel => simpa [pathFrom_head] using h.2
      | succ k =>
        have := ih (k := k) (by simpa using hk)
        simpa [Nat.add_comm, Nat.add_left_comm] using this
    · simp [pathFrom_end h] at hk

/-- A path that ends before its fuel does has met no child. -/
theorem pathFrom_last {fuel n j : Nat} (hj : j + fuel ≤ 17) (hl : (o.pathFrom key fuel n j).length < fuel) :
    let p := o.pathFrom key fuel n j
    o.childAt key (p.getD (p.length - 1) 0) (j + (p.length - 1)) = 0 := by
  induction fuel generalizing n j with
  | zero => simp at hl
  | succ fuel ih =>
    by_cases h : j < 16 ∧ o.childAt key n j ≠ 0
    · rw [pathFrom_onward h.1 h.2] at hl ⊢
      have hl' : (o.pathFrom key fuel (o.childAt key n j) (j + 1)).length < fuel := by simpa using hl
      have := ih (by omega) hl'
      cases fuel with
      | zero => simp at hl'
      | succ fuel =>
        obtain ⟨m, hm⟩ := Nat.exists_eq_add_one.mpr (length_pathFrom_pos (o := o) (key := key) fuel (o.childAt key n j) (j + 1))
        simpa [hm, Nat.add_comm, Nat.add_left_comm] using this
    · have hf : 0 < fuel := by simpa [pathFrom_end h] using hl
      simpa [pathFrom_end h, show j < 16 by omega] using h

/-- A path depends on the digits of its nodes' depths alone. -/
theorem pathFrom_congr {other : Word} {fuel n j : Nat}
    (h : ∀ k < (o.pathFrom key fuel n j).length, digit other (j + k) = digit key (j + k)) :
    o.pathFrom other fuel n j = o.pathFrom key fuel n j := by
  induction fuel generalizing n j with
  | zero => rfl
  | succ fuel ih =>
    have hc : o.childAt other n j = o.childAt key n j := by
      simpa [Object.childAt] using congrArg (fun i => (o.node n).children.getD i 0) (h 0 (length_pathFrom_pos fuel n j))
    by_cases hj : j < 16 ∧ o.childAt key n j ≠ 0
    · rw [pathFrom_onward hj.1 hj.2] at h ⊢
      rw [pathFrom_onward hj.1 (hc ▸ hj.2), hc, ih]
      intro k hk
      simpa [Nat.add_comm, Nat.add_left_comm] using h (k + 1) (by simpa using hk)
    · rw [pathFrom_end hj, pathFrom_end (hc ▸ hj)]

end

end Sys2Proof.Machine
end

section
open Sys2Proof.Machine

/-- Settles O26: by induction on the number of nodes that a path may still have. -/
theorem pathOfAKey : Obligations.PathOfAKey := by
  unfold Obligations.PathOfAKey
  intro o key p digit child
  have hchild : ∀ j, child j = o.childAt key (p.getD j 0) j := fun j => by simp [child, digit, Object.childAt, digit_eq]
  refine ⟨length_pathFrom_pos 16 0 0, length_pathFrom_le 17 0 0, pathFrom_head 16 0 0, fun j hj => ?_, fun hl => ?_, fun other h => ?_⟩
  · simpa [hchild, p, Object.path] using pathFrom_next hj
  · simpa [hchild, p, Object.path] using pathFrom_last (by omega) hl
  · exact pathFrom_congr fun k hk => by simpa [digit_eq] using h k hk

end

section
/-! SUPPORT. Pins, refinements and evictions: what they change of the object directory and the refinement queues, and that they leave
every train, team and byte as it was (R89 to R94). -/
namespace Sys2Proof.Machine

/-! ### What residency operations leave as it was -/

/-- `u` is `s` but for residency: objects, queues and the tier map. Its trains, teams, cores and bytes are those of `s`. -/
structure OnlyResidency (s u : State) : Prop where
  train : u.t = s.t
  dist : u.d = s.d
  mem : u.m.mem = s.m.mem

theorem OnlyResidency.refl (s : State) : OnlyResidency s s := ⟨rfl, rfl, rfl⟩

theorem OnlyResidency.trans {s u v : State} (h : OnlyResidency s u) (k : OnlyResidency u v) : OnlyResidency s v :=
  ⟨k.train.trans h.train, k.dist.trans h.dist, k.mem.trans h.mem⟩

theorem onlyResidency_onObject (s : State) (part handle : Nat) (f : Object → Object) : OnlyResidency s (s.onObject part handle f) :=
  ⟨rfl, rfl, rfl⟩

theorem onlyResidency_onPart (s : State) (num : Nat) (f : Part → Part) : OnlyResidency s (s.onPart num f) := ⟨rfl, rfl, rfl⟩

theorem onlyResidency_unpin (s : State) (part : Nat) (pin : Nat × Nat) : OnlyResidency s (s.unpin part pin) := ⟨rfl, rfl, rfl⟩

theorem onlyResidency_demote (s : State) (g : Nat) : OnlyResidency s { s with m := s.m.demote g } := ⟨rfl, rfl, mem_demote s.m g⟩

theorem onlyResidency_foldl {α : Type} {f : State → α → State} (hf : ∀ u a, OnlyResidency u (f u a)) (l : List α) (s : State) :
    OnlyResidency s (l.foldl f s) :=
  l.foldlRecOn (motive := OnlyResidency s) f (.refl s) fun u hu a _ => hu.trans (hf u a)

theorem onlyResidency_evictEnd (s : State) (part handle node : Nat) : OnlyResidency s (s.evictEnd part handle node) := by
  unfold State.evictEnd; split
  · exact .refl s
  · dsimp only; split
    · exact onlyResidency_onObject _ _ _ _
    · exact .refl s

theorem onlyResidency_evictNode (s : State) (part handle node : Nat) : OnlyResidency s (s.evictNode part handle node) := by
  unfold State.evictNode; split
  · exact .refl s
  · refine ((onlyResidency_onObject _ _ _ _).trans (onlyResidency_foldl (fun u g => ?_) _ _)).trans (onlyResidency_evictEnd _ _ _ _)
    split
    · exact onlyResidency_demote u g
    · exact .refl u

theorem onlyResidency_evictNow (s : State) (part handle node : Nat) : OnlyResidency s (s.evictNow part handle node).1 := by
  unfold State.evictNow; split
  · exact .refl s
  · split
    · exact .refl s
    · split
      · exact .refl s
      · split
        · exact onlyResidency_evictNode _ _ _ _
        · exact .refl s
      · exact .refl s

theorem onlyResidency_postRefine (s : State) (part handle node : Nat) (ldo : Bool) :
    OnlyResidency s (s.postRefine part handle node ldo).1 := by
  unfold State.postRefine; split
  · dsimp only; split
    · exact .refl s
    · split
      · exact onlyResidency_onPart _ _ _
      · split <;> exact onlyResidency_onPart _ _ _
  · exact .refl s

theorem onlyResidency_refineLane (s : State) (lane : Nat) (h key tol : Word) : OnlyResidency s (s.refineLane lane h key tol).1 := by
  unfold State.refineLane; split
  · exact .refl s
  · dsimp only; split
    · exact .refl s
    · split
      · exact .refl s
      · exact onlyResidency_postRefine _ _ _ _ _

/-! ### The pins of a node -/

theorem node_onNode {o : Object} {n k : Nat} {f : Node → Node} (hn : n < o.nodes.length) :
    (o.onNode k f).node n = if n = k then f (o.node n) else o.node n := by
  simp [Object.node, Object.onNode, hn]

theorem object_onObject {s : State} {part handle x : Nat} {f : Object → Object}
    (hf : ∀ o, (f o).part = o.part ∧ (f o).handle = o.handle) :
    (s.onObject part handle f).object part x = (s.object part x).map fun o => if x = handle then f o else o := by
  have hfind : ((fun o : Object => decide (o.part = part) && decide (o.handle = x)) ∘
      fun o => if (decide (o.part = part) && decide (o.handle = handle)) = true then f o else o) =
      fun o => decide (o.part = part) && decide (o.handle = x) := by
    funext o
    by_cases h : o.part = part ∧ o.handle = handle <;> simp [h, hf o]
  unfold State.object State.onObject
  rw [List.find?_map, hfind]
  refine Option.map_congr fun o ho => ?_
  have hx := List.find?_some ho
  simp only [Bool.and_eq_true, decide_eq_true_eq] at hx ⊢
  simp [hx.1, hx.2]

theorem object_unpin {s : State} {part x : Nat} {pin : Nat × Nat} :
    (s.unpin part pin).object part x =
      (s.object part x).map fun o => if x = pin.1 then o.onNode pin.2 fun n => { n with pins := n.pins - 1 } else o :=
  object_onObject fun _ => ⟨rfl, rfl⟩

/-- A node's count falls by as many as the released pins name it; the rest of the object stays (R90). -/
theorem object_foldl_unpin {s : State} {part x : Nat} {o : Object} (gone : List (Nat × Nat)) (h : s.object part x = some o) :
    ∃ o', (gone.foldl (fun u p => u.unpin part p) s).object part x = some o' ∧ o'.gen = o.gen ∧ ∀ n, n < o.nodes.length →
      o'.node n = { o.node n with pins := (o.node n).pins - gone.count (x, n) } := by
  induction gone generalizing s o with
  | nil => exact ⟨o, h, rfl, fun n _ => rfl⟩
  | cons pin gone ih =>
    have hu := object_unpin (s := s) (part := part) (x := x) (pin := pin)
    rw [h, Option.map_some] at hu
    by_cases hx : x = pin.1
    · rw [if_pos hx] at hu
      obtain ⟨o', ho, hg, hn⟩ := ih hu
      refine ⟨o', ho, hg, fun n hl => ?_⟩
      rw [hn n (by simpa [Object.onNode] using hl), node_onNode hl, List.count_cons]
      by_cases hk : n = pin.2
      · simp [hx, hk, Nat.sub_sub, Nat.add_comm]
      · simp [hk, Prod.ext_iff, Ne.symm hk]
    · rw [if_neg hx] at hu
      obtain ⟨o', ho, hg, hn⟩ := ih hu
      refine ⟨o', ho, hg, fun n hl => ?_⟩
      rw [hn n hl, List.count_cons_of_ne fun e => hx (congrArg Prod.fst e).symm]

/-! ### The beginning and the end of a word -/

theorem word_user {i : Instr} {needs : List Need} {body : State → State} {s : State} (h : s.Admits i needs) :
    word i false needs body s = .next (body s) := word_next h (by simp)

/-- A word that ends its region, behind an effect that leaves the train's place as it was: one more group has issued, and where the split
stands alone it is at the next word. -/
theorem doneEnding_leaves {s u : State} {len : Dword} (hd : u.t.d = s.t.d) (hx : u.t.x = s.t.x) (hi : u.t.i = s.t.i)
    (hg : u.t.group = none) (hl : s.t.live ≠ 0) :
    ∃ d, u.doneEnding len = { u with t := { u.t with d := d, c := { u.t.c with issued := u.t.c.issued + 1 } } } ∧
      SameLanes s (u.doneEnding len) ∧ Leaves s (u.doneEnding len) (s.t.split.afterEnding len) := by
  have hlive : u.t.live = s.t.live := by simp only [Train.live, Train.all, hd, hi]
  have hsplit : u.t.split = s.t.split := by simp only [Train.split, hd]
  have hlone : u.t.Lone = s.t.Lone := by simp only [Train.Lone, Train.slot, Train.split, Train.base, hd, hx]
  obtain ⟨d, hex, hq, hs, he⟩ := conclude_on (s := u) true false false len hg (hlive ▸ hl)
  unfold State.doneEnding
  rw [he]
  refine ⟨d, rfl, ⟨hd ▸ hex, hd ▸ hq⟩, fun h => ?_⟩
  rw [Split.onward_ending, hsplit, hd] at hs
  rw [← Train.setSplit_d_congr _ hd]
  exact hs (hlone ▸ h)

/-! ### Checks of handles -/

theorem laneFails_eq_nil {e : Mask} {h : Nat → Word} {f : Nat → Option Nat} (hf : ∀ l ∈ lanes e, f l = none) :
    laneFails e h f = [] := List.filterMap_eq_nil_iff.mpr fun l hl => by simp [hf l hl]

/-- Where no lane fails nothing is raised. -/
theorem orRaise_nil (s : State) (body : State → State) : s.orRaise (objectTrap []) body = body s := rfl

section
variable {s : State} {e : Mask} {h : Nat → Word}

theorem handleFault_eq_none (hs : s.Handles e h) : ∀ l ∈ lanes e, s.handleFault (h l) = none := by
  intro l hl
  obtain ⟨hlt, o, ho, -⟩ := hs l hl
  simp [State.handleFault, ho, Nat.not_le.mpr hlt]

theorem badTrees_eq_nil (hs : s.Handles e h) : s.badTrees e h = [] := by
  refine laneFails_eq_nil fun l hl => ?_
  obtain ⟨-, o, ho, ht⟩ := hs l hl
  simp [ho, ht]

end

/-! ### `odrop` -/

/-- A read at issue notes only by what it may have been overtaken (R103). -/
theorem read_eq (s : State) (e : Mask) : ∃ ops, s.read e = s.onT fun t => { t with c := { t.c with ops := ops } } := by
  unfold State.read; split
  · exact ⟨s.t.c.ops, rfl⟩
  · exact ⟨_, rfl⟩

theorem filter_not_contains_filter {α : Type} [BEq α] [LawfulBEq α] (p : α → Bool) (l : List α) :
    (l.filter fun x => !(l.filter p).contains x) = l.filter fun x => !p x :=
  List.filter_congr fun x hx => by simp [hx]

section
variable {s : State} {c : Ctl} {a : Fld}

/-- The train's pins of the objects that the lanes name (R91). -/
def State.droppedPins (s : State) (c : Ctl) (a : Fld) : List (Nat × Nat) :=
  s.t.pins.filter fun p => (lanes (s.t.act c)).any fun l => decide ((s.t.v a l).toNat = p.1)

/-- The state once they have been taken off. -/
def State.dropPins (s : State) (c : Ctl) (a : Fld) : State :=
  let gone := s.droppedPins c a
  (gone.foldl (fun u p => u.unpin s.t.i.part p) (s.read (s.t.act c))).onT fun t =>
    { t with pins := t.pins.filter fun p => !gone.contains p }

theorem exec_odrop (h : s.Admits (.odrop c a) [Need.v a.toNat 0]) (hh : s.Handles (s.t.act c) fun l => s.t.v a l)
    (hm : s.t.act c ≠ 0 → s.mayAct Order.plain = true) : exec (.odrop c a) s = .next ((s.dropPins c a).doneEnding 4) := by
  show execOdrop c a s = _
  rw [execOdrop, word_user h]
  refine congrArg Host.Outcome.next ?_
  have hhold : ¬(s.t.act c != 0 && !s.mayAct Order.plain) = true := by
    by_cases he : s.t.act c = 0
    · simp [he]
    · simp [hm he]
  obtain ⟨ops, hr⟩ := read_eq s (s.t.act c)
  dsimp only
  rw [if_neg hhold, laneFails_eq_nil (handleFault_eq_none hh), orRaise_nil, State.dropPins, hr]
  unfold State.read at hr
  rw [hr]
  rfl

/-- The train after its pins have been taken off is as it was but for them and what its read has overtaken. -/
theorem dropPins_t : (s.dropPins c a).t =
    { s.t with c := (s.read (s.t.act c)).t.c, pins := s.t.pins.filter fun p => !(s.droppedPins c a).contains p } := by
  obtain ⟨ops, hr⟩ := read_eq s (s.t.act c)
  have hf := (onlyResidency_foldl (fun u p => onlyResidency_unpin u s.t.i.part p) (s.droppedPins c a) (s.read (s.t.act c))).train
  rw [State.dropPins, State.onT_t, hf, hr]
  rfl

theorem odrop_completes (h : s.Admits (.odrop c a) [Need.v a.toNat 0]) (hh : s.Handles (s.t.act c) fun l => s.t.v a l)
    (hm : s.t.act c ≠ 0 → s.mayAct Order.plain = true) :
    Answers (.odrop c a) s fun t =>
      t.t.pins = s.t.pins.filter (fun p => !(lanes (s.t.act c)).any fun l => decide ((s.t.v a l).toNat = p.1)) ∧
      (∀ x o, s.object s.t.i.part x = some o → ∃ o', t.object s.t.i.part x = some o' ∧ o'.gen = o.gen ∧ ∀ n, n < o.nodes.length →
        o'.node n = { o.node n with pins := (o.node n).pins - (s.droppedPins c a).count (x, n) }) ∧
      t.t.r = s.t.r ∧ t.t.c.ops = (s.read (s.t.act c)).t.c.ops ∧ SameLanes s t ∧ SameBytes s t ∧
      Leaves s t (s.t.split.afterEnding 4) := by
  refine ⟨_, exec_odrop h hh hm, ?_⟩
  obtain ⟨⟨-, hlive, hgroup⟩, -⟩ := h
  have ht := dropPins_t (s := s) (c := c) (a := a)
  obtain ⟨ops, hr⟩ := read_eq s (s.t.act c)
  have hf := onlyResidency_foldl (fun u p => onlyResidency_unpin u s.t.i.part p) (s.droppedPins c a) (s.read (s.t.act c))
  obtain ⟨d, he, hlanes, hleaves⟩ := doneEnding_leaves (s := s) (u := s.dropPins c a) (len := 4)
    (by rw [ht]) (by rw [ht]) (by rw [ht]) (by rw [ht]; exact hgroup) hlive
  refine ⟨?_, fun x o ho => ?_, ?_, ?_, hlanes, sameBytes_of ?_ ?_ ?_, hleaves⟩
  · simp only [he, ht]
    exact filter_not_contains_filter _ _
  · rw [he]
    exact object_foldl_unpin _ (hr ▸ ho)
  · simp only [he, ht]
  · simp only [he, ht]
  · rw [he]
    exact hf.mem.trans (by rw [hr]; rfl)
  · simp only [he, ht]
  · rw [he]
    exact congrArg Dist.teams (hf.dist.trans (by rw [hr]; rfl))

end

/-! ### `oreq` -/

/-- One lane's request (R92): the state after it, its node and, when decided at once, its outcome. -/
def State.laneRequest (s : State) (evict : Bool) (a : Fld) (l : Nat) : State × Nat × Option (Nat × Nat) :=
  if evict then
    let n := (s.t.vk a 2 l).toNat
    let (u, out) := s.evictNow s.t.i.part (s.t.v a l).toNat n
    (u, n, out)
  else s.refineLane l (s.t.v a l) (s.t.vk a 1 l) (s.t.vk a 2 l)

theorem requestLanes_cons (s : State) (evict : Bool) (a : Fld) (l : Nat) (ls : List Nat) (ws : List ObjWait) :
    s.requestLanes evict a (l :: ls) ws =
      let (u, n, out) := s.laneRequest evict a l
      match ws.find? fun w => w.handle = (s.t.v a l).toNat && w.node = n && (evict || !(out.map Prod.fst == some 1)) with
      | some w => s.requestLanes evict a ls (ws ++ [{ w with lane := l }])
      | none => u.requestLanes evict a ls (ws ++ [⟨l, (s.t.v a l).toNat, n, evict, ((s.obj (s.t.v a l)).map Object.gen).getD 0, out⟩]) := rfl

/-- A wait is the request of its lane of the train `t`. -/
def ObjWait.Asks (w : ObjWait) (t : Train) (evict : Bool) (a : Fld) : Prop :=
  w.handle = (t.v a w.lane).toNat ∧ w.evict = evict ∧ (evict = true → w.node = (t.vk a 2 w.lane).toNat)

section
variable {s u : State} {evict : Bool} {a : Fld}

theorem onlyResidency_laneRequest (s : State) (evict : Bool) (a : Fld) (l : Nat) : OnlyResidency s (s.laneRequest evict a l).1 := by
  cases evict
  · exact onlyResidency_refineLane _ _ _ _ _
  · exact onlyResidency_evictNow _ _ _ _

theorem laneRequest_node (s : State) (a : Fld) (l : Nat) : (s.laneRequest true a l).2.1 = (s.t.vk a 2 l).toNat := rfl

/-- Every lane's wait is its own request, in the order of the lanes, whether it was made anew or merged with an earlier lane's. -/
theorem requestLanes_asks (ls : List Nat) {ws : List ObjWait} (hu : OnlyResidency s u) (hw : ∀ w ∈ ws, w.Asks s.t evict a) :
    let r := u.requestLanes evict a ls ws
    OnlyResidency s r.1 ∧ r.2.map ObjWait.lane = ws.map ObjWait.lane ++ ls ∧ ∀ w ∈ r.2, w.Asks s.t evict a := by
  induction ls generalizing u ws with
  | nil => exact ⟨hu, by simp [State.requestLanes], hw⟩
  | cons l ls ih =>
    have hnode : evict = true → (u.laneRequest evict a l).2.1 = (s.t.vk a 2 l).toNat := by
      rintro rfl
      rw [laneRequest_node, hu.train]
    have hnew : ∀ x : ObjWait, x.Asks s.t evict a → ∀ w ∈ ws ++ [x], w.Asks s.t evict a := fun x hx w hm =>
      (List.mem_append.mp hm).elim (hw w) fun h => List.mem_singleton.mp h ▸ hx
    rw [requestLanes_cons]
    dsimp only
    split
    · rename_i w hfound
      obtain ⟨hhandle, hn⟩ : w.handle = (u.t.v a l).toNat ∧ w.node = (u.laneRequest evict a l).2.1 := by
        have := List.find?_some hfound
        simp only [Bool.and_eq_true, decide_eq_true_eq] at this
        exact this.1
      have hx : ObjWait.Asks { w with lane := l } s.t evict a :=
        ⟨hu.train ▸ hhandle, (hw w (List.mem_of_find?_eq_some hfound)).2.1, fun h => hn.trans (hnode h)⟩
      simpa using ih hu (hnew _ hx)
    · have hx : ObjWait.Asks ⟨l, (u.t.v a l).toNat, (u.laneRequest evict a l).2.1, evict, ((u.obj (u.t.v a l)).map Object.gen).getD 0,
          (u.laneRequest evict a l).2.2⟩ s.t evict a := ⟨by rw [hu.train], rfl, hnode⟩
      simpa using ih (hu.trans (onlyResidency_laneRequest u evict a l)) (hnew _ hx)

theorem requestLanes_one (s : State) (evict : Bool) (a : Fld) (l : Nat) :
    s.requestLanes evict a [l] [] =
      let r := s.laneRequest evict a l
      (r.1, [⟨l, (s.t.v a l).toNat, r.2.1, evict, ((s.obj (s.t.v a l)).map Object.gen).getD 0, r.2.2⟩]) := rfl

theorem lanes_laneBit {l : Nat} (hl : l < 64) : lanes (laneBit l) = [l] := by
  have h : lanes (laneBit l) = (List.range 64).filter (· = l) :=
    List.filter_congr fun i hi => by rw [getLsbD_laneBit _ _ (List.mem_range.mp hi)]
  rw [h, List.filter_eq, List.count_range, if_pos hl]
  rfl

end

section
variable {s : State} {evict : Bool} {c : Ctl} {d a : Fld} {ac : BitVec 4}

/-- The requests of the lanes that take part, and the state once they have been made (R92). -/
def State.requests (s : State) (evict : Bool) (c : Ctl) (a : Fld) : State × List ObjWait :=
  s.requestLanes evict a (lanes (s.t.act c)) []

/-- An `oreq` that passes its checks queues the requests of its lanes. -/
theorem objectRequest_eq (he : s.t.act c ≠ 0) (hh : s.Handles (s.t.act c) fun l => s.t.v a l) (hf : s.CanFetch ac.toNat)
    (hn : evict = true → ∀ l ∈ lanes (s.t.act c), ∀ o, s.obj (s.t.v a l) = some o → (s.t.vk a 2 l).toNat < o.nodes.length) :
    objectRequest evict c d a ac s =
      (let r := s.requests evict c a
       (r.1.onT fun t => t.enqueue (r.1.newOp (.request d r.2) ac.toNat (s.t.act c) [] false false none)).doneEnding 4) := by
  obtain ⟨hfetch, hroom⟩ := hf
  have hhold : ¬(!s.mayFetch false || s.t.noRoom ac.toNat false) = true := by
    simp [hfetch, Train.noRoom, hroom]
  have hfail : ∀ l ∈ lanes (s.t.act c), (s.handleFault (s.t.v a l) <|> (if evict then (s.obj (s.t.v a l)).bind fun o =>
      if o.nodes.length ≤ (s.t.vk a 2 l).toNat then some 3 else none else none)) = none := by
    intro l hl
    obtain ⟨-, o, ho, -⟩ := hh l hl
    have hhandle : s.handleFault (s.t.v a l) = none := handleFault_eq_none hh l hl
    rw [hhandle]
    cases evict with
    | false => rfl
    | true => simp [ho, Nat.not_le.mpr (hn rfl l hl o ho)]
  unfold objectRequest
  dsimp only
  rw [if_neg he, if_neg hhold, laneFails_eq_nil hfail, orRaise_nil, badTrees_eq_nil hh, orRaise_nil]
  rfl

/-- What it changes and leaves: one more operation of the train, one more group issued, residency, and the divergence state. -/
theorem objectRequest_completes (hi : s.Issuing) (he : s.t.act c ≠ 0) (hh : s.Handles (s.t.act c) fun l => s.t.v a l)
    (hf : s.CanFetch ac.toNat)
    (hn : evict = true → ∀ l ∈ lanes (s.t.act c), ∀ o, s.obj (s.t.v a l) = some o → (s.t.vk a 2 l).toNat < o.nodes.length) :
    let t := objectRequest evict c d a ac s
    let r := s.requests evict c a
    (∃ o, t.t.c.ops = s.t.c.ops ++ [o] ∧ o.work = .request d r.2 ∧ o.lanes = s.t.act c ∧ o.counter = ac.toNat) ∧ t.q = r.1.q ∧
      t.t.r = s.t.r ∧ t.t.pins = s.t.pins ∧ SameLanes s t ∧ SameBytes s t ∧ Leaves s t (s.t.split.afterEnding 4) := by
  intro t r
  obtain ⟨-, hlive, hgroup⟩ := hi
  obtain ⟨hr, -⟩ := requestLanes_asks (s := s) (evict := evict) (a := a) (lanes (s.t.act c)) (.refl s) (ws := []) (by simp)
  have ht : t = _ := objectRequest_eq he hh hf hn
  obtain ⟨dv, hdone, hlanes, hleaves⟩ := doneEnding_leaves (s := s) (len := 4)
    (u := r.1.onT fun t => t.enqueue (r.1.newOp (.request d r.2) ac.toNat (s.t.act c) [] false false none))
    (congrArg Train.d hr.train :) (congrArg Train.x hr.train :) (congrArg Train.i hr.train :) ((congrArg Train.group hr.train :).trans hgroup) hlive
  rw [← ht] at hlanes hleaves
  rw [hdone] at ht
  rw [ht] at hlanes hleaves ⊢
  exact ⟨⟨_, (congrArg (fun v : Train => v.c.ops ++ [_]) hr.train :), rfl, rfl, rfl⟩, rfl, (congrArg Train.r hr.train :),
    (congrArg Train.pins hr.train :), hlanes, sameBytes_of hr.mem (congrArg Train.priv hr.train :) (congrArg Dist.teams hr.dist :), hleaves⟩

end

/-! ### What one lane's request comes to -/

theorem part_onPart {s : State} {n : Nat} {p : Part} {f : Part → Part} (hf : ∀ p, (f p).num = p.num) (h : s.part n = some p) :
    (s.onPart n f).part n = some (f p) := by
  have hfind : ((fun p : Part => decide (p.num = n)) ∘ fun p => if p.num = n then f p else p) = fun p => decide (p.num = n) := by
    funext p
    by_cases hp : p.num = n <;> simp [hp, hf p]
  have hnum : p.num = n := by simpa using List.find?_some h
  unfold State.part State.onPart at *
  rw [List.find?_map, hfind, h, Option.map_some, if_pos hnum]

section
variable {s : State} {h node : Nat} {x : Object}

/-- The root is refused, then a promoting node waits, then a pinned one and one that is not resident are refused (R92, R93). -/
theorem evictNow_outcome {part : Nat} (ho : s.object part h = some x) :
    (s.evictNow part h node).2 =
      if node = 0 then some (3, x.gen) else match (x.node node).state with
        | .promoting => none
        | .resident => if (x.node node).pins = 0 then some (0, x.gen + 1) else some (2, x.gen)
        | _ => some (1, x.gen) := by
  unfold State.evictNow
  rw [ho]
  dsimp only
  by_cases hroot : node = 0
  · rw [if_pos hroot, if_pos hroot]
  · rw [if_neg hroot, if_neg hroot]
    cases (x.node node).state with
    | resident => exact apply_ite Prod.snd _ _ _
    | promoting | absent | evicting => rfl

/-- A target that is neither there, coming nor queued is appended to its queue, or dropped and counted where the queue is full (R89). -/
theorem postRefine_fresh {part : Nat} {p : Part} {ldo : Bool} (hp : s.part part = some p) (ho : s.object part h = some x)
    (hpromoting : (x.node node).state ≠ .promoting) (hresident : (x.node node).state ≠ .resident)
    (hqueue : ∀ r ∈ p.refine, (r.1, r.2.1) ≠ (h, node)) :
    s.postRefine part h node ldo =
      if 4096 ≤ p.refine.length then (s.onPart part fun p => { p with drops := p.drops + 1 }, false)
      else (s.onPart part fun p => { p with refine := p.refine ++ [(h, node, ldo)] }, true) := by
  have hany : (p.refine.any fun r => decide (r.1 = h) && decide (r.2.1 = node)) = false :=
    List.any_eq_false.mpr fun r hr => by simpa [Prod.ext_iff] using hqueue r hr
  unfold State.postRefine
  rw [hp, ho]
  simp [hpromoting, hresident, hany]

section
variable {l : Nat} {hw key tol : Word}

theorem refineLane_met (ho : s.obj hw = some x) (hs : (s.walk l x (x.path key) tol).2.2 = false) :
    s.refineLane l hw key tol = (s, 0, some (1, x.gen)) := by
  unfold State.refineLane
  rw [ho]
  simp [hs]

theorem refineLane_short (ho : s.obj hw = some x) (hs : (s.walk l x (x.path key) tol).2.2 = true)
    (ht : x.target (x.path key) (s.walk l x (x.path key) tol).2.1 tol = some node) :
    s.refineLane l hw key tol =
      let r := s.postRefine s.t.i.part hw.toNat node false
      (r.1, node, if r.2 then none else some (5, x.gen)) := by
  unfold State.refineLane
  rw [ho]
  simp [hs, ht]

end
end

/-! ### An `oreq` of one lane -/

section
variable {s : State} {c : Ctl} {a : Fld} {l : Nat} (he : s.t.act c = laneBit l) (hl : l < 64)
include he hl

theorem requests_one (evict : Bool) : s.requests evict c a =
    let r := s.laneRequest evict a l
    (r.1, [⟨l, (s.t.v a l).toNat, r.2.1, evict, ((s.obj (s.t.v a l)).map Object.gen).getD 0, r.2.2⟩]) := by
  rw [State.requests, he, lanes_laneBit hl, requestLanes_one]

theorem requests_evict : (s.requests true c a).2.map ObjWait.outcome =
    [(s.evictNow s.t.i.part (s.t.v a l).toNat (s.t.vk a 2 l).toNat).2] := by
  rw [requests_one he hl]
  rfl

theorem requests_refine {x : Object} (hx : s.obj (s.t.v a l) = some x) : s.requests false c a =
    let r := s.refineLane l (s.t.v a l) (s.t.vk a 1 l) (s.t.vk a 2 l)
    (r.1, [⟨l, (s.t.v a l).toNat, r.2.1, false, x.gen, r.2.2⟩]) := by
  rw [requests_one he hl, hx]
  rfl

end

theorem exec_oreq {s : State} {c : Ctl} {d a : Fld} {ac : BitVec 4} :
    ∀ q ∈ ([(.oreqRefine c d a ac, false), (.oreqEvict c d a ac, true)] : List (Instr × Bool)),
      s.Admits q.1 [Need.v d.toNat 1, Need.v a.toNat 2] → exec q.1 s = .next (objectRequest q.2 c d a ac s) := by
  intro q hq h
  simp only [List.mem_cons, List.not_mem_nil, or_false] at hq
  rcases hq with rfl | rfl
  · exact (word_user h : execOreqRefine c d a ac s = _)
  · exact (word_user h : execOreqEvict c d a ac s = _)

end Sys2Proof.Machine
end

section
open Sys2Proof.Machine

/-- Settles O28: the pins that `odrop` takes off are released one after another; `oreq` leaves one wait a lane, and with one lane that wait is
the outcome of its eviction or of its refinement's post. -/
theorem pinsAndRequests : Obligations.PinsAndRequests := by
  unfold Obligations.PinsAndRequests
  intro s c d a ac e h part
  refine ⟨odrop_completes, fun q hq hadmits he hh hfetch hnodes => ⟨_, exec_oreq q hq hadmits, ?_⟩⟩
  obtain ⟨⟨o, hops, hwork, hlanes, hcounter⟩, hqueues, hrest⟩ := objectRequest_completes hadmits.1 he hh hfetch hnodes
  obtain ⟨-, hlane, hasks⟩ := requestLanes_asks (s := s) (evict := q.2) (a := a) (lanes e) (.refl s) (ws := []) (by simp)
  obtain ⟨hregs, hpins, hsame, hbytes, hleaves⟩ := hrest
  refine ⟨o, (s.requests q.2 c a).2, hops, hwork, hlanes, hcounter, hlane, hasks, hregs, hpins, hsame, hbytes, hleaves,
    fun l x p hone hl hx hp => ⟨fun hev => ?_, fun hev hmet => ?_, fun hev hshort y hy hprom hres hfresh => ?_⟩⟩
  · rw [hev, requests_evict hone hl]
    exact congrArg (fun out => [out]) (evictNow_outcome hx)
  · rw [hev, requests_refine hone hl hx, refineLane_met hx hmet]
    rfl
  · have hpart : (objectRequest q.2 c d a ac s).part part = (s.requests q.2 c a).1.part part := by
      rw [State.part, State.part, hqueues]
    have hpost := postRefine_fresh (ldo := false) hp hx hprom hres hfresh
    rw [hpart, hev, requests_refine hone hl hx, refineLane_short hx hshort hy, hpost]
    refine ⟨fun hroom => ?_, fun hfull => ?_⟩
    · rw [if_neg (Nat.not_le.mpr hroom)]
      exact ⟨rfl, rfl, congrArg (Option.map Part.refine)
        (part_onPart (f := fun p => { p with refine := p.refine ++ [((h l).toNat, y, false)] }) (fun _ => rfl) hp)⟩
    · rw [if_pos hfull]
      exact ⟨rfl, congrArg (Option.map Part.drops)
        (part_onPart (f := fun p => { p with drops := p.drops + 1 }) (fun _ => rfl) hp)⟩

end

section
/-! SUPPORT. The codes of a binary floating format: what they decode to, and that a rounding answers a code that is no NaN (R206, R208). -/
namespace Sys2Proof

/-! ### Codes and what they decode to -/

/-- The code of magnitude code `c` with this sign (R206). -/
def FFmt.signed (f : FFmt) (neg : Bool) (c : Nat) : Nat := (if neg then f.signWeight else 0) + c

/-- The exponent step of a magnitude code: subnormals and the least normals share step 0 (R206). -/
def FFmt.binade (f : FFmt) (c : Nat) : Nat := c / 2 ^ f.fbits - 1

/-- The significand of a magnitude code, its hidden bit included, as a count of units of its step (R206). -/
def FFmt.significand (f : FFmt) (c : Nat) : Nat := c - f.binade c * 2 ^ f.fbits

section
variable {f : FFmt}

theorem FFmt.signWeight_eq : f.signWeight = 2 ^ f.fbits * 2 ^ f.ebits := by rw [FFmt.signWeight, Nat.add_comm, Nat.pow_add]

theorem FFmt.infCode_add : f.infCode + 2 ^ f.fbits = f.signWeight := by
  rw [FFmt.infCode, FFmt.signWeight_eq, ← Nat.succ_mul, Nat.succ_eq_add_one, Nat.sub_add_cancel Nat.one_le_two_pow, Nat.mul_comm]

theorem FFmt.infCode_lt_signWeight : f.infCode < f.signWeight := by
  have := f.infCode_add
  have : 0 < 2 ^ f.fbits := Nat.two_pow_pos _
  omega

theorem FFmt.signed_lt {neg : Bool} {c : Nat} (hc : c < f.signWeight) : f.signed neg c < 2 * f.signWeight := by
  cases neg <;> simp only [FFmt.signed, Bool.false_eq_true, if_true, if_false] <;> omega

theorem FFmt.signed_mod {neg : Bool} {c : Nat} (hc : c < f.signWeight) : f.signed neg c % f.signWeight = c := by
  cases neg <;> simp [FFmt.signed, Nat.mod_eq_of_lt hc]

theorem FFmt.signed_sign {neg : Bool} {c : Nat} (hc : c < f.signWeight) : (f.signed neg c / f.signWeight % 2 == 1) = neg := by
  have hpos : 0 < f.signWeight := Nat.zero_lt_of_lt hc
  cases neg <;> simp [FFmt.signed, Nat.div_eq_of_lt hc, Nat.add_div_left, hpos]

theorem FFmt.exponentField (v : Nat) : v / 2 ^ f.fbits % 2 ^ f.ebits = v % f.signWeight / 2 ^ f.fbits := by
  rw [FFmt.signWeight_eq, Nat.mod_mul_right_div_self]

theorem FFmt.fractionField (v : Nat) : v % 2 ^ f.fbits = v % f.signWeight % 2 ^ f.fbits := by
  rw [FFmt.signWeight_eq, Nat.mod_mul_right_mod]

/-- The exponent field is all ones exactly from the code of infinity on. -/
theorem FFmt.exponentField_ones {c : Nat} (hc : c < f.signWeight) : c / 2 ^ f.fbits = 2 ^ f.ebits - 1 ↔ f.infCode ≤ c := by
  rw [FFmt.infCode, ← Nat.le_div_iff_mul_le (Nat.two_pow_pos _)]
  have : c / 2 ^ f.fbits < 2 ^ f.ebits := Nat.div_lt_of_lt_mul (f.signWeight_eq ▸ hc)
  omega

/-- Below the code of infinity a code is a number: its significand in units of its step, whose exponent is `qmin` and upward. -/
theorem decodeF_of_lt {v : Nat} (h : v % f.signWeight < f.infCode) : decodeF f v = .fin (v / f.signWeight % 2 == 1)
    (f.significand (v % f.signWeight)) (f.binade (v % f.signWeight) + f.qmin) := by
  have hones := mt (FFmt.exponentField_ones (Nat.lt_trans h f.infCode_lt_signWeight)).mp (Nat.not_le.mpr h)
  rw [decodeF, f.exponentField, f.fractionField, if_neg hones]
  generalize v % f.signWeight = c
  have hsplit := Nat.div_add_mod' c (2 ^ f.fbits)
  split
  case isTrue hz =>
    have hfrac : c % 2 ^ f.fbits = c := by rwa [hz, Nat.zero_mul, Nat.zero_add] at hsplit
    simp [FFmt.significand, FFmt.binade, hz, hfrac]
  case isFalse hz =>
    obtain ⟨b, hb⟩ := Nat.exists_eq_succ_of_ne_zero hz
    rw [hb, Nat.succ_mul] at hsplit
    simp only [FFmt.significand, FFmt.binade, hb, Nat.succ_eq_add_one, Nat.add_sub_cancel, FVal.fin.injEq, true_and]
    omega

/-- From the code of infinity on a code is an infinity or, above it, a NaN. -/
theorem decodeF_of_le {v : Nat} (h : f.infCode ≤ v % f.signWeight) : (decodeF f v).isNumber = false ∧
    ((decodeF f v).isNan = true ↔ v % f.signWeight ≠ f.infCode) := by
  have hc : v % f.signWeight < f.signWeight := Nat.mod_lt _ (Nat.two_pow_pos _)
  have hones := (FFmt.exponentField_ones hc).mpr h
  rw [decodeF, f.exponentField, f.fractionField, if_pos hones]
  have hsplit := Nat.div_add_mod' (v % f.signWeight) (2 ^ f.fbits)
  rw [hones, ← FFmt.infCode] at hsplit
  split
  case isTrue hz =>
    have heq : v % f.signWeight = f.infCode := by omega
    simp [FVal.isNumber, FVal.isNan, FVal.isInf, heq]
  case isFalse hz =>
    have hne : v % f.signWeight ≠ f.infCode := by omega
    simp [FVal.isNumber, FVal.isNan, hne]

theorem isNumber_decodeF {v : Nat} : (decodeF f v).isNumber = true ↔ v % f.signWeight < f.infCode := by
  by_cases h : v % f.signWeight < f.infCode
  · simp [decodeF_of_lt h, h, FVal.isNumber, FVal.isNan, FVal.isInf]
  · simp [decodeF_of_le (Nat.not_lt.mp h), h]

theorem isNan_decodeF {v : Nat} : (decodeF f v).isNan = true ↔ f.infCode < v % f.signWeight := by
  by_cases h : v % f.signWeight < f.infCode
  · simp [decodeF_of_lt h, FVal.isNan, Nat.le_of_lt h]
  · rw [(decodeF_of_le (Nat.not_lt.mp h)).2]
    omega

end

/-! ### What a rounding answers -/

/-- The exponent of the unit to which m × 2^e is rounded: `fbits` below its leading bit, but at least the subnormals' (R208). -/
def FFmt.unitExp (f : FFmt) (m : Nat) (e : Int) : Int := max (e + (bitLen m : Int) - 1 - (f.fbits : Int)) f.qmin

/-- The magnitude code of m × 2^e rounded, before the overflow test. -/
def FFmt.roundCode (f : FFmt) (mode : RMode) (neg : Bool) (m : Nat) (e : Int) (sticky : Bool) : Nat :=
  (f.unitExp m e - f.qmin).toNat * 2 ^ f.fbits + (roundAt mode neg m e (f.unitExp m e) sticky).1

/-- The numerator with which `roundF` works: scaled so that the unit of rounding always lies above its last bit. -/
def FFmt.scaled (f : FFmt) (m : Nat) : Nat := m * 2 ^ (f.fbits + 4)

/-- The exponent that belongs to the scaled numerator. -/
def FFmt.scaledExp (f : FFmt) (e : Int) : Int := e - ((f.fbits + 4 : Nat) : Int)

/-- A rounding either answers its code with the sign, and says whether something was discarded, or it overflows to the infinity or the
greatest number. -/
theorem roundF_cases (f : FFmt) (mode : RMode) (neg : Bool) (m : Nat) (e : Int) (sticky : Bool) :
    let r := roundF f mode neg m e sticky
    let c := f.roundCode mode neg (f.scaled m) (f.scaledExp e) sticky
    (c < f.infCode ∧ r.1 = f.signed neg c ∧
      r.2.nx = (roundAt mode neg (f.scaled m) (f.scaledExp e) (f.unitExp (f.scaled m) (f.scaledExp e)) sticky).2) ∨
    (r.2.of = true ∧ ∃ c ≤ f.infCode, r.1 = f.signed neg c) := by
  intro r c
  by_cases h : f.infCode ≤ c
  · refine .inr ?_
    have hr : r = if f.infCode ≤ c then _ else _ := rfl
    rw [hr, if_pos h]
    have hle (b : Bool) : (if b then f.infCode else f.infCode - 1) ≤ f.infCode := by split <;> omega
    exact ⟨rfl, _, hle _, rfl⟩
  · have hr : r = if f.infCode ≤ c then _ else _ := rfl
    refine .inl ⟨Nat.not_le.mp h, ?_⟩
    rw [hr, if_neg h]
    exact ⟨rfl, rfl⟩

theorem roundF_signed (f : FFmt) (mode : RMode) (neg : Bool) (m : Nat) (e : Int) (sticky : Bool) :
    ∃ c ≤ f.infCode, (roundF f mode neg m e sticky).1 = f.signed neg c := by
  obtain ⟨hc, hr, -⟩ | ⟨-, hr⟩ := roundF_cases f mode neg m e sticky
  · exact ⟨_, Nat.le_of_lt hc, hr⟩
  · exact hr

/-! ### Results with no NaN but the canonical one -/

/-- A code of the format that, if it is a NaN, is the canonical one (R207). -/
def FFmt.Canonical (f : FFmt) (v : Nat) : Prop := v < 2 * f.signWeight ∧ ((decodeF f v).isNan = true → v = f.nan)

section
variable {f : FFmt}

theorem FFmt.canonical_signed {neg : Bool} {c : Nat} (hc : c ≤ f.infCode) : f.Canonical (f.signed neg c) := by
  have hlt : c < f.signWeight := Nat.lt_of_le_of_lt hc f.infCode_lt_signWeight
  refine ⟨f.signed_lt hlt, fun hn => ?_⟩
  rw [isNan_decodeF, f.signed_mod hlt] at hn
  omega

theorem FFmt.canonical_inf (neg : Bool) : f.Canonical ((if neg then f.signWeight else 0) + f.infCode) :=
  f.canonical_signed (neg := neg) (Nat.le_refl _)

theorem FFmt.canonical_zero (neg : Bool) : f.Canonical (if neg then f.signWeight else 0) :=
  f.canonical_signed (neg := neg) (Nat.zero_le _)

theorem FFmt.canonical_nan (hf : 0 < f.fbits) : f.Canonical f.nan := by
  have hhalf : 2 ^ (f.fbits - 1) < 2 ^ f.fbits := Nat.pow_lt_pow_right (by decide) (by omega)
  have := f.infCode_add
  exact ⟨by unfold FFmt.nan; omega, fun _ => rfl⟩

theorem roundF_canonical (mode : RMode) (neg : Bool) (m : Nat) (e : Int) (sticky : Bool) :
    f.Canonical (roundF f mode neg m e sticky).1 := by
  obtain ⟨c, hc, hr⟩ := roundF_signed f mode neg m e sticky
  exact hr ▸ f.canonical_signed hc

theorem roundDy_canonical (mode : RMode) (x : Dyadic) (zneg : Bool) : f.Canonical (roundDy f mode x zneg).1 := by
  unfold roundDy
  split
  · exact f.canonical_zero zneg
  · exact roundF_canonical ..

variable (hf : 0 < f.fbits)
include hf

theorem convertF_canonical (mode : RMode) (x : FVal) : f.Canonical (convertF f mode x).1 := by
  cases x with
  | nan s => exact f.canonical_nan hf
  | inf n => exact f.canonical_inf n
  | fin n m e =>
    rw [convertF]
    split
    · exact f.canonical_zero n
    · exact roundF_canonical ..

theorem sumF_canonical (x y : FVal) : f.Canonical (sumF f x y).1 := by
  unfold sumF
  split
  · split
    · exact f.canonical_inf _
    · exact f.canonical_nan hf
  · exact f.canonical_inf _
  · exact f.canonical_inf _
  · exact roundDy_canonical ..

theorem addF_canonical (x y : FVal) : f.Canonical (addF f x y).1 := by
  unfold addF
  split
  · exact f.canonical_nan hf
  split
  · exact f.canonical_nan hf
  · exact sumF_canonical hf x y

theorem timesF_canonical (x y : FVal) : f.Canonical (timesF f x y).1 := by
  unfold timesF
  split
  · exact f.canonical_nan hf
  split
  · exact f.canonical_nan hf
  split
  · exact f.canonical_nan hf
  · exact convertF_canonical hf _ _

theorem fmaF_canonical (x y z : FVal) : f.Canonical (fmaF f x y z).1 := by
  unfold fmaF
  split
  · exact f.canonical_nan hf
  split
  · exact f.canonical_nan hf
  split
  · exact f.canonical_nan hf
  · exact sumF_canonical hf _ _

end

end Sys2Proof
end

section
open Sys2Proof Sys2Proof.Machine

/-- Settles O6: every result is an infinity, the canonical NaN or a rounding, whose magnitude code does not pass that of infinity. -/
theorem nansAreCanonical : Obligations.NansAreCanonical := by
  unfold Obligations.NansAreCanonical
  intro x y z r hr
  have hf : 0 < f32.fbits := by decide
  have hcanonical : f32.Canonical r.1 := by
    simp only [List.mem_cons, List.not_mem_nil, or_false] at hr
    rcases hr with rfl | rfl | rfl | rfl
    · exact addF_canonical hf _ _
    · exact addF_canonical hf _ _
    · exact timesF_canonical hf _ _
    · exact fmaF_canonical hf _ _ _
  exact hcanonical

end

section
/-! SUPPORT. Exact numbers and codes in units of one small power of two, and the rounding of a magnitude between two neighbouring codes
(R206, R208, R211). -/
namespace Sys2Proof

/-! ### Exact numbers in common units -/

namespace Dyadic
variable {x y : Dyadic} {e : Int}

theorem atExp_mul {e' : Int} (h : e ≤ e') (hx : e' ≤ x.e) : x.atExp e' * 2 ^ (e' - e).toNat = x.atExp e := by
  have hexp : (x.e - e).toNat = (x.e - e').toNat + (e' - e).toNat := by omega
  rw [atExp, atExp, hexp, Int.pow_add, Int.mul_assoc]

theorem atExp_neg : y.neg.atExp e = -y.atExp e := Int.neg_mul ..

theorem atExp_sub (hx : e ≤ x.e) (hy : e ≤ y.e) : (x.sub y).atExp e = x.atExp e - y.atExp e := by
  have he : e ≤ min x.e y.e := by omega
  rw [Int.sub_eq_add_neg, ← atExp_neg, ← atExp_mul (x := x) he (Int.min_le_left ..),
    ← atExp_mul (x := y.neg) he (Int.min_le_right ..), ← Int.add_mul]
  rfl

theorem atExp_nonpos : x.atExp e ≤ 0 ↔ x.m ≤ 0 := by
  have h := Int.mul_le_mul_right (b := x.m) (c := 0) (Int.pow_pos (n := 2) (m := (x.e - e).toNat) (by decide))
  rw [Int.zero_mul] at h
  exact h

theorem atExp_lt_zero : x.atExp e < 0 ↔ x.m < 0 := by
  have h := Int.mul_lt_mul_right (b := x.m) (c := 0) (Int.pow_pos (n := 2) (m := (x.e - e).toNat) (by decide))
  rw [Int.zero_mul] at h
  exact h

theorem le_iff (hx : e ≤ x.e) (hy : e ≤ y.e) : x.le y = true ↔ x.atExp e ≤ y.atExp e := by
  rw [le, decide_eq_true_iff, ← atExp_nonpos (e := e), atExp_sub hx hy]
  omega

theorem eq_iff (hx : e ≤ x.e) (hy : e ≤ y.e) : x.eq y = true ↔ x.atExp e = y.atExp e := by
  have hnonpos := atExp_nonpos (x := x.sub y) (e := e)
  have hneg := atExp_lt_zero (x := x.sub y) (e := e)
  rw [atExp_sub hx hy] at hnonpos hneg
  rw [eq, decide_eq_true_iff]
  omega

theorem natAbs_atExp : (x.atExp e).natAbs = x.m.natAbs * 2 ^ (x.e - e).toNat := by
  rw [atExp, Int.natAbs_mul, Int.natAbs_pow]
  rfl

theorem atExp_dist (hx : e ≤ x.e) (hy : e ≤ y.e) : (x.dist y).atExp e = (x.atExp e - y.atExp e).natAbs := by
  rw [← atExp_sub hx hy, natAbs_atExp, Int.natCast_mul, Int.natCast_pow]
  rfl

theorem le_exp_dist (hx : e ≤ x.e) (hy : e ≤ y.e) : e ≤ (x.dist y).e := Int.le_min.mpr ⟨hx, hy⟩

end Dyadic

/-- An integer under a sign. -/
def withSign (neg : Bool) (n : Int) : Int := if neg then -n else n

@[simp] theorem withSign_true (n : Int) : withSign true n = -n := rfl
@[simp] theorem withSign_false (n : Int) : withSign false n = n := rfl

theorem withSign_withSign (a b : Bool) (n : Int) : withSign a (withSign b n) = withSign (a != b) n := by
  cases a <;> cases b <;> simp only [withSign_true, withSign_false, Int.neg_neg, bne_self_eq_false, Bool.bne_true, Bool.bne_false,
    Bool.not_false]

theorem withSign_inj {neg : Bool} {m n : Int} : withSign neg m = withSign neg n ↔ m = n := by cases neg <;> simp

theorem natAbs_withSign_sub (neg : Bool) (m n : Int) : (withSign neg m - withSign neg n).natAbs = (m - n).natAbs := by
  cases neg with
  | true =>
    rw [withSign_true, withSign_true]
    omega
  | false => rfl

theorem Dyadic.atExp_eq_withSign (x : Dyadic) (e : Int) : x.atExp e = withSign (decide (x.m < 0)) (x.atExp e).natAbs := by
  have hneg := atExp_lt_zero (x := x) (e := e)
  by_cases h : x.m < 0
  · simp only [h, decide_true, withSign_true]
    omega
  · simp only [h, decide_false, withSign_false]
    omega

/-! ### The magnitude of a code -/

/-- The number that a magnitude code stands for, in units of 2^(qmin − d), with the codes from that of infinity on read as if the exponents
had no upper limit. -/
def FFmt.mag (f : FFmt) (d c : Nat) : Nat := f.significand c * 2 ^ (f.binade c + d)

section
variable {f : FFmt} {d : Nat}

/-- A number of the format in units of 2^(qmin − d), and that its exponent reaches so far down. -/
theorem atExp_decodeF {v : Nat} (h : v % f.signWeight < f.infCode) : f.qmin - d ≤ (decodeF f v).dy.e ∧
    (decodeF f v).dy.atExp (f.qmin - d) = withSign (v / f.signWeight % 2 == 1) (f.mag d (v % f.signWeight)) := by
  rw [decodeF_of_lt h]
  generalize v % f.signWeight = c
  have hexp : ((f.binade c : Int) + f.qmin - (f.qmin - d)).toNat = f.binade c + d := by omega
  refine ⟨?_, ?_⟩
  · change f.qmin - (d : Int) ≤ (f.binade c : Int) + f.qmin
    omega
  · rw [FFmt.mag, ← hexp, Int.natCast_mul, Int.natCast_pow]
    cases v / f.signWeight % 2 == 1 with
    | true => exact Int.neg_mul ..
    | false => rfl

theorem FFmt.binade_mul_add {b u : Nat} (hu : u < 2 * 2 ^ f.fbits) (hb : b = 0 ∨ 2 ^ f.fbits ≤ u) :
    f.binade (b * 2 ^ f.fbits + u) = b := by
  have hpos : 0 < 2 ^ f.fbits := Nat.two_pow_pos _
  rw [FFmt.binade, Nat.add_comm, Nat.add_mul_div_right _ _ hpos]
  have hle : u / 2 ^ f.fbits ≤ 1 := Nat.le_of_lt_succ (Nat.div_lt_of_lt_mul (by omega))
  rcases hb with rfl | hb
  · omega
  · have := Nat.div_pos hb hpos
    omega

/-- Step `b` of the exponent: a significand of it is a count of units of 2^(b + qmin). -/
theorem FFmt.mag_mul_add {b u : Nat} (hu : u < 2 * 2 ^ f.fbits) (hb : b = 0 ∨ 2 ^ f.fbits ≤ u) :
    f.mag d (b * 2 ^ f.fbits + u) = u * 2 ^ (b + d) := by
  rw [FFmt.mag, FFmt.significand, f.binade_mul_add hu hb, Nat.add_sub_cancel_left]

/-- The next code is one unit further on, also where a carry takes it into the next step. -/
theorem FFmt.mag_mul_add_succ {b u : Nat} (hu : u < 2 * 2 ^ f.fbits) (hb : b = 0 ∨ 2 ^ f.fbits ≤ u) :
    f.mag d (b * 2 ^ f.fbits + u + 1) = (u + 1) * 2 ^ (b + d) := by
  rcases Nat.lt_or_eq_of_le (Nat.succ_le_of_lt hu) with hlt | hcarry
  · rw [Nat.add_assoc, f.mag_mul_add hlt (hb.imp_right Nat.le_succ_of_le)]
  · have hcode : b * 2 ^ f.fbits + u + 1 = (b + 1) * 2 ^ f.fbits + 2 ^ f.fbits := by
      rw [Nat.succ_mul]
      omega
    have hpos : 0 < 2 ^ f.fbits := Nat.two_pow_pos _
    rw [hcode, f.mag_mul_add (by omega) (.inr (Nat.le_refl _)), ← Nat.succ_eq_add_one u, hcarry, Nat.add_right_comm, Nat.pow_succ',
      Nat.mul_left_comm, Nat.mul_assoc]

theorem FFmt.mag_lt_mag_succ (c : Nat) : f.mag d c < f.mag d (c + 1) := by
  have hsplit := Nat.div_add_mod' c (2 ^ f.fbits)
  have hlt : c % 2 ^ f.fbits < 2 ^ f.fbits := Nat.mod_lt _ (Nat.two_pow_pos _)
  obtain ⟨b, u, hu, hb, rfl⟩ : ∃ b u, u < 2 * 2 ^ f.fbits ∧ (b = 0 ∨ 2 ^ f.fbits ≤ u) ∧ c = b * 2 ^ f.fbits + u := by
    rcases hq : c / 2 ^ f.fbits with _ | b
    · exact ⟨0, c, by rw [hq] at hsplit; omega, .inl rfl, by omega⟩
    · exact ⟨b, 2 ^ f.fbits + c % 2 ^ f.fbits, by omega, .inr (by omega), by rw [hq, Nat.succ_mul] at hsplit; omega⟩
  rw [f.mag_mul_add hu hb, f.mag_mul_add_succ hu hb]
  exact Nat.mul_lt_mul_of_pos_right (Nat.lt_succ_self _) (Nat.two_pow_pos _)

theorem FFmt.mag_lt_mag {c c' : Nat} (h : c < c') : f.mag d c < f.mag d c' := by
  induction h with
  | refl => exact f.mag_lt_mag_succ c
  | step _ ih => exact Nat.lt_trans ih (f.mag_lt_mag_succ _)

theorem FFmt.mag_le_mag {c c' : Nat} (h : c ≤ c') : f.mag d c ≤ f.mag d c' := by
  rcases Nat.lt_or_eq_of_le h with hlt | rfl
  · exact Nat.le_of_lt (f.mag_lt_mag hlt)
  · exact Nat.le_refl _

theorem FFmt.mag_zero : f.mag d 0 = 0 := by simp [FFmt.mag, FFmt.significand]

/-- No signed code lies strictly between two neighbouring magnitudes. -/
theorem FFmt.signed_mag_gap (neg : Bool) (c c0 : Nat) :
    withSign neg (f.mag d c) ≤ f.mag d c0 ∨ f.mag d (c0 + 1) ≤ withSign neg (f.mag d c) := by
  cases neg with
  | true =>
    rw [withSign_true]
    omega
  | false =>
    rw [withSign_false]
    rcases Nat.lt_or_ge c0 c with h | h
    · exact .inr (Int.ofNat_le.mpr (f.mag_le_mag h))
    · exact .inl (Int.ofNat_le.mpr (f.mag_le_mag h))

theorem FFmt.code_eq_of_signed_mag {neg : Bool} {c c' : Nat} (hc : c' ≠ 0) (h : withSign neg (f.mag d c) = f.mag d c') : c = c' := by
  have hpos : f.mag d 0 < f.mag d c' := f.mag_lt_mag (Nat.pos_of_ne_zero hc)
  cases neg with
  | true =>
    rw [withSign_true] at h
    omega
  | false =>
    rw [withSign_false] at h
    rcases Nat.lt_trichotomy c c' with hlt | heq | hgt
    · have := f.mag_lt_mag (d := d) hlt
      omega
    · exact heq
    · have := f.mag_lt_mag (d := d) hgt
      omega

end

/-! ### Rounding between two neighbours -/

/-- `Rounds` on magnitudes: what no worse an approximation of `a` means for `r` beside `y` where the sign has been taken off (R208). -/
def RMode.Approximates (mode : RMode) (neg : Bool) (r a y : Int) : Prop :=
  match mode, neg with
  | .rne, _ => (r - a).natAbs ≤ (y - a).natAbs
  | .rz, _ | .ru, true | .rd, false => r ≤ a ∧ (y ≤ a → y ≤ r)
  | .ru, false | .rd, true => a ≤ r ∧ (a ≤ y → r ≤ y)

/-- `Rounds` read off in common units. -/
theorem rounds_iff {mode : RMode} {v x k : Dyadic} {e : Int} (hv : e ≤ v.e) (hx : e ≤ x.e) (hk : e ≤ k.e) :
    Rounds mode v x k ↔ mode.Approximates (decide (x.m < 0)) (withSign (decide (x.m < 0)) (v.atExp e))
      (withSign (decide (x.m < 0)) (x.atExp e)) (withSign (decide (x.m < 0)) (k.atExp e)) := by
  by_cases hneg : x.m < 0
  · have hnot : ¬0 ≤ x.m := Int.not_le.mpr hneg
    simp only [hneg, decide_true, withSign_true]
    cases mode with
    | rne =>
      simp only [Rounds, RMode.Approximates, Dyadic.le_iff (Dyadic.le_exp_dist hv hx) (Dyadic.le_exp_dist hk hx),
        Dyadic.atExp_dist hv hx, Dyadic.atExp_dist hk hx]
      omega
    | rz =>
      simp only [Rounds, RMode.Approximates, if_neg hnot, Dyadic.le_iff hx hv, Dyadic.le_iff hx hk, Dyadic.le_iff hv hk]
      omega
    | ru =>
      simp only [Rounds, RMode.Approximates, Dyadic.le_iff hx hv, Dyadic.le_iff hx hk, Dyadic.le_iff hv hk]
      omega
    | rd =>
      simp only [Rounds, RMode.Approximates, Dyadic.le_iff hv hx, Dyadic.le_iff hk hx, Dyadic.le_iff hk hv]
      omega
  · simp only [hneg, decide_false, withSign_false]
    cases mode with
    | rne =>
      simp only [Rounds, RMode.Approximates, Dyadic.le_iff (Dyadic.le_exp_dist hv hx) (Dyadic.le_exp_dist hk hx),
        Dyadic.atExp_dist hv hx, Dyadic.atExp_dist hk hx, Int.ofNat_le]
    | rz =>
      simp only [Rounds, RMode.Approximates, if_pos (Int.not_lt.mp hneg), Dyadic.le_iff hv hx, Dyadic.le_iff hk hx, Dyadic.le_iff hk hv]
    | ru => simp only [Rounds, RMode.Approximates, Dyadic.le_iff hx hv, Dyadic.le_iff hx hk, Dyadic.le_iff hv hk]
    | rd => simp only [Rounds, RMode.Approximates, Dyadic.le_iff hv hx, Dyadic.le_iff hk hx, Dyadic.le_iff hk hv]

/-- The magnitude `a` lies between code `c0` and the next, and the code `c` is `c0` or, when the mode says up, the next. -/
structure FFmt.Steps (f : FFmt) (d : Nat) (mode : RMode) (neg : Bool) (a c0 c : Nat) (inexact : Bool) : Prop where
  below : f.mag d c0 ≤ a
  above : a < f.mag d (c0 + 1)
  inexact_iff : inexact = true ↔ f.mag d c0 ≠ a
  code : c = c0 + if mode.up neg (c0 % 2 == 1) (compare (a - f.mag d c0) (f.mag d (c0 + 1) - a)) inexact then 1 else 0

namespace FFmt.Steps
variable {f : FFmt} {d : Nat} {mode : RMode} {neg : Bool} {a c0 c : Nat} {y : Int} {inexact : Bool}

/-- To nearest, the code is the nearer neighbour, and the even one at equal distances. -/
theorem nearest (h : f.Steps d .rne neg a c0 c inexact) :
    (c = c0 ∧ a - f.mag d c0 ≤ f.mag d (c0 + 1) - a ∧ (c % 2 = 1 → a - f.mag d c0 < f.mag d (c0 + 1) - a)) ∨
    (c = c0 + 1 ∧ f.mag d (c0 + 1) - a ≤ a - f.mag d c0 ∧ (c % 2 = 1 → f.mag d (c0 + 1) - a < a - f.mag d c0)) := by
  have hcode := h.code
  rcases Nat.lt_trichotomy (a - f.mag d c0) (f.mag d (c0 + 1) - a) with hlt | heq | hgt
  · rw [Nat.compare_eq_lt.mpr hlt] at hcode
    exact .inl ⟨hcode, Nat.le_of_lt hlt, fun _ => hlt⟩
  · rw [Nat.compare_eq_eq.mpr heq] at hcode
    simp only [RMode.up, beq_iff_eq] at hcode
    split at hcode
    · exact .inr ⟨hcode, Nat.le_of_eq heq.symm, by omega⟩
    · exact .inl ⟨hcode, Nat.le_of_eq heq, by omega⟩
  · rw [Nat.compare_eq_gt.mpr hgt] at hcode
    exact .inr ⟨hcode, Nat.le_of_lt hgt, fun _ => hgt⟩

theorem code_eq_of_exact (h : f.Steps d mode neg a c0 c false) : c = c0 ∧ f.mag d c0 = a := by
  have heq : f.mag d c0 = a := Decidable.not_not.mp (mt h.inexact_iff.mpr Bool.false_ne_true)
  have habove := h.above
  have hlt : a - f.mag d c0 < f.mag d (c0 + 1) - a := by omega
  refine ⟨?_, heq⟩
  rw [h.code, Nat.compare_eq_lt.mpr hlt]
  cases mode <;> rfl

theorem code_eq_or (h : f.Steps d mode neg a c0 c inexact) : c = c0 ∨ c = c0 + 1 := by
  rw [h.code]
  split
  · exact .inr rfl
  · exact .inl rfl

/-- NX says exactly that the rounded magnitude differs from the exact one (R211). -/
theorem inexact_iff_ne (h : f.Steps d mode neg a c0 c inexact) : inexact = true ↔ f.mag d c ≠ a := by
  cases inexact with
  | false =>
    obtain ⟨rfl, heq⟩ := h.code_eq_of_exact
    exact h.inexact_iff
  | true =>
    rcases h.code_eq_or with rfl | rfl
    · exact h.inexact_iff
    · exact ⟨fun _ => Nat.ne_of_gt h.above, fun _ => rfl⟩

/-- With no code between the neighbours, the code reached is a best one under the mode. -/
theorem approximates (h : f.Steps d mode neg a c0 c inexact) (hy : y ≤ f.mag d c0 ∨ f.mag d (c0 + 1) ≤ y) :
    mode.Approximates neg (f.mag d c) a y := by
  have hbelow := h.below
  have habove := h.above
  have truncated (hc : c = c0) : (f.mag d c : Int) ≤ a ∧ (y ≤ a → y ≤ f.mag d c) := by
    rw [hc]
    omega
  have away (hc : c = c0 + if inexact then 1 else 0) : (a : Int) ≤ f.mag d c ∧ (a ≤ y → f.mag d c ≤ y) := by
    cases inexact with
    | false =>
      obtain ⟨rfl, heq⟩ := h.code_eq_of_exact
      omega
    | true =>
      have hne := h.inexact_iff.mp rfl
      rw [if_pos rfl] at hc
      rw [hc]
      omega
  have hcode := h.code
  cases mode with
  | rne =>
    have hdist : ((f.mag d c : Int) - a).natAbs ≤ (y - a).natAbs := by
      rcases h.nearest with ⟨rfl, hle, -⟩ | ⟨rfl, hle, -⟩
      · omega
      · omega
    exact hdist
  | rz => exact truncated hcode
  | ru =>
    cases neg with
    | true =>
      exact truncated (by simpa only [RMode.up, Bool.not_true, Bool.and_false, Bool.false_eq_true, if_false, Nat.add_zero] using hcode)
    | false => exact away (by simpa only [RMode.up, Bool.not_false, Bool.and_true] using hcode)
  | rd =>
    cases neg with
    | true => exact away (by simpa only [RMode.up, Bool.and_true] using hcode)
    | false => exact truncated (by simpa only [RMode.up, Bool.and_false, Bool.false_eq_true, if_false, Nat.add_zero] using hcode)

/-- To nearest, an odd code is strictly nearer than every other: the mirror image of it about `a` lies strictly between the neighbours. -/
theorem eq_of_odd_of_dist_eq (h : f.Steps d .rne neg a c0 c inexact) (hodd : c % 2 = 1) (hy : y ≤ f.mag d c0 ∨ f.mag d (c0 + 1) ≤ y)
    (hdist : ((f.mag d c : Int) - a).natAbs = (y - a).natAbs) : y = f.mag d c := by
  have hbelow := h.below
  have habove := h.above
  rcases h.nearest with ⟨rfl, -, hlt⟩ | ⟨rfl, -, hlt⟩
  · have hlt := hlt hodd
    omega
  · have hlt := hlt hodd
    omega

end FFmt.Steps

/-! ### The model's rounding takes such a step -/

theorem lt_two_pow_bitLen (m : Nat) : m < 2 ^ bitLen m := by
  unfold bitLen
  split
  case isTrue => omega
  case isFalse => exact Nat.lt_log2_self

theorem two_pow_le_of_bitLen {m n : Nat} (h : bitLen m = n + 1) : 2 ^ n ≤ m := by
  unfold bitLen at h
  split at h
  case isTrue => omega
  case isFalse hm => exact (Nat.le_log2 hm).mp (by omega)

/-- Below the unit of rounding the two branches of `roundAt` are one division: far below it the quotient is 0 and the rest under a half. -/
theorem roundAt_of_lt {mode : RMode} {neg : Bool} {m s : Nat} {e q : Int} (h : e < q) (hs : (q - e).toNat = s) :
    roundAt mode neg m e q false = (m / 2 ^ s + (if mode.up neg (m / 2 ^ s % 2 == 1) (compare (m % 2 ^ s) (2 ^ (s - 1))) (m % 2 ^ s != 0)
      then 1 else 0), m % 2 ^ s != 0) := by
  subst hs
  have hor : ∀ b : Bool, (b || false) = b := Bool.or_false
  have hstep (up : Bool) (t : Nat) : (if up then t + 1 else t) = t + if up then 1 else 0 := by cases up <;> rfl
  rw [roundAt, if_neg (Int.not_le.mpr h)]
  change (if bitLen m + 1 < (q - e).toNat then _ else _) = _
  by_cases hfar : bitLen m + 1 < (q - e).toNat
  · have hhalf : m < 2 ^ ((q - e).toNat - 1) := Nat.lt_of_lt_of_le (lt_two_pow_bitLen m) (Nat.pow_le_pow_right (by decide) (by omega))
    have hlt : m < 2 ^ (q - e).toNat := Nat.lt_of_lt_of_le hhalf (Nat.pow_le_pow_right (by decide) (by omega))
    rw [if_pos hfar, Nat.div_eq_of_lt hlt, Nat.mod_eq_of_lt hlt, Nat.compare_eq_lt.mpr hhalf, hor, Nat.zero_add]
    rfl
  · rw [if_neg hfar]
    simp only [Bool.or_false, Bool.false_eq_true, if_false]
    exact Prod.ext (hstep _ _) rfl

/-- The remainder beside half the unit is the distance to the code below beside that to the code above. -/
theorem compare_mod_half {m s w : Nat} (hs : 0 < s) (hw : 0 < w) :
    compare (m * w - m / 2 ^ s * (2 ^ s * w)) ((m / 2 ^ s + 1) * (2 ^ s * w) - m * w) = compare (m % 2 ^ s) (2 ^ (s - 1)) := by
  have hsplit := Nat.div_add_mod' m (2 ^ s)
  have hpow := Nat.two_pow_pred_mul_two hs
  have hlow : m * w - m / 2 ^ s * (2 ^ s * w) = m % 2 ^ s * w := by
    rw [← Nat.mul_assoc, ← Nat.sub_mul]
    congr 1
    omega
  have hhigh : (m / 2 ^ s + 1) * (2 ^ s * w) - m * w = (2 ^ s - m % 2 ^ s) * w := by
    rw [← Nat.mul_assoc, ← Nat.sub_mul, Nat.succ_mul]
    congr 1
    omega
  rw [hlow, hhigh]
  rcases Nat.lt_trichotomy (m % 2 ^ s) (2 ^ (s - 1)) with hlt | heq | hgt
  · rw [Nat.compare_eq_lt.mpr hlt, Nat.compare_eq_lt]
    exact Nat.mul_lt_mul_of_pos_right (by omega) hw
  · rw [Nat.compare_eq_eq.mpr heq, Nat.compare_eq_eq]
    congr 1
    omega
  · rw [Nat.compare_eq_gt.mpr hgt, Nat.compare_eq_gt]
    exact Nat.mul_lt_mul_of_pos_right (by omega) hw

section
variable {f : FFmt} {d : Nat} {mode : RMode} {neg : Bool} {m : Nat} {e : Int}

/-- In units of rounding the truncated magnitude is a significand of the step that the unit's exponent gives. -/
theorem FFmt.unitExp_step (hlt : e < f.unitExp m e) {s : Nat} (hs : (f.unitExp m e - e).toNat = s) :
    ∃ b : Nat, (b : Int) + f.qmin = f.unitExp m e ∧ m / 2 ^ s < 2 * 2 ^ f.fbits ∧ (b = 0 ∨ 2 ^ f.fbits ≤ m / 2 ^ s) := by
  have hq : f.unitExp m e = max (e + (bitLen m : Int) - 1 - (f.fbits : Int)) f.qmin := rfl
  generalize f.unitExp m e = q at *
  refine ⟨(q - f.qmin).toNat, by omega, ?_, ?_⟩
  · rw [Nat.div_lt_iff_lt_mul (Nat.two_pow_pos _), ← Nat.pow_succ', ← Nat.pow_add]
    exact Nat.lt_of_lt_of_le (lt_two_pow_bitLen m) (Nat.pow_le_pow_right (by decide) (by omega))
  · by_cases hsub : q = f.qmin
    · exact .inl (by omega)
    · refine .inr ?_
      rw [Nat.le_div_iff_mul_le (Nat.two_pow_pos _), ← Nat.pow_add]
      exact two_pow_le_of_bitLen (by omega)

theorem FFmt.steps_roundCode (hf : 0 < f.fbits) (hlt : e < f.unitExp m e) (hd : f.qmin - d ≤ e) :
    ∃ c0, f.Steps d mode neg (m * 2 ^ (e - (f.qmin - d)).toNat) c0
      (f.roundCode mode neg m e false) (roundAt mode neg m e (f.unitExp m e) false).2 := by
  obtain ⟨s, hs⟩ : ∃ s, (f.unitExp m e - e).toNat = s := ⟨_, rfl⟩
  obtain ⟨b, hb, hu, hstep⟩ := f.unitExp_step hlt hs
  rw [FFmt.roundCode, roundAt_of_lt hlt hs]
  obtain ⟨n, hn⟩ : ∃ n, (e - (f.qmin - d)).toNat = n := ⟨_, rfl⟩
  rw [hn]
  have hw : 0 < 2 ^ n := Nat.two_pow_pos n
  have hunit : 2 ^ (b + d) = 2 ^ s * 2 ^ n := by
    rw [← Nat.pow_add]
    congr 1
    omega
  have hlow := hunit ▸ f.mag_mul_add (d := d) hu hstep
  have hhigh := hunit ▸ f.mag_mul_add_succ (d := d) hu hstep
  have hsplit := Nat.div_add_mod' m (2 ^ s)
  have hmod : m % 2 ^ s < 2 ^ s := Nat.mod_lt _ (Nat.two_pow_pos s)
  refine ⟨b * 2 ^ f.fbits + m / 2 ^ s, ?_, ?_, ?_, ?_⟩
  · rw [hlow, ← Nat.mul_assoc]
    exact Nat.mul_le_mul_right _ (Nat.div_mul_le_self _ _)
  · rw [hhigh, ← Nat.mul_assoc, Nat.succ_mul]
    exact Nat.mul_lt_mul_of_pos_right (by omega) hw
  · rw [hlow, ← Nat.mul_assoc, bne_iff_ne, ne_eq, ne_eq, Nat.mul_left_inj (Nat.ne_of_gt hw)]
    omega
  · have hparity : (b * 2 ^ f.fbits + m / 2 ^ s) % 2 = m / 2 ^ s % 2 := by
      have : b * 2 ^ f.fbits % 2 = 0 := by rw [← Nat.two_pow_pred_mul_two hf, ← Nat.mul_assoc, Nat.mul_mod_left]
      omega
    have hcode : (f.unitExp m e - f.qmin).toNat = b := by omega
    rw [hlow, hhigh, compare_mod_half (by omega) hw, hparity, hcode, Nat.add_assoc]

/-- The scaling leaves at least four bits below the unit of rounding. -/
theorem FFmt.scaledExp_lt_unitExp (hm : m ≠ 0) : f.scaledExp e < f.unitExp (f.scaled m) (f.scaledExp e) := by
  have hlow : 2 ^ (f.fbits + 4) ≤ f.scaled m := Nat.le_mul_of_pos_left _ (Nat.pos_of_ne_zero hm)
  have hbits : f.fbits + 4 < bitLen (f.scaled m) :=
    (Nat.pow_lt_pow_iff_right (by decide)).mp (Nat.lt_of_le_of_lt hlow (lt_two_pow_bitLen _))
  rw [FFmt.unitExp]
  omega

theorem FFmt.scaled_mul_two_pow {q : Int} (hq : q ≤ f.scaledExp e) :
    f.scaled m * 2 ^ (f.scaledExp e - q).toNat = m * 2 ^ (e - q).toNat := by
  rw [FFmt.scaled, Nat.mul_assoc, ← Nat.pow_add]
  unfold FFmt.scaledExp at hq ⊢
  congr 2
  omega

/-- What does not overflow is the code that such a step reaches, with the sign; NX says whether the step was exact. -/
theorem roundF_steps (hf : 0 < f.fbits) (hm : m ≠ 0) (hd : f.qmin - d ≤ f.scaledExp e)
    (hof : (roundF f mode neg m e false).2.of = false) :
    ∃ c0, ∃ c, c < f.infCode ∧ (roundF f mode neg m e false).1 = f.signed neg c ∧
      f.Steps d mode neg (m * 2 ^ (e - (f.qmin - d)).toNat) c0 c (roundF f mode neg m e false).2.nx := by
  obtain ⟨hc, hr, hnx⟩ | ⟨hinf, -⟩ := roundF_cases f mode neg m e false
  · obtain ⟨c0, hsteps⟩ := f.steps_roundCode (mode := mode) (neg := neg) hf (f.scaledExp_lt_unitExp (e := e) hm) hd
    rw [f.scaled_mul_two_pow hd, ← hnx] at hsteps
    exact ⟨c0, _, hc, hr, hsteps⟩
  · exact absurd (hof.symm.trans hinf) Bool.false_ne_true

theorem FFmt.mod_signWeight_mod_two (hf : 0 < f.fbits) (v : Nat) : v % f.signWeight % 2 = v % 2 := by
  rw [FFmt.signWeight_eq, ← Nat.two_pow_pred_mul_two hf, Nat.mul_right_comm]
  exact Nat.mod_mod_of_dvd _ (Nat.dvd_mul_left _ _)

theorem FFmt.decodeF_signed (hf : 0 < f.fbits) {c : Nat} (hc : c < f.infCode) : (decodeF f (f.signed neg c)).isNumber = true ∧
    f.signed neg c % 2 = c % 2 ∧ f.qmin - d ≤ (decodeF f (f.signed neg c)).dy.e ∧
    (decodeF f (f.signed neg c)).dy.atExp (f.qmin - d) = withSign neg (f.mag d c) := by
  have hlt := Nat.lt_trans hc f.infCode_lt_signWeight
  have hmod := f.signed_mod (neg := neg) hlt
  have hnum : f.signed neg c % f.signWeight < f.infCode := hmod.symm ▸ hc
  obtain ⟨hexp, hval⟩ := atExp_decodeF (d := d) hnum
  rw [hmod, f.signed_sign hlt] at hval
  refine ⟨isNumber_decodeF.mpr hnum, ?_, hexp, hval⟩
  rw [← f.mod_signWeight_mod_two hf, hmod]

/-- A zero is its own code, whatever mode and sign it is taken with. -/
theorem FFmt.steps_zero : f.Steps d mode neg 0 0 0 false where
  below := Nat.le_of_eq f.mag_zero
  above := Nat.lt_of_le_of_lt (Nat.zero_le _) (f.mag_lt_mag_succ 0)
  inexact_iff := ⟨fun h => absurd h Bool.false_ne_true, fun h => absurd f.mag_zero h⟩
  code := by
    have hpos : f.mag d 0 < f.mag d (0 + 1) := f.mag_lt_mag_succ 0
    rw [Nat.compare_eq_lt.mpr (by omega)]
    cases mode <;> rfl

/-- `roundF_steps` for a dyadic number, a zero included, whatever sign the zero takes. -/
theorem roundDy_steps (hf : 0 < f.fbits) (hi : 0 < f.infCode) {x : Dyadic} {z : Bool} (hd : f.qmin - d ≤ f.scaledExp x.e)
    (hof : (roundDy f mode x z).2.of = false) :
    ∃ c0 c, (decodeF f (roundDy f mode x z).1).isNumber = true ∧ (roundDy f mode x z).1 % 2 = c % 2 ∧
      (f.qmin - d ≤ (decodeF f (roundDy f mode x z).1).dy.e ∧
        (decodeF f (roundDy f mode x z).1).dy.atExp (f.qmin - d) = withSign (decide (x.m < 0)) (f.mag d c)) ∧
      f.Steps d mode (decide (x.m < 0)) (x.atExp (f.qmin - d)).natAbs c0 c (roundDy f mode x z).2.nx := by
  rw [Dyadic.natAbs_atExp]
  by_cases hx : x.m = 0
  · have hr : roundDy f mode x z = (f.signed z 0, Flags.none) := if_pos hx
    obtain ⟨hnum, hodd, hexp, hval⟩ := f.decodeF_signed (d := d) (neg := z) hf hi
    rw [hr]
    refine ⟨0, 0, hnum, hodd, ⟨hexp, ?_⟩, ?_⟩
    · rw [hval, f.mag_zero]
      cases z <;> cases decide (x.m < 0) <;> rfl
    · rw [hx, Int.natAbs_zero, Nat.zero_mul]
      exact f.steps_zero
  · have hr : roundDy f mode x z = roundF f mode (decide (x.m < 0)) x.m.natAbs x.e false := if_neg hx
    rw [hr] at hof ⊢
    obtain ⟨c0, c, hc, hcode, hsteps⟩ := roundF_steps hf (mt Int.natAbs_eq_zero.mp hx) hd hof
    rw [hcode]
    obtain ⟨hnum, hodd, hval⟩ := f.decodeF_signed (d := d) (neg := decide (x.m < 0)) hf hc
    exact ⟨c0, c, hnum, hodd, hval, hsteps⟩

/-- A number of the format with another number's sign taken off is a signed magnitude. -/
theorem withSign_atExp_decodeF {k : Nat} (hk : (decodeF f k).isNumber = true) : f.qmin - d ≤ (decodeF f k).dy.e ∧
    ∃ s, withSign neg ((decodeF f k).dy.atExp (f.qmin - d)) = withSign s (f.mag d (k % f.signWeight)) := by
  obtain ⟨hexp, hval⟩ := atExp_decodeF (d := d) (isNumber_decodeF.mp hk)
  rw [hval, withSign_withSign]
  exact ⟨hexp, _, rfl⟩

end

/-- Units small enough for the numbers of the format and for one more number. -/
theorem FFmt.exists_units (f : FFmt) (x : Dyadic) : ∃ d : Nat, f.qmin - d ≤ f.scaledExp x.e ∧ f.qmin - d ≤ x.e := by
  refine ⟨(f.qmin - f.scaledExp x.e).toNat, ?_⟩
  unfold FFmt.scaledExp
  omega

theorem roundDy_correct {f : FFmt} (hf : 0 < f.fbits) (hi : 0 < f.infCode) {mode : RMode} {x : Dyadic} {z : Bool} :
    let r := roundDy f mode x z
    let v := decodeF f r.1
    r.2.of = false → v.isNumber = true ∧ r.2.nx = !(v.dy.eq x) ∧ ∀ k, (decodeF f k).isNumber = true →
      Rounds mode v.dy x (decodeF f k).dy ∧ (mode = .rne → r.1 % 2 = 1 → k % 2 = 0 →
        (Dyadic.dist v.dy x).eq (Dyadic.dist (decodeF f k).dy x) = false) := by
  intro r v hof
  obtain ⟨d, hd, hxe⟩ := f.exists_units x
  obtain ⟨c0, c, hnum, hodd, ⟨hve, hval⟩, hsteps⟩ := roundDy_steps hf hi hd hof
  have hx := x.atExp_eq_withSign (f.qmin - d)
  generalize (x.atExp (f.qmin - d)).natAbs = a at hx hsteps
  refine ⟨hnum, ?_, fun k hk => ?_⟩
  · rw [Bool.eq_iff_iff, hsteps.inexact_iff_ne, Bool.not_eq_true', Bool.eq_false_iff, ne_eq, ne_eq, Dyadic.eq_iff hve hxe, hval, hx,
      withSign_inj, Int.ofNat_inj]
  · obtain ⟨hke, s, hs⟩ := withSign_atExp_decodeF (d := d) (neg := decide (x.m < 0)) hk
    have hgap := f.signed_mag_gap (d := d) s (k % f.signWeight) c0
    refine ⟨?_, fun hrne hr1 hk0 => ?_⟩
    · rw [rounds_iff hve hxe hke, hval, hx, hs, withSign_withSign, withSign_withSign, bne_self_eq_false]
      exact hsteps.approximates hgap
    · subst hrne
      rw [Bool.eq_false_iff, ne_eq, Dyadic.eq_iff (Dyadic.le_exp_dist hve hxe) (Dyadic.le_exp_dist hke hxe), Dyadic.atExp_dist hve hxe,
        Dyadic.atExp_dist hke hxe, ← natAbs_withSign_sub (decide (x.m < 0)),
        ← natAbs_withSign_sub (decide (x.m < 0)) (Dyadic.atExp _ _), hval, hx, hs, withSign_withSign, withSign_withSign, bne_self_eq_false, Int.ofNat_inj]
      intro hdist
      have hcodd : c % 2 = 1 := hodd.symm.trans hr1
      have hsame := f.code_eq_of_signed_mag (by omega) (hsteps.eq_of_odd_of_dist_eq hcodd hgap hdist)
      have hparity := f.mod_signWeight_mod_two hf k
      omega

end Sys2Proof
end

section
open Sys2Proof Sys2Proof.Machine

/-- Settles O7: a magnitude lies between two neighbouring codes; rounding takes the one or the other, and every other number of the format
lies beyond them. -/
theorem roundingIsCorrect : Obligations.RoundingIsCorrect := by
  unfold Obligations.RoundingIsCorrect
  intro fmt hfmt mode x z
  obtain ⟨hf, hi⟩ : 0 < fmt.fbits ∧ 0 < fmt.infCode := by
    simp only [List.mem_cons, List.not_mem_nil, or_false] at hfmt
    rcases hfmt with rfl | rfl | rfl | rfl <;> decide
  exact roundDy_correct hf hi

end
